-- ==== Sys2Proof/Word.lean ====
section
/-!
DEFINITION. The words of the module: bytes, the logical core, die, pipeline and session numbers, and the
32-bit word of binary32 patterns. Nothing here computes more than a type.
-/
namespace Sys2Proof

/-- One byte of device memory. -/
abbrev Byte := BitVec 8

/-- A binary32 bit pattern, W32 of R36 and R45. -/
abbrev W32 := BitVec 32

/-- A 128-bit key or counter of Sloe is four of these (R219). -/
abbrev Word := BitVec 32

/-- A logical core, 0 to 127 (R20). -/
abbrev Core := Fin 128

/-- A compute die, 0 to 3 (R16). -/
abbrev Die := Fin 4

/-- An attention pipeline 8d + i, 0 to 31 (R242). -/
abbrev Pipe := Fin 32

/-- A Dunrel session slot, 0 to 15 (R462). -/
abbrev Sess := Fin 16

/-- A channel of module memory, 0 to 127 (R323). -/
abbrev Chan := Fin 128

/-- The compute die that runs a logical core (R20, R21: a logical core never leaves its die). -/
def Core.die (l : Core) : Die := ⟨l.val / 32, by omega⟩

/-- The converter cluster 4d + c that serves a logical core (R17). -/
def Core.cluster (l : Core) : Fin 16 := ⟨l.val / 8, by omega⟩

/-- The die of a pipeline (R242). -/
def Pipe.die (q : Pipe) : Die := ⟨q.val / 8, by omega⟩

end Sys2Proof
end

