-- ==== Sys2Proof/Machine/Exact.lean ====
section
/-!
DEFINITION. Exact values: `Dy` is a dyadic number m × 2^e, closed under sum and product, in which every group
sum and product of the arrays is formed (R59, R60, R61); `Q` is a ratio with a positive denominator, which a
division by a block scale or a row sum needs (R69, R251). No operation here rounds.
-/
namespace Sys2Proof.Machine

/-- The dyadic number m × 2^e. -/
structure Dy where
  m : Int
  e : Int
  deriving DecidableEq, Repr

/-- A ratio n / d; every `Q` of the model has d positive. -/
structure Q where
  n : Int
  d : Nat
  deriving DecidableEq, Repr

def Dy.zero : Dy := ⟨0, 0⟩
def Dy.ofInt (i : Int) : Dy := ⟨i, 0⟩
/-- 2^k. -/
def Dy.pow2 (k : Int) : Dy := ⟨1, k⟩

def Dy.mul (a b : Dy) : Dy := ⟨a.m * b.m, a.e + b.e⟩
def Dy.neg (a : Dy) : Dy := ⟨-a.m, a.e⟩
def Dy.abs (a : Dy) : Dy := ⟨a.m.natAbs, a.e⟩

/-- The sum, at the smaller of the two exponents; a zero takes no part in the exponent. -/
def Dy.add (a b : Dy) : Dy :=
  if a.m = 0 then b
  else if b.m = 0 then a
  else if a.e ≤ b.e then ⟨a.m + b.m * 2 ^ (b.e - a.e).toNat, a.e⟩
  else ⟨a.m * 2 ^ (a.e - b.e).toNat + b.m, b.e⟩

def Dy.sub (a b : Dy) : Dy := a.add b.neg

def Dy.isZero (a : Dy) : Bool := a.m == 0
def Dy.isNeg (a : Dy) : Bool := a.m < 0

/-- a < b. -/
def Dy.lt (a b : Dy) : Bool := (a.sub b).m < 0
/-- a ≤ b. -/
def Dy.le (a b : Dy) : Bool := (a.sub b).m ≤ 0
/-- a = b as numbers. -/
def Dy.eqv (a b : Dy) : Bool := (a.sub b).m == 0

/-- The sum of a list. -/
def Dy.sum : List Dy → Dy
  | [] => Dy.zero
  | a :: r => a.add (Dy.sum r)

/-- A dyadic number as a ratio. -/
def Dy.toQ (a : Dy) : Q :=
  if a.e < 0 then ⟨a.m, 2 ^ (-a.e).toNat⟩ else ⟨a.m * 2 ^ a.e.toNat, 1⟩

/-- a / b for b not zero; b = 0 gives 0, which no rule of the model asks for (R69: no conversion divides by a
block scale of zero). -/
def Dy.div (a b : Dy) : Q :=
  if b.m = 0 then ⟨0, 1⟩
  else
    let s : Int := if b.m < 0 then -1 else 1
    let bm := b.m.natAbs
    if a.e ≥ b.e then ⟨s * a.m * 2 ^ (a.e - b.e).toNat, bm⟩
    else ⟨s * a.m, bm * 2 ^ (b.e - a.e).toNat⟩

def Q.zero : Q := ⟨0, 1⟩
def Q.ofInt (i : Int) : Q := ⟨i, 1⟩
def Q.mul (a b : Q) : Q := ⟨a.n * b.n, a.d * b.d⟩
def Q.add (a b : Q) : Q := ⟨a.n * b.d + b.n * a.d, a.d * b.d⟩
def Q.neg (a : Q) : Q := ⟨-a.n, a.d⟩
def Q.sub (a b : Q) : Q := a.add b.neg
def Q.abs (a : Q) : Q := ⟨a.n.natAbs, a.d⟩
def Q.lt (a b : Q) : Bool := a.n * b.d < b.n * a.d
def Q.le (a b : Q) : Bool := a.n * b.d ≤ b.n * a.d
def Q.eqv (a b : Q) : Bool := a.n * b.d == b.n * a.d
def Q.isZero (a : Q) : Bool := a.n == 0
def Q.isNeg (a : Q) : Bool := a.n < 0
/-- The floor of a ratio. -/
def Q.floor (a : Q) : Int := a.n / (a.d : Int)
/-- The ceiling of a ratio. -/
def Q.ceil (a : Q) : Int := -((-a.n) / (a.d : Int))

/-- n/d scaled by 2^k. -/
def Q.scale2 (a : Q) (k : Int) : Q :=
  if k < 0 then ⟨a.n, a.d * 2 ^ (-k).toNat⟩ else ⟨a.n * 2 ^ k.toNat, a.d⟩

/-- The nearest natural number to n/d for n ≥ 0, ties to even (R72). -/
def roundNat (n d : Nat) : Nat :=
  let f := n / d
  let r := n % d
  if 2 * r < d then f else if 2 * r > d then f + 1 else f + f % 2

/-- ⌊log2 |q|⌋ of a non-zero ratio. -/
def Q.log2 (a : Q) : Int :=
  let n := a.n.natAbs
  let k : Int := (n.log2 : Int) - (a.d.log2 : Int)
  -- n/d lies in [2^(k-1), 2^(k+1)): one comparison settles which half
  let ge := if k < 0 then n * 2 ^ (-k).toNat ≥ a.d else n ≥ a.d * 2 ^ k.toNat
  if ge then k else k - 1

/-- The largest r with r^2 ≤ n, bit by bit over `fuel` bits. -/
def isqrtAux : Nat → Nat → Nat → Nat
  | 0, _, r => r
  | b + 1, n, r =>
    let t := r + 2 ^ b
    if t * t ≤ n then isqrtAux b n t else isqrtAux b n r

/-- ⌊√n⌋. -/
def isqrt (n : Nat) : Nat := isqrtAux (n.log2 / 2 + 1) n 0

end Sys2Proof.Machine
end

