-- ==== Sys2Proof/Machine/Formats.lean ====
section
/-!
DEFINITION. The number formats of "Number formats, scales and the arithmetic of a group": codes, scales, decoding
(R70), the one encoding of a value into a target (R69, R71 to R76), W32 arithmetic (R557) and the master pair (R50,
R51).
-/
namespace Sys2Proof.Machine

/-- The twelve formats of R36. -/
inductive Format where
  | b2 | b3 | b4 | s4 | u4 | k8 | l8 | w16 | w32 | m8 | v8 | rm8
  deriving DecidableEq, Repr

/-- The format of a code; a code from 0x0C up is refused (R37). -/
def Format.ofCode : Nat → Option Format
  | 0 => some .b2 | 1 => some .b3 | 2 => some .b4 | 3 => some .s4 | 4 => some .u4 | 5 => some .k8
  | 6 => some .l8 | 7 => some .w16 | 8 => some .w32 | 9 => some .m8 | 10 => some .v8 | 11 => some .rm8
  | _ => none

/-- The code of a format (R36). -/
def Format.code : Format → Nat
  | .b2 => 0 | .b3 => 1 | .b4 => 2 | .s4 => 3 | .u4 => 4 | .k8 => 5 | .l8 => 6 | .w16 => 7 | .w32 => 8
  | .m8 => 9 | .v8 => 10 | .rm8 => 11

/-- Bits per element (R36). -/
def Format.bits : Format → Nat
  | .b2 => 2 | .b3 => 3 | .b4 => 4 | .s4 => 4 | .u4 => 4 | .k8 => 8 | .l8 => 8 | .w16 => 16 | .w32 => 32
  | .m8 => 8 | .v8 => 8 | .rm8 => 8

/-- B2, B3 and B4, whose codes index a grid (R38 to R40). -/
def Format.isGrid : Format → Bool
  | .b2 | .b3 | .b4 => true
  | _ => false

/-- The formats of five bits or fewer in which Reed forms integer products (R58). -/
def Format.isNarrow : Format → Bool
  | .b2 | .b3 | .b4 | .s4 | .u4 => true
  | _ => false

/-- Formats that carry a tensor scale and block scales (R36, last columns). -/
def Format.isScaled : Format → Bool
  | .w16 | .w32 | .rm8 => false
  | _ => true

/-- An exact value with the special values of the floating formats; the sign of a zero is kept. -/
inductive Ext where
  | nan
  | inf (neg : Bool)
  | fin (neg : Bool) (v : Dy)
  deriving DecidableEq, Repr

/-- The exact finite value; the special values give 0. -/
def Ext.dy : Ext → Dy
  | .fin _ v => v
  | _ => Dy.zero

def Ext.isFin : Ext → Bool
  | .fin _ _ => true
  | _ => false

def Ext.isNan : Ext → Bool
  | .nan => true
  | _ => false

def Ext.isInf : Ext → Bool
  | .inf _ => true
  | _ => false

def Ext.neg? : Ext → Bool
  | .nan => false
  | .inf s => s
  | .fin s _ => s

/-- A finite value with its sign read from the value; a zero is positive. -/
def Ext.ofDy (v : Dy) : Ext := .fin v.isNeg v

/-! ### Binary floating formats -/

/-- A binary floating format: fraction bits, the exponent of its smallest subnormal, and the largest finite
magnitude code. -/
structure FloatFmt where
  p : Nat
  qmin : Int
  maxCode : Nat
  deriving DecidableEq, Repr

def fmtW32 : FloatFmt := ⟨23, -149, 0x7F7FFFFF⟩
def fmtW16 : FloatFmt := ⟨7, -133, 0x7F7F⟩
def fmtK8 : FloatFmt := ⟨3, -9, 0x7E⟩
def fmtL8 : FloatFmt := ⟨2, -16, 0x7B⟩

/-- The exact magnitude of a magnitude code of a floating format (R44, R45). -/
def FloatFmt.mag (f : FloatFmt) (c : Nat) : Dy :=
  let e := c / 2 ^ f.p
  let m := c % 2 ^ f.p
  if e = 0 then ⟨m, f.qmin⟩ else ⟨m + 2 ^ f.p, f.qmin + (e : Int) - 1⟩

/-- The exponent of the last fraction bit for a magnitude q > 0: subnormals share the smallest. -/
def FloatFmt.quantum (f : FloatFmt) (q : Q) : Int := max (q.log2 - (f.p : Int)) f.qmin

/-- The magnitude code that rounding to nearest, ties to even, gives, with the exponent unbounded above
(R72, R74). -/
def FloatFmt.roundNear (f : FloatFmt) (q : Q) : Nat :=
  if q.n = 0 then 0
  else
    let k := f.quantum q
    let s := q.scale2 (-k)
    (k - f.qmin).toNat * 2 ^ f.p + roundNat s.n.natAbs s.d

/-- The magnitude code that stochastic rounding gives with n random bits r (R73). -/
def FloatFmt.roundStoch (f : FloatFmt) (q : Q) (n r : Nat) : Nat :=
  if q.n = 0 then 0
  else
    let k := f.quantum q
    let s := q.scale2 (-k)
    let lo := s.n.natAbs / s.d
    let fr := (s.n.natAbs % s.d) * 2 ^ n / s.d
    (k - f.qmin).toNat * 2 ^ f.p + (if r < fr then lo + 1 else lo)

/-! ### W32 -/

/-- The canonical NaN of W32 (R46). -/
def w32Nan : W32 := 0x7FC00000#32
def w32One : W32 := 0x3F800000#32

/-- The infinity of a sign. -/
def w32Inf (neg : Bool) : W32 := if neg then 0xFF800000#32 else 0x7F800000#32
def w32Zero (neg : Bool) : W32 := if neg then 0x80000000#32 else 0#32

/-- The value of a W32 word (R45). -/
def w32Val (x : W32) : Ext :=
  let n := x.toNat
  let s := decide (n ≥ 2 ^ 31)
  let c := n % 2 ^ 31
  if c > 0x7F800000 then .nan
  else if c = 0x7F800000 then .inf s
  else
    let m := fmtW32.mag c
    .fin s (if s then m.neg else m)

def w32IsNan (x : W32) : Bool := (w32Val x).isNan
def w32IsInf (x : W32) : Bool := (w32Val x).isInf
def w32IsFin (x : W32) : Bool := (w32Val x).isFin
/-- +0 or −0. -/
def w32IsZero (x : W32) : Bool := x.toNat % 2 ^ 31 == 0

/-- Finite, positive and normal, as a tensor scale must be (R52). -/
def w32Normal (x : W32) : Bool := 0x00800000 ≤ x.toNat && x.toNat < 0x7F800000

/-- Finite and normal of either sign (R62, R249). -/
def w32FinNormal (x : W32) : Bool :=
  let c := x.toNat % 2 ^ 31
  0x00800000 ≤ c && c < 0x7F800000

/-- The rounding of every unit to W32 (R557): to nearest, ties to even; a non-zero value below 2^−149 gives a zero of its
sign; a value that rounds to 2^128 or more gives the infinity of its sign (R67). `zneg` is the sign of an exact
zero. -/
def roundQ (q : Q) (zneg : Bool := false) : W32 :=
  if q.n = 0 then w32Zero zneg
  else
    let s := q.isNeg
    let a := q.abs
    if a.lt ⟨1, 2 ^ 149⟩ then w32Zero s
    else
      let c := fmtW32.roundNear a
      if c > fmtW32.maxCode then w32Inf s
      else BitVec.ofNat 32 (c + (if s then 2 ^ 31 else 0))

/-- `roundQ` of a dyadic number: r( ) of the manual. -/
def roundDy (v : Dy) (zneg : Bool := false) : W32 := roundQ v.toQ zneg

/-- The value is non-zero and below 2^−149: R63 counts such a flush. -/
def flushes (v : Dy) : Bool := v.m != 0 && v.abs.toQ.lt ⟨1, 2 ^ 149⟩

/-- W32 negation of the sign bit. -/
def w32Neg (x : W32) : W32 := x ^^^ 0x80000000#32
def w32Abs (x : W32) : W32 := x &&& 0x7FFFFFFF#32

/-- a + b in W32 (R557; R390 and R135 for the special values). -/
def w32Add (a b : W32) : W32 :=
  match w32Val a, w32Val b with
  | .nan, _ => w32Nan
  | _, .nan => w32Nan
  | .inf s, .inf t => if s = t then w32Inf s else w32Nan
  | .inf s, _ => w32Inf s
  | _, .inf s => w32Inf s
  | .fin s x, .fin t y => roundDy (x.add y) (s && t && x.isZero && y.isZero)

def w32Sub (a b : W32) : W32 := w32Add a (w32Neg b)

/-- a × b in W32. -/
def w32Mul (a b : W32) : W32 :=
  match w32Val a, w32Val b with
  | .nan, _ => w32Nan
  | _, .nan => w32Nan
  | .inf s, .inf t => w32Inf (s != t)
  | .inf s, .fin t y => if y.isZero then w32Nan else w32Inf (s != t)
  | .fin s x, .inf t => if x.isZero then w32Nan else w32Inf (s != t)
  | .fin s x, .fin t y => roundDy (x.mul y) (s != t)

/-- a / b in W32. -/
def w32Div (a b : W32) : W32 :=
  match w32Val a, w32Val b with
  | .nan, _ => w32Nan
  | _, .nan => w32Nan
  | .inf _, .inf _ => w32Nan
  | .inf s, .fin t _ => w32Inf (s != t)
  | .fin s _, .inf t => w32Zero (s != t)
  | .fin s x, .fin t y =>
    if y.isZero then (if x.isZero then w32Nan else w32Inf (s != t))
    else if x.isZero then w32Zero (s != t)
    else roundQ (x.div y) (s != t)

/-- √q correctly rounded to W32 for q ≥ 0 (R188, R196): the root is found to 200 binary places more than W32 can hold,
and a sticky bit stands for the rest. -/
def sqrtQ (q : Q) : W32 :=
  if q.n ≤ 0 then 0#32
  else
    let k := 2 * (220 + q.d.log2)
    let n := q.n.natAbs * 2 ^ k / q.d
    let exact := q.n.natAbs * 2 ^ k % q.d == 0
    let r := isqrt n
    let sticky := if exact && r * r == n then 0 else 1
    roundQ ⟨2 * r + sticky, 2 ^ (k / 2 + 1)⟩

/-- √x in W32: −0 gives −0, a negative value gives NaN. -/
def w32Sqrt (x : W32) : W32 :=
  match w32Val x with
  | .nan => w32Nan
  | .inf s => if s then w32Nan else w32Inf false
  | .fin s v => if v.isZero then w32Zero s else if s then w32Nan else sqrtQ v.toQ

/-- a < b for W32 words that are not NaN; a comparison with NaN is false. -/
def w32Lt (a b : W32) : Bool :=
  match w32Val a, w32Val b with
  | .nan, _ => false
  | _, .nan => false
  | .inf s, .inf t => s && !t
  | .inf s, _ => s
  | _, .inf t => !t
  | .fin _ x, .fin _ y => x.lt y

def w32Le (a b : W32) : Bool :=
  !(w32Val a).isNan && !(w32Val b).isNan && !(w32Lt b a)

/-! ### Scales -/

/-- The value of a fine-scale byte (R53). -/
def fineVal (c : Nat) : Dy :=
  let e := c / 16 % 16
  let m := c % 16
  if e = 0 then ⟨m, -11⟩ else ⟨16 + m, (e : Int) - 12⟩

/-- The exponent field of a fine-scale byte. -/
def fineExp (c : Nat) : Nat := c / 16 % 16

/-- The doubling of a fine-scale code (R56). -/
def fineDouble (c : Nat) : Nat :=
  let e := c / 16 % 16
  let m := c % 16
  if e = 15 then 0xFF
  else if e = 0 then (if 2 * m < 16 then 2 * m else 16 + (2 * m - 16))
  else (e + 1) * 16 + m

/-- Half of n, a tie going to the even neighbour. -/
def halfEven (n : Nat) : Nat := roundNat n 2

/-- The halving of a fine-scale code (R56). -/
def fineHalve (c : Nat) : Nat :=
  let e := c / 16 % 16
  let m := c % 16
  if e ≥ 2 then (e - 1) * 16 + m
  else if e = 1 then halfEven (16 + m)
  else if m ≥ 2 then halfEven m
  else c

/-- The value of a tensor scale; R52 makes it finite and positive wherever it is used. -/
def tscaleVal (t : W32) : Dy := (w32Val t).dy

/-! ### Grids and logarithmic codes -/

/-- The grid numerators of B4, B3 and B2 in index order (R38 to R40). -/
def gridNums : Format → List Nat
  | .b4 => [0, 6, 12, 19, 27, 36, 47, 64]
  | .b3 => [0, 11, 28, 64]
  | .b2 => [0, 64]
  | _ => []

/-- The lifted code of a grid format (R38 to R40). -/
def liftedCode : Format → Nat
  | .b4 => 8
  | .b3 => 4
  | .b2 => 2
  | _ => 0

/-- The sign and grid index of a grid code that is not lifted. -/
def gridSplit (f : Format) (c : Nat) : Bool × Nat :=
  match f with
  | .b4 => (decide (c % 16 ≥ 8), c % 8)
  | .b3 => (decide (c % 8 ≥ 4), c % 4)
  | _ => (decide (c % 4 = 3), c % 2)

/-- The code of a sign and grid index; a zero of either sign is the all-zero code (R41). -/
def gridJoin (f : Format) (neg : Bool) (i : Nat) : Nat :=
  if i = 0 then 0
  else match f with
    | .b4 => i + (if neg then 8 else 0)
    | .b3 => i + (if neg then 4 else 0)
    | _ => if neg then 3 else 1

/-- The signed integer that a narrow code enters a multiplier as (R58, R81); a lifted code gives 0. -/
def narrowInt (f : Format) (c z : Nat) : Int :=
  match f with
  | .s4 => if c % 16 ≥ 8 then (c % 16 : Int) - 16 else (c % 16 : Int)
  | .u4 => (c % 16 : Int) - (z : Int)
  | _ =>
    if f.isGrid then
      if c % 2 ^ f.bits = liftedCode f then 0
      else
        let p := gridSplit f c
        let g : Nat := (gridNums f).getD p.2 0
        if p.1 then -(g : Int) else (g : Int)
    else 0

/-- The exponent of the unit of that integer: 2^−6 for grids, 1 for integers (R58). -/
def narrowUnit (f : Format) : Int := if f.isGrid then -6 else 0

/-- The largest m with m^16 ≤ n. -/
def root16Aux : Nat → Nat → Nat → Nat
  | 0, _, r => r
  | b + 1, n, r =>
    let t := r + 2 ^ b
    if t ^ 16 ≤ n then root16Aux b n t else root16Aux b n r

/-- T[c] of R49: the binary32 value nearest to 2^((c − 255)/16), for c from 1 to 255. -/
def v8Table (c : Nat) : Dy :=
  let k := 255 - c
  let a := k / 16
  let b := k % 16
  if b = 0 then ⟨1, -(a : Int)⟩
  else
    let m := root16Aux 25 (2 ^ (384 - b)) 0
    let m' := if (2 * m + 1) ^ 16 ≤ 2 ^ (400 - b) then m + 1 else m
    ⟨m', -24 - (a : Int)⟩

/-- The value of a V8 code before scales (R49). -/
def v8Val (c : Nat) : Dy := if c = 0 then Dy.zero else v8Table c

/-- The code of 0 to n whose V8 value is nearest y, by linear distance, a tie going to the even code (R71). -/
def v8Nearest (y : Q) : Nat → Nat
  | 0 => 0
  | n + 1 =>
    let b := v8Nearest y n
    let db := (y.sub (v8Val b).toQ).abs
    let dn := (y.sub (v8Val (n + 1)).toQ).abs
    if dn.lt db then n + 1
    else if dn.eqv db then (if b % 2 = 0 then b else n + 1)
    else b

/-- The V8 step above code 255, the binary32 value nearest to 2^(1/16), twice T[240]: with the exponent unbounded above
(R69, R74) a magnitude above 1 rounds to 1 or to it (log 111: DEDUCED). -/
def v8Above : Dy := ⟨(v8Table 240).m, (v8Table 240).e + 1⟩

/-- Whether a rounded V8 magnitude exceeds the largest finite one (R74): y is not nearer T[255] = 1 than the step above
it; the tie goes to the even 256 (R71, log 111: DEDUCED). -/
def v8Overflows (y : Q) : Bool := !((y.sub (Q.ofInt 1)).lt (v8Above.toQ.sub y))

/-! ### Decoding -/

/-- The value of a magnitude code with a sign, under a scale. -/
def floatExt (f : FloatFmt) (neg : Bool) (c : Nat) (scale : Dy) : Ext :=
  let v := (f.mag c).mul scale
  .fin neg (if neg then v.neg else v)

/-- The exact value of a code under a fine scale f, a tensor scale t and a zero point z (R70). M8 is not here: its
unit 1/127 is no dyadic number (`decodeM8`). -/
def decode (fm : Format) (c : Nat) (f t : Dy) (z : Nat) : Ext :=
  match fm with
  | .k8 =>
    let s := decide (c % 256 ≥ 128)
    let m := c % 128
    if m = 0x7F then .nan else floatExt fmtK8 s m (f.mul t)
  | .l8 =>
    let s := decide (c % 256 ≥ 128)
    let m := c % 128
    if m > 0x7C then .nan else if m = 0x7C then .inf s else floatExt fmtL8 s m (f.mul t)
  | .w16 =>
    let s := decide (c % 65536 ≥ 32768)
    let m := c % 32768
    if m > 0x7F80 then .nan else if m = 0x7F80 then .inf s else floatExt fmtW16 s m (Dy.ofInt 1)
  | .w32 => w32Val (BitVec.ofNat 32 c)
  | .v8 => .fin false ((v8Val (c % 256)).mul (f.mul t))
  | .rm8 => .fin false (Dy.ofInt (c % 256))
  | .m8 => .fin false Dy.zero
  | _ => Ext.ofDy ((Dy.mk (narrowInt fm c z) (narrowUnit fm)).mul (f.mul t))

/-- The exact value of an M8 code (R48, R70): q/127 × f × t, 0x80 read as −127. -/
def decodeM8 (c : Nat) (f t : Dy) : Q :=
  let q : Int := if c % 256 = 128 then -127 else if c % 256 > 128 then (c % 256 : Int) - 256 else (c % 256 : Int)
  Q.mul ⟨q, 127⟩ (f.mul t).toQ

/-! ### Encoding -/

/-- How an encoding rounds: to nearest, or stochastically with n bits of which r were drawn (R72, R73). -/
inductive Rounding where
  | near
  | stoch (n r : Nat)
  deriving DecidableEq, Repr

/-- What one encoding gives: the code, and the counters and block flags it moves (R69, R76). -/
structure Enc where
  code : Nat
  ovf : Bool := false
  under : Bool := false
  nan : Bool := false
  inf : Bool := false
  deriving DecidableEq, Repr

/-- The largest finite code of a target with a sign (R71). -/
def largestCode (fm : Format) (neg : Bool) : Nat :=
  match fm with
  | .b4 => if neg then 0xF else 7
  | .b3 => if neg then 7 else 3
  | .b2 => if neg then 3 else 1
  | .s4 => if neg then 8 else 7
  | .u4 => if neg then 0 else 15
  | .k8 => if neg then 0xFE else 0x7E
  | .l8 => if neg then 0xFB else 0x7B
  | .w16 => if neg then 0xFF7F else 0x7F7F
  | .w32 => if neg then 0xFF7FFFFF else 0x7F7FFFFF
  | .m8 => if neg then 0x81 else 0x7F
  | .v8 => 255
  | .rm8 => 0

/-- `overflow` of R69. -/
def overflowEnc (fm : Format) (neg ovfInf infIn : Bool) : Enc :=
  if infIn && (fm == .w16 || fm == .w32 || fm == .l8) then
    { code := match fm with
        | .w16 => if neg then 0xFF80 else 0x7F80
        | .w32 => if neg then 0xFF800000 else 0x7F800000
        | _ => if neg then 0xFC else 0x7C,
      inf := true }
  else
    { code :=
        if fm == .v8 && neg then 0
        else if fm == .l8 && ovfInf then (if neg then 0xFC else 0x7C)
        else if fm == .k8 && ovfInf then 0x7F
        else largestCode fm neg,
      ovf := true, inf := infIn }

/-- The zero code of a target with the sign of the value (R69): signed in the floating formats. -/
def zeroCode (fm : Format) (neg : Bool) (z : Nat) : Nat :=
  match fm with
  | .k8 => if neg then 0x80 else 0
  | .l8 => if neg then 0x80 else 0
  | .w16 => if neg then 0x8000 else 0
  | .w32 => if neg then 0x80000000 else 0
  | .u4 => z
  | _ => 0

/-- The index of the grid magnitude that a |y| in 64ths, not above 64, rounds to. -/
def gridRound (nums : List Nat) (a : Q) (rm : Rounding) : Nat :=
  let a64 := a.scale2 6
  -- i is the largest index whose numerator is at most a
  let i := ((nums.drop 1).filter (fun (g : Nat) => (Q.ofInt (g : Int)).le a64)).length
  let lo := nums.getD i 0
  match nums[i + 1]? with
  | none => i
  | some hi =>
    let num := a64.sub (Q.ofInt lo)
    let gap := hi - lo
    match rm with
    | .near =>
      let t : Q := ⟨2 * num.n, num.d⟩
      if t.lt (Q.ofInt gap) then i else if (Q.ofInt gap).lt t then i + 1 else i + i % 2
    | .stoch n r =>
      let fr := num.n.natAbs * 2 ^ n / (num.d * gap)
      if r < fr then i + 1 else i

/-- The integer magnitude that |y| rounds to. -/
def intRound (a : Q) (rm : Rounding) : Nat :=
  match rm with
  | .near => roundNat a.n.natAbs a.d
  | .stoch n r =>
    let lo := a.n.natAbs / a.d
    let fr := (a.n.natAbs % a.d) * 2 ^ n / a.d
    if r < fr then lo + 1 else lo

/-- The encoding into a floating format of a non-zero y. -/
def encFloat (fm : Format) (ff : FloatFmt) (signBit : Nat) (y : Q) (rm : Rounding) (ovfInf : Bool) : Enc :=
  let s := y.isNeg
  let a := y.abs
  if a.lt ((Dy.pow2 ff.qmin).toQ) then { code := zeroCode fm s 0, under := true }
  else
    let c := match rm with
      | .near => ff.roundNear a
      | .stoch n r => ff.roundStoch a n r
    if c > ff.maxCode then overflowEnc fm s ovfInf false
    else { code := c + (if s then signBit else 0) }

/-- `encode` of R69 for a finite y = v / block scale (`yneg` is the sign of a zero). -/
def encodeQ (fm : Format) (y : Q) (yneg : Bool) (rm : Rounding) (z : Nat) (ovfInf : Bool) : Enc :=
  if y.n = 0 then { code := zeroCode fm yneg z }
  else
    let s := y.isNeg
    let a := y.abs
    match fm with
    | .k8 => encFloat .k8 fmtK8 0x80 y rm ovfInf
    | .l8 => encFloat .l8 fmtL8 0x80 y rm ovfInf
    | .w16 => encFloat .w16 fmtW16 0x8000 y rm ovfInf
    | .w32 => encFloat .w32 fmtW32 0x80000000 y rm ovfInf
    | .s4 =>
      let q := intRound a rm
      if (if s then q > 8 else q > 7) then overflowEnc .s4 s ovfInf false
      else { code := if s then (16 - q) % 16 else q }
    | .u4 =>
      let q : Int := if s then -(intRound a rm : Int) else (intRound a rm : Int)
      let u := q + z
      if u < 0 then overflowEnc .u4 true ovfInf false
      else if u > 15 then overflowEnc .u4 false ovfInf false
      else { code := u.toNat }
    | .m8 =>
      let q := roundNat (127 * a.n.natAbs) a.d
      if q > 127 then overflowEnc .m8 s ovfInf false
      else { code := if s then (256 - q) % 256 else q }
    | .v8 =>
      if s then overflowEnc .v8 true ovfInf false
      else if v8Overflows a then overflowEnc .v8 false ovfInf false
      else { code := v8Nearest a 255 }
    | .rm8 => { code := 0 }
    | g =>
      if (Q.ofInt 1).lt a then overflowEnc g s ovfInf false
      else { code := gridJoin g s (gridRound (gridNums g) a rm) }

/-- `encode` of R69: NaN, infinities, zeros and finite values into a target under a block scale; the block scale of
W16, W32 and RM8 is 1. `lift` is Eaves's decision (R157, R158). -/
def encode (fm : Format) (v : Ext) (scale : Dy) (rm : Rounding) (z : Nat) (ovfInf lift : Bool) : Enc :=
  if lift then { code := liftedCode fm }
  else match v with
    | .nan =>
      { code := match fm with
          | .k8 => 0x7F | .l8 => 0x7E | .w16 => 0x7FC0 | .w32 => 0x7FC00000 | .u4 => z | _ => 0,
        nan := true }
    | .inf s => overflowEnc fm s ovfInf true
    | .fin s d => encodeQ fm (if fm.isScaled then d.div scale else d.toQ) s rm z ovfInf

/-- The reach of a target (table before R151). -/
def reach (fm : Format) (z : Nat) : Nat :=
  match fm with
  | .s4 => 7
  | .u4 => 15 - z
  | .k8 => 448
  | .l8 => 57344
  | _ => 1

/-- The smallest fine-scale code from c up whose value × t × reach is at least a, looking at `fuel` codes; none when no
code up to 0xFF is large enough. -/
def measureFrom (t : Dy) (rch : Dy) (a : Dy) : Nat → Nat → Option Nat
  | 0, _ => none
  | fuel + 1, c =>
    if a.le (((fineVal c).mul t).mul rch) then some c else measureFrom t rch a fuel (c + 1)

/-- Measured mode's code for a block whose largest finite magnitude is a (R152, R197): the code, and whether it was
pinned at 0xFF. A zero a gives 0x00. -/
def measureCode (t : Dy) (rch : Dy) (a : Dy) : Nat × Bool :=
  if a.isZero then (0, false)
  else match measureFrom t rch a 255 1 with
    | some c => (c, false)
    | none => (0xFF, true)

/-! ### The master pair -/

/-- The master word of a pair (R50). -/
def masterWord (w16 rm8 : Nat) : W32 := BitVec.ofNat 32 ((w16 % 65536) * 65536 + (rm8 % 256) * 256)

/-- Damson's split of an updated value into the pair, with the saturation it counts (R51). -/
def masterSplit (x : W32) : Nat × Nat × Bool :=
  if w32IsNan x then (0x7FC0, 0, false)
  else
    let y := (x + 0x7F#32 + ((x >>> 8) &&& 1#32)) &&& 0xFFFFFF00#32
    let sat := w32IsInf y && !(w32IsInf x)
    let y' := if sat then (x &&& 0x80000000#32) ||| 0x7F7FFF00#32 else y
    (y'.toNat / 65536, y'.toNat / 256 % 256, sat)

end Sys2Proof.Machine
end

