-- ==== Sys2Proof/Machine/Memory.lean ====
section
/-!
DEFINITION. Device memory as plain data, the device address map (R326) and the homes of granules (R328 to R330, R342).
An unlisted address reads 0 (log 3: DESIGN CHOICE).
-/
namespace Sys2Proof.Machine

/-- The contents of device memory: cells at strictly rising addresses, none holding 0. -/
abbrev Mem := List Host.Cell

/-- Every listed address is above `lo`'s bound and no listed byte is 0. -/
def memSorted : Nat → Mem → Bool
  | _, [] => true
  | lo, (a, b) :: r => decide (lo ≤ a) && decide (b ≠ 0#8) && memSorted (a + 1) r

/-- The canonical form: addresses strictly rising, no entry equal to what an unlisted address reads as. -/
def Memory.wf (m : Mem) : Bool := memSorted 0 m

/-- One byte of memory. -/
def memGet : Mem → Nat → Byte
  | [], _ => 0#8
  | (k, b) :: r, a => if a < k then 0#8 else if a = k then b else memGet r a

/-- One byte stored; storing 0 removes the entry. -/
def memSet : Mem → Nat → Byte → Mem
  | [], a, v => if v = 0#8 then [] else [(a, v)]
  | (k, b) :: r, a, v =>
    if a < k then (if v = 0#8 then (k, b) :: r else (a, v) :: (k, b) :: r)
    else if a = k then (if v = 0#8 then r else (a, v) :: r)
    else (k, b) :: memSet r a v

/-- Consecutive bytes stored from an address. -/
def memWrite (m : Mem) (a : Nat) : List Byte → Mem
  | [] => m
  | b :: r => memWrite (memSet m a b) (a + 1) r

/-- `n` consecutive bytes from an address. -/
def memRead (m : Mem) (a : Nat) : Nat → List Byte
  | 0 => []
  | n + 1 => memGet m a :: memRead m (a + 1) n

/-- Bytes [src, src + n) copied to dst; the two spans do not overlap. -/
def memCopy (m : Mem) (src dst n : Nat) : Mem :=
  (m.filter fun c => decide (src ≤ c.1 ∧ c.1 < src + n)).foldl (fun t c => memSet t (c.1 - src + dst) c.2)
    (m.filter fun c => !decide (dst ≤ c.1 ∧ c.1 < dst + n))

/-- Bytes [a, a + n) set to 0. -/
def memClear (m : Mem) (a n : Nat) : Mem := m.filter fun c => !decide (a ≤ c.1 ∧ c.1 < a + n)

/-- The windows of R326. -/
inductive Window where
  | memory
  | thatch (d : Die)
  | sram (l : Core)
  | status
  | unmapped
  deriving DecidableEq, Repr

/-- Start of module memory's end, of Thatch, of the local SRAMs and of the status window (R326). -/
abbrev memEnd : Nat := 0x010000000000
/-- Thatch of die 0 (R326). -/
abbrev thatchBase : Nat := 0x010000000000
/-- Bytes from one die's Thatch to the next (R326). -/
abbrev thatchStride : Nat := 0x08000000
/-- Bytes of one die's Thatch (R326). -/
abbrev thatchSize : Nat := 0x06000000
/-- Local SRAM of logical core 0 (R326). -/
abbrev sramBase : Nat := 0x020000000000
/-- Bytes from one core's local SRAM to the next (R326). -/
abbrev sramStride : Nat := 0x01000000
/-- Bytes of one core's local SRAM (R326). -/
abbrev sramSize : Nat := 0x800000
/-- The status window (R326). -/
abbrev statusBase : Nat := 0x030000000000
/-- Bytes of the status window (R326). -/
abbrev statusSize : Nat := 0x1000000

/-- The window of a device address (R326). -/
def windowOf (a : Nat) : Window :=
  if a < memEnd then .memory
  else if a < thatchBase + 4 * thatchStride then
    let o := a - thatchBase
    if o % thatchStride < thatchSize then
      if h : o / thatchStride < 4 then .thatch ⟨o / thatchStride, h⟩ else .unmapped
    else .unmapped
  else if a < sramBase then .unmapped
  else if a < sramBase + 128 * sramStride then
    let o := a - sramBase
    if o % sramStride < sramSize then
      if h : o / sramStride < 128 then .sram ⟨o / sramStride, h⟩ else .unmapped
    else .unmapped
  else if statusBase ≤ a ∧ a < statusBase + statusSize then .status
  else .unmapped

/-- The local SRAM of a logical core starts here (R326). -/
def sramAddr (l : Core) : Nat := sramBase + l.val * sramStride

/-- The Thatch of a die starts here (R326). -/
def thatchAddr (d : Die) : Nat := thatchBase + d.val * thatchStride

/-- Whether every byte of [a, a + n) lies in one window that is mapped: windows are contiguous, so the two ends
decide when they agree. An empty span is mapped. -/
def spanMapped (a n : Nat) : Bool :=
  n == 0 || (windowOf a != .unmapped && windowOf a == windowOf (a + n - 1) && a + n ≤ 2 ^ 48)

/-- Whether two spans share a byte. -/
def overlaps (a n b m : Nat) : Bool := decide (0 < n ∧ 0 < m ∧ a < b + m ∧ b < a + n)

/-- Whether the first span lies inside the second. -/
def inside (a n b m : Nat) : Bool := decide (b ≤ a ∧ a + n ≤ b + m)

/-- The aligned 256-byte granules of a span (R303), in ascending address order. -/
def granulesOf (a n : Nat) : List Nat :=
  if n = 0 then [] else (List.range ((a + n - 1) / 256 - a / 256 + 1)).map fun i => (a / 256 + i) * 256

/-- The home of a granule: channel and channel-local index (R329). `full` is the group's mode. -/
def homeOf (full : Bool) (a : Nat) : Nat × Nat :=
  let k := a / 2 ^ 36 % 16
  if full then
    ((a / 2 ^ 8 % 128) ^^^ (a / 2 ^ 15 % 128), k * 2 ^ 21 + a / 2 ^ 15 % 2 ^ 21)
  else
    let d := a / 2 ^ 34 % 4
    let e := (a / 2 ^ 8 % 32) ^^^ (a / 2 ^ 13 % 32)
    (d * 32 + e, k * 2 ^ 21 + a / 2 ^ 13 % 2 ^ 21)

/-- The granule address with a given home: the inverse of `homeOf` in each mode (R329: the map is one to one). -/
def granuleAt (full : Bool) (c l : Nat) : Nat :=
  let k := l / 2 ^ 21 % 16
  let low := l % 2 ^ 21
  if full then k * 2 ^ 36 + low * 2 ^ 15 + ((c ^^^ (low % 128)) % 128) * 2 ^ 8
  else k * 2 ^ 36 + (c / 32) * 2 ^ 34 + low * 2 ^ 13 + (((c % 32) ^^^ (low % 32)) % 32) * 2 ^ 8

/-- Row, rank, bank group after hashing and bank of a channel-local index (R330). -/
def rowOf (l : Nat) : Nat := l / 2 ^ 9 % 2 ^ 16
/-- The rank bit (R330). -/
def rankOf (l : Nat) : Nat := l / 2 ^ 8 % 2
/-- The bank group (R330). -/
def bankGroupOf (l : Nat) : Nat := (l % 4) ^^^ (l / 2 ^ 9 % 4)
/-- The bank within the group (R330). -/
def bankOf (l : Nat) : Nat := l / 4 % 4

/-- The bank-group index of R330. -/
def bgi (c l : Nat) : Nat := 8 * c + 4 * rankOf l + bankGroupOf l

/-- The mirror of a device address (R342). -/
def mirrorOf (full : Bool) (a : Nat) : Nat := if full then a ^^^ 0x008000004000 else a ^^^ 0x008800000000

/-- The first address of reserve part n (R346). -/
def reservePart (n : Nat) : Nat := 0x010000000000 - (n + 1) * 0x000200000000

end Sys2Proof.Machine
end

