-- ==== Sys2Proof/Machine/Operands.lean ====
section
/-!
DEFINITION. Every operand form of the schedule stream: the operation word (R284, R285), the tensor descriptor (R291),
the product block (R288) and the attention block (R289), read from bytes; and the place of a tensor's elements and
fine scales in memory (R42, R54, R292).
-/
namespace Sys2Proof.Machine

/-! ### The operation word -/

/-- A field [hi:lo] of an operation word. -/
def opField (w : BitVec 256) (hi lo : Nat) : Nat := w.toNat / 2 ^ lo % 2 ^ (hi - lo + 1)

/-- The queues of R283. -/
inductive Queue where
  | reed | slate | eaves | quince | damson | gutter | bramble | sloe | flashing | valley | batten | prefetch | sched
  deriving DecidableEq, Repr

/-- The numbers of the queues in a violation entry's WHO (R479): the order of R283. -/
def Queue.num : Queue → Nat
  | .reed => 0 | .slate => 1 | .eaves => 2 | .quince => 3 | .damson => 4 | .gutter => 5 | .bramble => 6 | .sloe => 7
  | .flashing => 8 | .valley => 9 | .batten => 10 | .prefetch => 11 | .sched => 12

/-- The operations of R286. -/
inductive Opcode where
  | nop | fwd | bwd | bpair | tiedsum | convert | append | attn | sample | optstep | copy | prefetch | save | load | fill
  | coll | norm | wait | signal | fence | pmark | ctxsave
  deriving DecidableEq, Repr

/-- OPCODE [255:248] (R286); any other code is none. -/
def opcodeOf (w : BitVec 256) : Option Opcode :=
  match opField w 255 248 with
  | 0x00 => some .nop | 0x01 => some .fwd | 0x02 => some .bwd | 0x03 => some .bpair | 0x04 => some .tiedsum
  | 0x08 => some .convert | 0x09 => some .append | 0x0C => some .attn | 0x0D => some .sample | 0x10 => some .optstep
  | 0x14 => some .copy | 0x15 => some .prefetch | 0x18 => some .save | 0x19 => some .load | 0x1C => some .fill
  | 0x20 => some .coll | 0x24 => some .norm | 0x28 => some .wait | 0x29 => some .signal | 0x2A => some .fence
  | 0x2C => some .pmark | 0x2E => some .ctxsave
  | _ => none

/-- The queue of an operation (R286). -/
def Opcode.queue : Opcode → Queue
  | .fwd => .reed
  | .bwd => .slate | .bpair => .slate | .tiedsum => .slate
  | .convert => .eaves | .append => .eaves
  | .attn => .quince | .sample => .quince
  | .optstep => .damson
  | .copy => .gutter
  | .prefetch => .prefetch
  | .save => .bramble | .load => .bramble
  | .fill => .sloe
  | .coll => .flashing
  | .norm => .valley
  | .ctxsave => .batten
  | .nop => .sched | .wait => .sched | .signal => .sched | .fence => .sched | .pmark => .sched

/-- NWAIT (R284). -/
def opNWait (w : BitVec 256) : Nat := opField w 247 245
/-- NSET (R284). -/
def opNSet (w : BitVec 256) : Nat := opField w 244 243
/-- CONSUME (R284). -/
def opConsume (w : BitVec 256) : Bool := opField w 242 242 == 1
/-- OPF (R284). -/
def opFlags (w : BitVec 256) : Nat := opField w 241 240
/-- The tokens waited on: WAIT fields beyond NWAIT are ignored (R284). -/
def opWaits (w : BitVec 256) : List Nat :=
  [opField w 239 232, opField w 231 224, opField w 223 216, opField w 215 208].take (opNWait w)
/-- The tokens set: SET fields beyond NSET are ignored (R284). -/
def opSets (w : BitVec 256) : List Nat := [opField w 207 200, opField w 199 192].take (opNSet w)
/-- ARG0 to ARG7 of form D (R285). -/
def opArg (w : BitVec 256) (k : Nat) : Nat := opField w (191 - 16 * k) (176 - 16 * k)
/-- Bits [hi:lo] of IMM of form D (R285). -/
def opImm (w : BitVec 256) (hi lo : Nat) : Nat := opField w hi lo
/-- ARGS of form B: the byte offset of the argument block in the core's local SRAM (R285). -/
def opBlock (w : BitVec 256) : Nat := opField w 191 175 * 64

/-- "None" in a descriptor index (R285). -/
abbrev noDesc : Nat := 0xFFFF

/-! ### Fields of a byte string -/

/-- The little-endian number in bytes [o, o + n) of a string; bytes beyond its end read 0. -/
def fieldLE (b : List Byte) (o n : Nat) : Nat := ofLE ((b.drop o).take n)

/-- The byte at an offset. -/
def byteAt (b : List Byte) (o : Nat) : Nat := fieldLE b o 1

/-- A W32 at an offset. -/
def w32At (b : List Byte) (o : Nat) : W32 := BitVec.ofNat 32 (fieldLE b o 4)

/-- Bit k of a number. -/
def bitOf (n k : Nat) : Bool := n / 2 ^ k % 2 == 1

/-! ### Descriptors -/

/-- A tensor descriptor (R291). -/
structure Desc where
  base : Nat := 0
  format : Nat := 0
  blk : Nat := 0
  ovfInf : Bool := false
  cached : Bool := false
  lag : Nat := 0
  versioned : Bool := false
  splane : Nat := 0
  kind : Nat := 0
  dim0 : Nat := 0
  dim1 : Nat := 1
  dim2 : Nat := 1
  dim3 : Nat := 1
  stride1 : Nat := 0
  stride2 : Nat := 0
  stride3 : Nat := 0
  tscale : W32 := 0#32
  ident : Nat := 0
  deriving DecidableEq, Repr

/-- The descriptor that 64 bytes spell (R291). -/
def parseDesc (b : List Byte) : Desc :=
  let fl := byteAt b 7
  { base := fieldLE b 0 6
    format := byteAt b 6
    blk := fl % 4
    ovfInf := bitOf fl 2
    cached := bitOf fl 3
    lag := fl / 16 % 4
    versioned := bitOf fl 6
    splane := fieldLE b 8 6
    kind := byteAt b 0x0E
    dim0 := fieldLE b 0x10 4
    dim1 := fieldLE b 0x14 4
    dim2 := fieldLE b 0x18 4
    dim3 := fieldLE b 0x1C 4
    stride1 := fieldLE b 0x20 6
    stride2 := fieldLE b 0x28 6
    stride3 := fieldLE b 0x30 6
    tscale := w32At b 0x38
    ident := fieldLE b 0x3C 4 }

/-- The format of a tensor. -/
def Desc.fmt (d : Desc) : Format := (Format.ofCode d.format).getD .w32

/-- Elements of a block (R55). -/
def blockSize (blk : Nat) : Nat := 32 * 2 ^ blk

/-- Bytes of n packed elements (R42). -/
def packedBytes (f : Format) (n : Nat) : Nat := (f.bits * n + 7) / 8

/-- Rows of a tensor: the positions outside the innermost dimension (R292). -/
def Desc.rows (d : Desc) : Nat := d.dim1 * d.dim2 * d.dim3

/-- Bytes of the innermost run of a tensor or region. -/
def Desc.rowBytes (d : Desc) : Nat := if d.kind = 1 then d.dim0 else packedBytes d.fmt d.dim0

/-- Bytes from BASE to the end of the last element. -/
def Desc.spanBytes (d : Desc) : Nat :=
  if d.kind = 1 then d.dim0
  else (d.dim1 - 1) * d.stride1 + (d.dim2 - 1) * d.stride2 + (d.dim3 - 1) * d.stride3 + d.rowBytes

/-- Blocks of a row along the innermost dimension (R54). -/
def Desc.blocks (d : Desc) : Nat := (d.dim0 + blockSize d.blk - 1) / blockSize d.blk

/-- Bytes of a scale-plane entry: U4 has the zero point beside the fine scale (R54). -/
def Desc.scaleStep (d : Desc) : Nat := if d.fmt = .u4 then 2 else 1

/-- Bytes of the scale plane; formats without scales have none. -/
def Desc.planeBytes (d : Desc) : Nat :=
  if d.kind = 1 ∨ ¬ d.fmt.isScaled then 0 else d.rows * d.blocks * d.scaleStep

/-- The address of row i (R292): i1 + DIM1 × (i2 + DIM2 × i3) is the row index of R54. -/
def Desc.rowAddr (d : Desc) (i : Nat) : Nat :=
  d.base + (i % d.dim1) * d.stride1 + (i / d.dim1 % d.dim2) * d.stride2 + (i / d.dim1 / d.dim2) * d.stride3

/-- The bit address of element k of row i (R42): its first byte, and the bit within a little-endian read there. -/
def Desc.elemBit (d : Desc) (i k : Nat) : Nat × Nat :=
  let bit := d.fmt.bits * k
  (d.rowAddr i + bit / 8, bit % 8)

/-- The scale-plane address of block j of row i (R54). -/
def Desc.scaleAddr (d : Desc) (i j : Nat) : Nat := d.splane + (i * d.blocks + j) * d.scaleStep

/-- The scale-plane address of element (row, k) when the blocks run along the rows: the plane of a transposing copy is
the array of bytes transposed, so that the bytes of a block stand in rows of their own (R310, log 20: DEDUCED). -/
def Desc.crossAddr (d : Desc) (i k : Nat) : Nat :=
  d.splane + (i / blockSize d.blk) * d.scaleStep * d.dim0 + k

/-! ### Argument blocks -/

/-- One split entry of a product block (R288). -/
structure SplitArgs where
  streamed : Nat := noDesc
  stationary : Nat := noDesc
  start : Nat := noDesc
  acc0 : Nat := noDesc
  acc1 : Nat := noDesc
  zeroMap : Nat := noDesc
  mask : Nat := noDesc
  hip : Nat := noDesc
  wide : Nat := noDesc
  saved : Nat := noDesc
  deriving DecidableEq, Repr

/-- A product block (R288). -/
structure ProdBlock where
  shape : Nat := 0
  final : Bool := false
  startFlag : Bool := false
  orderOuter : Bool := false
  laneOrder : Bool := false
  crossA : Bool := false
  crossW : Bool := false
  deriv : Nat := 0
  ncb : Nat := 1
  nkt : Nat := 1
  m : Nat := 1
  klen : Nat := 1
  n : Nat := 1
  alpha : W32 := 0#32
  status : Nat := noDesc
  stage : Nat := noDesc
  splits : List SplitArgs := []
  deriving DecidableEq, Repr

/-- Splits of a shape (R91, R123). -/
def shapeSplits (shape : Nat) : Nat :=
  match shape with
  | 1 => 2 | 2 => 4 | 3 => 2 | 10 => 2 | _ => 1

/-- Lanes of a split (R91, R123). -/
def shapeLanes (shape : Nat) : Nat :=
  match shape with
  | 0 => 256 | 1 => 128 | 2 => 64 | 3 => 32 | 10 => 256 | _ => 512

/-- The first lane of a split (R91). -/
def splitBase (shape split : Nat) : Nat :=
  match shape with
  | 1 => 128 * split | 2 => 64 * split | 3 => 128 * split | 10 => 256 * split | _ => 0

/-- The split entry that 32 bytes spell. -/
def parseSplit (b : List Byte) : SplitArgs :=
  { streamed := fieldLE b 0 2, stationary := fieldLE b 2 2, start := fieldLE b 4 2, acc0 := fieldLE b 6 2,
    acc1 := fieldLE b 8 2, zeroMap := fieldLE b 10 2, mask := fieldLE b 12 2, hip := fieldLE b 14 2,
    wide := fieldLE b 16 2, saved := fieldLE b 18 2 }

/-- The product block that bytes spell; the shape says how many entries follow the header (R288). -/
def parseProd (b : List Byte) : ProdBlock :=
  let sh := byteAt b 0
  let fl := byteAt b 1
  { shape := sh
    final := bitOf fl 0, startFlag := bitOf fl 1, orderOuter := bitOf fl 2, laneOrder := bitOf fl 3
    crossA := bitOf fl 4, crossW := bitOf fl 5
    deriv := byteAt b 2
    ncb := fieldLE b 4 2, nkt := fieldLE b 6 2, m := fieldLE b 8 2
    klen := fieldLE b 0x0C 4, n := fieldLE b 0x10 4, alpha := w32At b 0x14
    status := fieldLE b 0x18 2, stage := fieldLE b 0x1A 2
    splits := (List.range (shapeSplits sh)).map fun i => parseSplit (b.drop (32 + 32 * i)) }

/-- Bytes to read for a product block: the header and at most four entries. -/
abbrev prodBytes : Nat := 160

/-- An attention block (R289). -/
structure AttnBlock where
  paged : Bool := false
  causal : Bool := false
  score : Bool := false
  walkEnd : Bool := false
  head : Nat := 0
  mq : Nat := 1
  sigma : W32 := 0#32
  window : Nat := 0
  nk : Nat := 0
  seq : Nat := 0
  lrec : Nat := 0
  group : Nat := 0
  q : Nat := noDesc
  qpos : Nat := noDesc
  k : Nat := noDesc
  v : Nat := noDesc
  acc0 : Nat := noDesc
  acc1 : Nat := noDesc
  out : Nat := noDesc
  lse : Nat := noDesc
  status : Nat := noDesc
  deriving DecidableEq, Repr

/-- The attention block that 64 bytes spell (R289). -/
def parseAttn (b : List Byte) : AttnBlock :=
  let fl := byteAt b 0
  { paged := bitOf fl 0, causal := bitOf fl 1, score := bitOf fl 2, walkEnd := bitOf fl 3
    head := byteAt b 1, mq := byteAt b 2, sigma := w32At b 4
    window := fieldLE b 8 3, nk := fieldLE b 0x0C 3
    seq := fieldLE b 0x10 2, lrec := fieldLE b 0x12 2, group := fieldLE b 0x14 2
    q := fieldLE b 0x18 2, qpos := fieldLE b 0x1A 2, k := fieldLE b 0x1C 2, v := fieldLE b 0x1E 2
    acc0 := fieldLE b 0x20 2, acc1 := fieldLE b 0x22 2, out := fieldLE b 0x24 2, lse := fieldLE b 0x26 2
    status := fieldLE b 0x28 2 }

end Sys2Proof.Machine
end

