-- ==== Sys2Proof/Machine/Records.lean ====
section
/-!
DEFINITION. The records that commands carry and State holds: what a schedule image says, trackers and layers, and the
messages of the port, of Dunrel and of recovery as they stand after their fields are taken apart.
-/
namespace Sys2Proof.Machine

/-! ### What a schedule image carries (R148 to R175, R412) -/

/-- A block-plane entry (R150), with the largest code that measured passes gave the block this step (R154). -/
structure Blk where
  pred : Nat := 0x80
  sat : Bool := false
  busy : Bool := false
  seen : Bool := false
  nan : Bool := false
  inf : Bool := false
  quiet : Nat := 0
  measured : Nat := 0
  deriving DecidableEq, Repr

/-- A history entry (R150). -/
structure Hist where
  step : Nat := 0
  ovf : Nat := 0
  spill : Nat := 0
  doubled : Nat := 0
  halved : Nat := 0
  deriving DecidableEq, Repr

/-- A tracker: its 192-byte record, block plane and channel plane (R150), the channel list (R158, R159), the division
of its output into conversion tiles that the image gives (R146, log 21: DESIGN CHOICE), and what the step has shown so far. -/
structure Tracker where
  tscale : W32 := 0x3F800000#32
  format : Nat := 0
  omode : Nat := 0
  cap : Nat := 0
  capMax : Nat := 0
  valid : Bool := false
  head : Nat := 0
  capQuiet : Nat := 0
  stepOvf : Nat := 0
  stepUnder : Nat := 0
  stepSpill : Nat := 0
  stepNan : Nat := 0
  stepCandMax : Nat := 0
  chanPlane : Nat := 0
  blockPlane : Nat := 0
  hist : List Hist := []
  blocks : List Blk := []
  chans : List Nat := []
  chanList : List Nat := []
  tileRows : Nat := 2048
  tileLanes : Nat := 256
  /-- first array lane of the consuming split, for the lanes of pairs and channel lists (R95, log 21: DESIGN CHOICE) -/
  laneBase : Nat := 0
  /-- some conversion named the tracker this step (R154), and in a step before it since the image was loaded (R159) -/
  used : Bool := false
  everUsed : Bool := false
  /-- a measured code of the step was pinned at 0xFF (R152) -/
  ceilMeas : Bool := false
  /-- some conversion tile of the step spilled more than SPAR_SPILL_LIMIT (R160) -/
  overSpilled : Bool := false
  deriving DecidableEq, Repr

/-- A forward layer of the image, its Spar state and its counts of the step (R161 to R175). -/
structure Layer where
  base : Nat := 2
  offset : Nat := 0
  clean : Nat := 0
  mu : W32 := 0#32
  /-- start rung of the running step (R161) -/
  startRung : Nat := 2
  rungMax : Nat := 0
  fallbacks : Nat := 0
  shadowRun : Nat := 0
  shadowDis : Nat := 0
  trgOvf : Bool := false
  trgSpill : Bool := false
  trgNonfinite : Bool := false
  /-- micro-batches of the step in which some trigger fired (R169) -/
  firedIn : List Nat := []
  /-- dev[L] of the running step's samples (R170) -/
  weight : Nat := 1
  /-- M of the layer's products, for the bands of R171 -/
  rows : Nat := 1
  /-- per logical core that runs the layer: the core and its Reed chains in each micro-batch (R171) -/
  chains : List (Nat × List Nat) := []
  /-- exact update and weight sums of the step with their flags (R200) -/
  su : Nat := 0
  sw : Nat := 0
  /-- W32 sums of the other members of the data-parallel group, in the fixed tree order (R200) -/
  suGroup : Option W32 := none
  swGroup : Option W32 := none
  deriving DecidableEq, Repr

/-- What the image says of one product operation for the fallback ladder and the shadow check (R161, R164, R172): its
layer and micro-batch, the first of its split's Reed chains, the stream index of the conversion of its streamed operand with
its tracker, the fallback staging tensor and the K8 copy of its stationary operand. -/
structure OpInfo where
  core : Nat
  idx : Nat
  split : Nat := 0
  layer : Nat
  mb : Nat
  chain : Nat
  conv : Nat
  staging : Desc
  k8 : Desc
  cluster : Nat
  tracker : Nat
  deriving DecidableEq, Repr

/-- The slice of a whole tensor that an operation of a logical core draws for (R225): the operation, the slice's sizes, its origin in
the tensor and the tensor's sizes, along dimensions 0 to 3. The image gives it where an operation's tensor is a part of one
(log 125: DESIGN CHOICE). -/
structure Slice where
  core : Nat
  idx : Nat
  e0 : Nat
  e1 : Nat := 1
  e2 : Nat := 1
  o0 : Nat := 0
  o1 : Nat := 0
  o2 : Nat := 0
  o3 : Nat := 0
  d0 : Nat
  d1 : Nat := 1
  d2 : Nat := 1
  deriving DecidableEq, Repr

/-- The linear index in the whole tensor of element n of a slice (R225). -/
def Slice.index (x : Slice) (n : Nat) : Nat :=
  let i0 := n % x.e0
  let i1 := n / x.e0 % x.e1
  let i2 := n / (x.e0 * x.e1) % x.e2
  let i3 := n / (x.e0 * x.e1 * x.e2)
  (((x.o3 + i3) * x.d2 + x.o2 + i2) * x.d1 + x.o1 + i1) * x.d0 + x.o0 + i0

/-- A phase entry (R412). -/
structure PhaseEntry where
  start : Nat
  base : Nat
  reserve : Nat
  kind : Nat := 0
  timed : Bool := false
  deriving DecidableEq, Repr

/-- A plan context of the image (R375, R378): its number, peer, the peer's context, the path, and the initial credits
that each side grants. -/
structure PlanCtx where
  num : Nat
  peer : Nat
  peerCtx : Nat
  path : Nat := 0
  credit : Nat
  peerCredit : Nat
  deriving DecidableEq, Repr

/-- A schedule image as the module takes it apart (R282, R412, R559 and the rules that each name a value of it; the
layout of the image is not set out in the manual, log 54: DESIGN CHOICE). -/
structure Image where
  arithRev : Nat
  jobTag : Nat := 0
  jobModules : Nat := 1
  /-- bytes that the load places in Thatch and local SRAM: descriptor tables, argument blocks, records -/
  writes : List (Nat × List Byte) := []
  streams : List (Nat × Nat) := []
  /-- offset and length of each core's descriptor table (R290) -/
  tables : List (Nat × Nat) := []
  windows : List (Nat × Nat) := []
  swapAreas : List Nat := []
  interleave : List Nat := []
  retireReserve : Nat := 0
  mirrors : List (Nat × Nat) := []
  opInfo : List OpInfo := []
  slices : List Slice := []
  phases : List PhaseEntry := []
  stepPeriod : Nat := 0
  trackers : List (List Tracker) := []
  /-- per converter cluster, the offset of its tracker table in the die's Thatch (R148) -/
  trackerTables : List Nat := []
  weightTrackers : List (Nat × Nat) := []
  layers : List Layer := []
  microBatches : Nat := 1
  /-- shadow region of each logical core and the bytes of one sample in it (R172) -/
  shadowAreas : List Nat := []
  shadowSlot : Nat := 0
  hyperBase : Nat := 0
  hyperCount : Nat := 0
  /-- bases of the version slots and the index of the CURRENT one (R202, R209) -/
  slots : List Nat := []
  current : Nat := 0
  version : Nat := 0
  clip : Nat := 0
  sloeBases : List Nat := []
  contexts : List PlanCtx := []
  endpointPool : Nat := 0
  groups : List (List Nat) := []
  planBase : Nat := 0
  planCount : Nat := 0
  ratioPlan : Option Nat := none
  fetchBase : Nat := 0
  fetchSteps : Nat := 0
  shards : Nat := 0
  /-- the key-value memory of a serving image (R262, R264, R396): page count, addresses and offsets -/
  pages : Nat := 0
  pageWords : Nat := 0
  freeList : Nat := 0
  massPlane : Nat := 0
  layerRecords : Nat := 0
  layerCount : Nat := 0
  sampleRecords : Nat := 0
  seqTable : Option Nat := none
  pageLists : Nat := 0
  plSlot : Nat := 0
  requestRegion : Nat := 0
  requestSlot : Nat := 0
  kvSecured : List (Nat × Nat) := []
  /-- securing and recovery (R433 to R441) -/
  coord : Nat := 0
  standby : Nat := 0
  /-- the buddy of each rank, empty in a job of one module -/
  buddies : List Nat := []
  ownRank : Nat := 0
  logBase : Nat := 0
  logBytes : Nat := 0
  localBase : Nat := 0
  lossAt : Nat := 0
  deriving DecidableEq, Repr

/-! ### Engines (R428) -/

/-- The engines of a die that check their output (R428). -/
inductive EngineKind where
  | eaves (c : Fin 4)
  | damson | valley | bramble | batten
  | gutter (g : Fin 4)
  deriving DecidableEq, Repr

/-- The arrays whose current is smoothed (R109, R142, R261). -/
inductive ArrayUnit where
  | reed (l : Core) | slate (l : Core) | quince (q : Pipe)
  deriving DecidableEq, Repr

/-! ### Projected ends (R108, R139, R168, R320) -/

/-- What a command concerns, a core or an array, and the end that its core projects after the delay that the command shows; none
when there is no delay (R320). -/
structure Foreseen (α : Type) where
  on : α
  ending : Option Nat := none
  deriving DecidableEq, Repr

/-! ### Start-up (R510, R511) -/

/-- What the start-up tests and the training of a start find (R510, R511): physical cores, pipelines, copy engines and
Sloe lanes (die, lane) that fail, a die engine that fails (die, unit number), and channels that fail training or the
read-back, or stay bad after retraining. -/
structure StartRun where
  cores : List (Fin 136) := []
  pipes : List (Fin 32) := []
  gutters : List (Fin 16) := []
  lanes : List (Fin 4 × Fin 1024) := []
  engine : Option (Fin 4 × Nat) := none
  channels : List (Fin 128) := []
  deriving DecidableEq, Repr

/-! ### Telemetry (R517) -/

/-- What Purlin measured in the last millisecond (R517): volts, amperes and watts as W32 means, the joules that ENERGY gains, and
the hottest sensor of each zone in °C. -/
structure Telemetry where
  voltage : W32
  current : W32
  power : W32
  joules : Nat := 0
  temps : List W32
  deriving DecidableEq, Repr

/-! ### Messages of the port -/

/-- A stretch request (R382). -/
structure StretchMsg where
  origin : Nat
  forwarded : Bool := false
  emerg : Bool := false
  quanta : Nat
  reqId : Nat
  step : Nat
  phase : Nat
  deriving DecidableEq, Repr

/-- Who a Tabbakan peer is (R366, SRC): a rank of the job or an endpoint of the table. -/
inductive Peer where
  | rank (n : Nat)
  | endpoint (e : Nat)
  deriving DecidableEq, Repr

/-- The packet types of R366. -/
inductive TbkType where
  | data | ack | nak | open | openAck | close | heartbeat | stretch
  deriving DecidableEq, Repr

/-- The common header of a received Tabbakan datagram with what R368 needs of its IP and UDP headers (log 40: DESIGN CHOICE): whether
LEN and the ICRC hold, the IP source address and the UDP source port. -/
structure TbkHdr where
  ver : Nat := 1
  path : Nat := 0
  src : Peer
  dstCtx : Nat := 0
  psn : Nat := 0
  job : Nat := 0
  epoch : Nat := 0
  lenOk : Bool := true
  icrcOk : Bool := true
  ipSrc : Nat := 0
  udpSrc : Nat := 0
  deriving DecidableEq, Repr

/-- A frame as it arrives at the port (R357 to R361): what its checks find, and where its datagram goes. -/
structure Frame where
  /-- FEC codewords corrected in it -/
  corrected : Nat := 0
  fecBad : Bool := false
  fcsBad : Bool := false
  len : Nat := 64
  /-- PAUSE or priority-based flow control (R358) -/
  pauseFrame : Bool := false
  /-- uses a feature marked "dropped" in R360, or its UDP checksum is bad (R361) -/
  unsupported : Bool := false
  /-- the UDP destination port, when it is a datagram -/
  port : Option Nat := none
  /-- the buffer for its kind is full (R364) -/
  full : Bool := false
  deriving DecidableEq, Repr

/-- The acknowledgement fields of ACK and NAK (R372). -/
structure AckExt where
  next : Nat
  limit : Nat
  code : Nat := 0
  repoch : Nat := 0
  deriving DecidableEq, Repr

/-- The extension of a DATA packet and its payload (R369). -/
structure DataExt where
  msg : Nat
  offset : Nat
  mlen : Nat
  kind : Nat
  plan : Nat := 0
  payload : List Byte
  deriving DecidableEq, Repr

/-- The extension of OPEN, OPEN_ACK and CLOSE (R378). -/
structure OpenExt where
  ctx : Nat
  kind : Nat
  code : Nat := 0
  psn : Nat := 0
  limit : Nat := 0
  nonce : Nat := 0
  deriving DecidableEq, Repr

/-- The extension of a HEARTBEAT (R380). -/
structure HeartbeatExt where
  time : Nat := 0
  step : Nat := 0
  state : Nat := 3
  mode : Nat := 1
  seq : Nat := 0
  deriving DecidableEq, Repr

/-- A PTP message from an address (R399): an Announce with the data set that the best master clock algorithm compares, as a number
of which the lower is the better (log 139: PRESUMED), or a Sync exchange with the offset that it measures. -/
inductive PtpKind where
  | announce (data : Nat)
  | sync (offset : Int)
  deriving DecidableEq, Repr

/-! ### Recovery control (R452) -/

/-- A recovery control message (R452). `entries` is the payload of a REDRAW. -/
structure RecMsg where
  op : Nat
  code : Nat := 0
  fault : Nat := 0
  rank : Nat := 0
  count : Nat := 1
  step : Nat := 0
  t0 : Nat := 0
  epoch : Nat := 0
  serial : Nat := 0
  time : Nat := 0
  entry : List Byte := []
  entries : List Byte := []
  deriving DecidableEq, Repr

/-! ### Dunrel requests (R463) -/

/-- A Dunrel message of a session, its header fields and payload (R463). -/
structure DReq where
  sess : Sess
  type : Nat := 2
  ver : Nat := 1
  reqId : Nat := 0
  index : Nat := 0
  sub : Nat := 0
  txn : Nat := 0
  element : Nat := 0
  count : Nat := 1
  offset : Nat := 0
  total : Nat := 0
  more : Bool := false
  /-- LEN equals the bytes that follow the header (R463) -/
  lenOk : Bool := true
  payload : List Byte := []
  deriving DecidableEq, Repr

/-- Whose side of a join a command stands for (R444): the spare, where the transaction's TXN_COMMIT arrives, or the
coordinator, where the answer of the spare asked for a rank arrives. -/
inductive JoinSide where
  | spare (m : DReq)
  | answered (rank : Nat)
  deriving DecidableEq, Repr

/-- A DTLS handshake as it ends (R459, R460): what it offered, and what its certificate shows. -/
structure Handshake where
  peer : Nat
  version13 : Bool := true
  suiteOk : Bool := true
  certOk : Bool := true
  /-- the certificate chains to the Bruolaka service authority (R460) -/
  vendor : Bool := false
  /-- SHA-256 of the certificate's SubjectPublicKeyInfo; none when no certificate was offered -/
  key : Option (List Byte)
  /-- handshakes in progress with this one (R462) -/
  inProgress : Nat := 1
  deriving DecidableEq, Repr

/-- An error of one codeword of a granule on its way: codeword 0 to 3, stored symbol 0 to 71, error value. -/
abbrev SymErr := Fin 4 × Fin 72 × Byte

end Sys2Proof.Machine
end

