-- ==== Sys2Proof/Syntax.lean ====
section
/-!
DEFINITION. The commands: one constructor per row of spec/opcode_table.json, in the table's order, each with the rule
that gives it and the row's summary. Operands are what the manual leaves to the environment (when a wire carries bad
symbols, which die a fault strikes, how long a sensor reads) and the fields of messages (log 40 to 42, 54).
-/
namespace Sys2Proof
open Sys2Proof.Machine

inductive Instr where
  /-- R460: A client completes or fails a DTLS 1.3 handshake, and the module fixes the session's access level or
  refuses it with a violation entry. -/
  | dtlsHandshake (h : Handshake)
  /-- R465: A Dunrel READ request returns the named elements or byte range of one object after the ordered checks. -/
  | read (m : DReq)
  /-- R465: A Dunrel WRITE to an object with no row of its own is checked and staged in a transaction, or forms a one-
  write transaction. -/
  | write (m : DReq)
  /-- R469: A requester opens a transaction and receives the lowest free handle, or E_RANGE beyond 4 open
  transactions. -/
  | txnOpen (m : DReq)
  /-- R470: Ligger checks every staged object write and commits now, aborts with the first failing code, or makes the
  transaction DUE or DEFERRED. -/
  | txnCommit (m : DReq)
  /-- R469: An OPEN transaction is discarded; a DUE or DEFERRED one answers E_STATE and is unchanged. -/
  | txnAbort (m : DReq)
  /-- R467: The session's event mask is replaced by the 4-byte mask in the request. -/
  | subscribe (m : DReq)
  /-- R467: The requester acknowledges an event number, which stops its resending. -/
  | eventAck (m : DReq)
  /-- R477: A host decision for a waiting pause is registered, checked and accepted, or refused with the timeout
  action applied. -/
  | decide (m : DReq)
  /-- R535: The module forms and signs an attestation report over the nonce and sends it in one or more responses. -/
  | attest (m : DReq)
  /-- R462: A Dunrel CLOSE ends the session, aborting its transactions and discarding its subscriptions and events. -/
  | close (m : DReq)
  /-- R462: A DTLS close_notify alert from the client ends the session. -/
  | closeNotify (slot : Sess)
  /-- R462: No record arrives from a client for SESSION_IDLE, and the session ends. -/
  | sessionIdleExpiry (slot : Sess)
  /-- R469: An OPEN transaction sees no message for TXN_IDLE and is aborted. -/
  | txnIdleExpiry (h : Nat)
  /-- R472: A DEFERRED transaction reaches its deferral limit and ends with TXN_DONE carrying E_CONFLICT, unless a
  release is registered in the same cycle. -/
  | txnDeferLimitExpiry (h : Nat) (late : Bool)
  /-- R467: The 20 ms resend timer of an unacknowledged event expires, and the event is sent again or discarded after
  8 sends. -/
  | eventResend (slot : Sess) (num : Nat)
  /-- R461: A write to ACCESS_LIST is accepted under the first-OWNER rule or OWNER rights, and removing or lowering an
  entry closes that key's sessions. -/
  | accessListWrite (m : DReq)
  /-- R11: A READY transaction writing TRAIN or SERVE with JOB_T0 and JOB_S0 commits with an image loaded, and the
  module enters RUNNING with its streams armed. -/
  | jobStart (m : DReq) (plan : List (Nat × Nat))
  /-- R35: A RUNNING write of TRAIN or SERVE naming a schedule image is made DUE for the next step boundary. -/
  | jobModeSwitch (m : DReq)
  /-- R12: A RUNNING write of IDLE with JOB_LAST_STEP is checked and made DUE for the boundary of step JOB_LAST_STEP.
  -/
  | jobEnd (m : DReq)
  /-- R444: A spare's join transaction commits, taking OWN_RANK, RANK_MAP, JOB_EPOCH from JOIN_EPOCH and the job mode,
  and the spare enters RECOVERING. -/
  | joinTransaction (x : JoinSide)
  /-- R444: A spare does not commit its join within 5 ms, and the coordinator tries the next listed spare. -/
  | joinTimeout (rank : Nat)
  /-- R385: A transaction writing RANK_MAP commits, incrementing RANK_MAP_GEN and JOB_EPOCH and restarting every plan
  context. -/
  | rankMapRedraw (m : DReq)
  /-- R387: A write to an endpoint entry closes that entry's open contexts with E_STATE and then takes effect. -/
  | endpointWrite (m : DReq)
  /-- R268: A KV_EDIT ADMIT makes the lowest FREE sequence entry ACTIVE with LEN 0. -/
  | admitSeq (m : DReq)
  /-- R268: A KV_EDIT FORK admits a sequence sharing the parent's first n full pages. -/
  | fork (m : DReq)
  /-- R268: A KV_EDIT EVICT marks a page-list entry EVICTED and releases its page reference. -/
  | evict (m : DReq)
  /-- R268: A KV_EDIT RETIRE releases every page reference of a sequence and frees its entry. -/
  | retire (m : DReq)
  /-- R490: IMAGE_CMD LOAD commits in READY, IMAGE_STATE becomes loading and the module starts checking the image. -/
  | imageLoad (m : DReq)
  /-- R490: The load checks finish, and the image becomes loaded or refused with IMAGE_ERR and TXN_DONE. -/
  | imageLoadDone (img : Image)
  /-- R490: IMAGE_CMD SWAP commits in RUNNING, IMAGE_STATE becomes swap pending and the new image is checked while the
  old one runs. -/
  | imageSwap (m : DReq)
  /-- R490: The swap checks finish: on failure TXN_DONE carries E_SCHED, and on success the swap waits for an allowed
  boundary. -/
  | imageSwapCheckDone (img : Image)
  /-- R508: STATE_REQ 0x01 in READY starts the transition to ASLEEP with self-refresh entry and rails off. -/
  | stateReqAsleep (m : DReq)
  /-- R508: STATE_REQ 0x02 from ASLEEP or MAINT starts the transition to READY. -/
  | stateReqReady (m : DReq)
  /-- R508: STATE_REQ 0x05 in READY stops the data path and enters MAINT. -/
  | stateReqMaint (m : DReq)
  /-- R508: A requested state transition completes, DEVICE_STATE changes and STATE is raised. -/
  | stateTransitionDone (bad : List (Fin 128))
  /-- R488: A committed write of 0x01 sets every retained object except the access and health objects to its factory
  default. -/
  | restoreDefaults (m : DReq)
  /-- R493: A committed RESET_REQ in READY, MAINT or FAULTED sends its response and starts a warm reset. -/
  | resetReq (m : DReq) (y : StartRun)
  /-- R491: A write of MEM_ACCESS elements goes to device memory through the hub queue at the commit. -/
  | memAccessWrite (m : DReq)
  /-- R537: A committed FW_STAGE part marks the inactive bank partial and is programmed at its offset. -/
  | fwStageWrite (m : DReq)
  /-- R537: Programming of a committed firmware part into the inactive bank completes. -/
  | fwProgramDone
  /-- R537: FW_CMD 0x01 starts the boot check of the inactive bank. -/
  | fwCheck (m : DReq)
  /-- R537: The bank check ends and FW_STATE becomes checked or refused with the bank record updated. -/
  | fwCheckDone
  /-- R537: FW_CMD 0x02 sets SELECT on the checked bank for the next start. -/
  | fwSelect (m : DReq)
  /-- R286: A NOP operation issues and occupies one issue ac. -/
  | nop (l : Core) (idx : Nat)
  /-- R91: A forward matrix product issues on Reed and runs its tiles in the shape and order its product block gives.
  -/
  | fwd (l : Core) (idx : Nat)
  /-- R123: A backward product on B512 or BT issues on Slate. -/
  | bwd (l : Core) (idx : Nat)
  /-- R124: A BP256 backward product pair issues on Slate and alternates input- and weight-gradient tiles over the
  halves. -/
  | bpair (l : Core) (idx : Nat)
  /-- R135: A tied-weight sum issues and adds the use gradients in ascending use order on Slate's accumulator port. -/
  | tiedsum (l : Foreseen Core) (idx : Nat)
  /-- R146: A conversion issues on the core's Eaves cluster and converts its output in conversion tiles. -/
  | convert (l : Foreseen Core) (idx : Nat)
  /-- R272: An append converts one token's key or value output into the sequence's tail-page frame in measured mode.
  -/
  | append (l : Core) (idx : Nat)
  /-- R250: An attention operation issues on a Quince pipeline and runs its fed key blocks under the running softmax.
  -/
  | attn (l : Core) (idx : Nat)
  /-- R279: A sampling operation reads a row of logits and writes the sampled token index. -/
  | sample (l : Core) (idx : Nat)
  /-- R196: An optimizer step issues on Damson and updates its run of parameters, moments and master pairs. -/
  | optstep (l : Core) (idx : Nat)
  /-- R310: A Gutter copy, plain or transposing, moves bits unchanged. -/
  | copy (l : Core) (idx : Nat)
  /-- R126: A transposing copy completes a row, publishes the count and releases held BT feed. -/
  | copyRowPublish (l : Foreseen Core) (idx : Nat)
  /-- R311: A prefetch takes a range comparator, clears STALE and reads its source range into its buffer. -/
  | prefetch (l : Core) (idx : Nat)
  /-- R312: A consumer whose tokens are set finds STALE set and either refetches the range or faults under
  PREFETCH_STRICT. -/
  | prefetchRefetch (l : Core) (idx : Nat) (e : Option Nat)
  /-- R214: An activation save compresses a tensor into segments in module memory. -/
  | save (l : Core) (idx : Nat)
  /-- R216: An activation load expands stored segments into local SRAM. -/
  | load (l : Core) (idx : Nat)
  /-- R228: A random fill writes a dropout mask from Sloe words against KEEP. -/
  | fillDropout (l : Core) (idx : Nat)
  /-- R231: A random fill writes initialisation values A + B × z. -/
  | fillInit (l : Core) (idx : Nat)
  /-- R231: A random fill writes uniform or normal noise A + B × z. -/
  | fillNoise (l : Core) (idx : Nat)
  /-- R233: A Sloe lane completes an evaluation and compares its two copies, repeating or removing the lane on a
  mismatch. -/
  | sloeEvaluation (d : Die) (lane : Fin 1024) (ok : Bool)
  /-- R389: A collective operation issues on Flashing and runs its plan entry. -/
  | coll (l : Core) (idx : Nat)
  /-- R185: Valley adds the exact squares of a source into a norm accumulator. -/
  | normSquares (l : Core) (idx : Nat)
  /-- R187: Valley adds one norm accumulator into another. -/
  | normAdd (l : Core) (idx : Nat)
  /-- R200: Valley accumulates the per-layer update and weight sums for the update ratio. -/
  | normLayerSums (l : Core) (idx : Nat)
  /-- R286: A WAIT operation issues when its tokens are set. -/
  | wait (l : Core) (idx : Nat)
  /-- R298: A SIGNAL issues to set one token on a target logical core. -/
  | signal (l : Core) (idx : Nat)
  /-- R298: The signalled token is registered in the target core's scoreboard, restarting its clock if stopped. -/
  | signalArrival (l : Foreseen Core)
  /-- R299: A FENCE issues after every earlier operation completes and optionally invalidates the cache. -/
  | fence (l : Core) (idx : Nat)
  /-- R414: A phase-open mark issues no earlier than the phase's current start, counting a late arrival and an
  emergency request when late. -/
  | phaseOpen (l : Core) (idx : Nat)
  /-- R316: A phase-close mark issues after every earlier operation completes. -/
  | phaseClose (l : Core) (idx : Nat) (e : Option Nat)
  /-- R205: A micro-batch open increments REFS of the slot selected by its lag. -/
  | microbatchOpen (l : Core) (idx : Nat)
  /-- R205: A micro-batch close decrements REFS of its slot, freeing a HELD slot at 0, or faults when REFS is 0. -/
  | microbatchClose (l : Core) (idx : Nat)
  /-- R28: The closing phase mark of the step retires on a logical core. -/
  | stepClose (l : Core) (idx : Nat)
  /-- R317: A context save captures its regions as they stood at the step boundary for Batten. -/
  | ctxsave (l : Core) (idx : Nat) (e : Option Nat)
  /-- R296: An operation's results are acknowledged and it sets its SET tokens. -/
  | operationComplete (l : Foreseen Core) (idx : Nat)
  /-- R300: The oldest operation waits for TOKEN_TIMEOUT with no token change and faults with E_TIMEOUT. -/
  | tokenTimeout (l : Core) (late : Option (Fin 256))
  /-- R306: A memory request is unanswered for 50 µs, and its operation faults with E_TIMEOUT. -/
  | memRequestTimeout (l : Core) (slot : Nat) (late : Bool)
  /-- R334: A granule read returns, and each codeword decodes as clean, corrected, address error or uncorrectable. -/
  | memReadResponse (l : Core) (slot : Nat) (errs mErrs : List SymErr)
  /-- R343: The controller acknowledges a write, both copies for a mirrored granule, and the slot is freed. -/
  | memWriteAck (l : Core) (slot : Nat)
  /-- R82: Reed's shadow bank holds a complete load and the last verdict has returned, so the banks swap, the tile
  status word is written and the next load starts. -/
  | reedBankSwap (l : Foreseen Core) (held : Nat)
  /-- R104: DEC finds a block predicted zero non-zero; the tile is abandoned and fed again with skipping off. -/
  | skipMiss (l : Core) (e : Option Nat)
  /-- R105: The residue verdict of a Reed tile row returns, and a failure abandons and repeats the tile. -/
  | reedVerdict (l : Core) (row : Nat) (ok : Bool) (e : Option Nat)
  /-- R429: The logical core's state and local SRAM reach the target core, held accesses are released and the tile
  restarts. -/
  | coreMoveDone (l : Core)
  /-- R117: Slate swaps banks on both halves and writes the tile status words. -/
  | slateBankSwap (l : Foreseen Core)
  /-- R141: A Slate row verdict returns; a failure repeats the tile, or both BP256 tiles under R125. -/
  | slateVerdict (l : Core) (row : Nat) (ok : Bool) (e : Option Nat)
  /-- R136: Between Slate operations the scheduler issues fallback repeats, its own operation or shadow-check tiles by
  priority. -/
  | slateBorrowIssue (l : Foreseen Core) (loaded : Bool)
  /-- R247: A pipeline's key or value bank swaps and the next block's load starts. -/
  | quinceBankSwap (q : Pipe) (waits : Nat)
  /-- R258: A row-pair verdict returns, and a failure reloads and repeats the block. -/
  | quinceVerdict (q : Pipe) (ok : Bool) (e : Option Nat)
  /-- R109: An 80-ac activity window ends, and straw rows or lanes keep the change within Δ and the cap. -/
  | activityWindow (u : Foreseen ArrayUnit) (real straw : Nat)
  /-- R111: An array has had no real row for 3,200 ac, ramps down and its fast clock stops. -/
  | arrayRampDown (u : ArrayUnit)
  /-- R319: The wake timer restarts a core's clock 3.2 µs before a phase open and the arrays ramp up. -/
  | wakeTimer (l : Foreseen Core)
  /-- R410: A time-sharing host switches logical cores, swapping local SRAM through the swap areas. -/
  | tsSwitch (l : Foreseen Core)
  /-- R163: A conversion-tile pass ends; Spar tests triggers and either repeats at a higher rung or sets the tile's
  token. -/
  | sparPassTest (l : Core) (idx k : Nat) (e : Option Nat)
  /-- R173: A shadow sample's recomputation completes and Spar compares it with the narrow result. -/
  | shadowCompare (slot : Nat)
  /-- R428: A die engine finishes a unit of work and checks it, repeating or removing the engine on failure. -/
  | engineCheck (d : Die) (k : EngineKind) (ok : Bool)
  /-- R28: All boundary conditions of a step hold, and the log record and the boundary commits and updates take
  effect. -/
  | stepBoundary (plan : List (Nat × Nat))
  /-- R477: A pause's timeout expires, and the function's timeout action applies. -/
  | pauseTimeout (id : Nat)
  /-- R438: Batten finishes writing the local image of a generation. -/
  | secureCaptureDone (e : Option Nat)
  /-- R438: The buddy acknowledges the whole streamed image and the generation commits. -/
  | secureCommit
  /-- R435: The buddy acknowledges an input-log entry, which then counts as written. -/
  | logEntryAck
  /-- R439: A buddy-stream message of image or log data is received and stored over the older held generation. -/
  | buddyStreamRx
  /-- R357: A frame arrives and is checked for FEC, FCS, length, IP and UDP features and destination port. -/
  | frameRx (f : Frame)
  /-- R370: A Tabbakan DATA packet passes acceptance and its payload is written at its offset, completing its message
  when whole. -/
  | dataRx (h : TbkHdr) (e : DataExt)
  /-- R374: An ACK advances NEXT_PSN and the sender's credit limit. -/
  | ackRx (h : TbkHdr) (e : AckExt)
  /-- R376: A NAK makes the sender go back to NEXT_PSN or close the context. -/
  | nakRx (h : TbkHdr) (e : AckExt)
  /-- R379: An endpoint's OPEN is accepted with a new context or refused with an error code. -/
  | openCtx (h : TbkHdr) (e : OpenExt)
  /-- R379: An OPEN_ACK completes the opening of a fetch context. -/
  | openAck (h : TbkHdr) (e : OpenExt)
  /-- R379: A CLOSE fails every incomplete message of the context and frees its credit. -/
  | tbkClose (h : TbkHdr) (e : OpenExt)
  /-- R381: An accepted heartbeat refreshes a watched rank and path, or stops watching on MODE IDLE. -/
  | heartbeat (h : TbkHdr) (e : HeartbeatExt)
  /-- R419: A received stretch request raises the applied quanta, shifts unopened phases and is forwarded. -/
  | stretch (h : TbkHdr) (m : StretchMsg)
  /-- R373: 0.5 µs after the first unacknowledged DATA packet the receiver sends an ACK. -/
  | ackTimer (n : Nat)
  /-- R376: A context's NEXT_PSN does not advance within TBK_RTO, and the sender retransmits or moves path. -/
  | tbkRtoExpiry (n : Nat) (late : Bool)
  /-- R380: Every 200 µs the module sends a heartbeat on both paths to each watcher. -/
  | heartbeatTimer
  /-- R381: No heartbeat from a rank on either path for 600 µs, so it is declared lost; on one path only, the other
  path is marked down. -/
  | heartbeatLoss (rank : Nat) (late : Bool)
  /-- R421: While a boundary is held, phase 0 comes within STRETCH_LEAD and an emergency request of 255 quanta is
  sent. -/
  | heldBoundaryStretch
  /-- R357: The port link is lost and a link restart begins at once. -/
  | linkLoss
  /-- R357: The link completes start-up and comes up. -/
  | linkUp
  /-- R360: The 30 s timer re-resolves each gateway, and a failure for 3 s marks its path down. -/
  | gatewayResolve (failed : List (Fin 2))
  /-- R360: A neighbour solicitation or ARP request for an own address is answered. -/
  | neighbourResolution (p : Fin 2) (requester target : Nat)
  /-- R362: An echo request is answered within the rate limit. -/
  | icmpEcho (src : Nat) (payload : List Byte)
  /-- R400: A PTP message from a configured master updates the offset and PTP_STATE. -/
  | ptpMessage (src domain : Nat) (k : PtpKind)
  /-- R400: The announce receipt timeout expires and PTP_STATE becomes HOLDOVER. -/
  | ptpAnnounceTimeout
  /-- R400: After 10 s in HOLDOVER PTP_STATE becomes UNLOCKED and PTP_UNLOCKED is raised. -/
  | ptpHoldoverExpiry
  /-- R394: A fetch response arrives, and a complete shard with a matching CRC is written to the input log. -/
  | fetchResponse
  /-- R394: A fetch request is not complete within FETCH_TIMEOUT and is sent again, possibly to ALT. -/
  | fetchTimeout (entry : Nat) (late : Bool)
  /-- R397: A complete ADMIT serving request is admitted to the next step or waits. -/
  | servingRequestAdmit
  /-- R396: A complete FORK serving request is admitted as a fork, or refused. -/
  | servingRequestFork
  /-- R396: A complete RETIRE serving request retires its sequence. -/
  | servingRequestRetire
  /-- R442: The coordinator receives FAULT of an unmasked fault and chooses the rollback target. -/
  | faultMessage
  /-- R443: A module receives ROLLBACK, enters RECOVERING, increments JOB_EPOCH and restores the target generation. -/
  | rollback
  /-- R443: REDRAW arrives, and the lost rank's entries are committed in one transaction. -/
  | redraw
  /-- R443: RESTORED from ranks reaches the coordinator, which sends START when all have restored. -/
  | restored
  /-- R443: START sets JOB_S0 and JOB_T0 and the replay begins. -/
  | startMsg
  /-- R443: Replay results reach the coordinator, which sends RESUME when all are OK. -/
  | replayResult
  /-- R443: RESUME returns every module to RUNNING and records the recovery. -/
  | resume
  /-- R448: HALT stops the schedule and the module enters READY with JOB_MODE IDLE. -/
  | halt
  /-- R442: A SECURED message reports a generation held by a rank and its buddy. -/
  | secured
  /-- R441: The standby receives TAKEOVER and runs recovery. -/
  | takeover
  /-- R443: A buddy receives IMAGE_REQ and streams the generation and input log to the spare. -/
  | imageReq
  /-- R339: The scrubber reads a codeword, writes back a correction and may mark a DQ or compare mirror copies. -/
  | scrubRead (c : Fin 128) (errs mErrs : List SymErr) (wrote : Bool)
  /-- R341: A channel's scrub pass ends, and corrections above CE_RETIRE_LIMIT retire the channel or pause. -/
  | scrubPassEnd (c : Fin 128)
  /-- R347: A channel is declared failed and hard retirement relocates its granules. -/
  | channelFailed (c : Fin 128) (phy : Bool)
  /-- R350: The copier finishes moving a retiring channel and the retirement is complete. -/
  | retireCopyDone (c : Fin 128)
  /-- R26: A die-to-die flit fails its CRC and is replayed. -/
  | flitRx (k : Fin 8) (crcOk : Bool)
  /-- R26: A die-to-die lane fails and is replaced by a spare lane. -/
  | d2dLaneFail (k : Fin 8)
  /-- R430: A die-to-die link is lost and traffic is rerouted, or the module goes FAULTED. -/
  | d2dLinkLoss (k : Fin 8)
  /-- R431: A Dormer core misses its watchdog and the complex restarts. -/
  | mgmtWdtExpiry (late : Bool)
  /-- R431: Dormer's restart completes and Dunrel service resumes. -/
  | dormerRestartDone
  /-- R509: PWR_EN is registered asserted and the module sequences rails, runs measured start, tests and trains to
  READY. -/
  | coldStart (x : StartRun)
  /-- R514: PWR_EN is registered deasserted; the module stops, writes the store and turns rails off. -/
  | stop
  /-- R512: RST_N is registered low and a warm reset begins. -/
  | rstNAssert
  /-- R547: RST_N is registered high and the reset proceeds from the boot ROM. -/
  | rstNRelease (x : StartRun)
  /-- R532: Within 100 ms of READY, Dormer blows fuses up to the running bank's SVN. -/
  | antiRollback
  /-- R499: A store write writes every retained value to the older copy and updates RETAINED_SEQ on read-back. -/
  | storeWrite
  /-- R499: The 60 s timer starts a store write. -/
  | storeWriteTimer
  /-- R519: Purlin's 1 ms update refreshes telemetry and moves the activity cap. -/
  | telemetryUpdate (x : Telemetry) (ends : List (Core × Nat))
  /-- R522: A zone stays at or above THERMAL_TRIP for 3 samples and the module shuts down. -/
  | thermalTrip (z : Fin 6) (t : W32)
  /-- R522: The input is out of range for the stated time, and the module shuts down. -/
  | inputVoltageFault (vstby : Bool)
  /-- R522: The input current stays at the 70 A limit for 100 µs, and the module shuts down. -/
  | inputOvercurrent
  /-- R522: A rail is out of tolerance for 50 µs, and compute rails go off with the module FAULTED. -/
  | railFault
  /-- R506: A reference clock is absent for 10 µs, and the module reports fault 0x13 and enters FAULTED. -/
  | referenceLoss (fast : Bool)
  /-- R534: The noise source fails a health test and the security block supplies no bits until restart. -/
  | noiseHealthFail
  /-- R522: The input has stayed within its operating range for 100 ms with PWR_EN asserted, and the module begins a
  cold start. -/
  | inputInRange (x : StartRun)
  /-- R549: Both reference clocks become present, and a cold start or warm reset waiting at 20 ms proceeds, with the
  3.0 s bound counting from then. -/
  | referencePresent (x : StartRun)
  /-- R443: A module's restore of the target generation from its local image completes, DIGEST is checked, and
  RESTORED is sent. -/
  | restoreComplete
  /-- R349: The rebuild of a lost mirror copy into its new home after a hard retirement completes, and reads stop
  being served from the surviving copy. -/
  | rebuildComplete (c : Fin 128)
  /-- R464: A Dunrel request of a TYPE not in the table receives a response with E_RANGE. -/
  | otherTypeRequest (m : DReq)
  deriving DecidableEq, Repr

end Sys2Proof
end

