-- ==== Sys2Proof/Decode.lean ====
section
/-!
DEFINITION. The commands that a word of the opcode table spells. The table gives its rows no bits (log 5: DESIGN CHOICE): the commands
are messages, events and stream operations whose words, where they have them, State holds and Machine/Operands.lean
takes apart.
-/
namespace Sys2Proof

/-- No row of the table gives bits, so no word spells a command (log 5: DESIGN CHOICE). -/
def decodeTableWord (_nbits _w : Nat) : Option Instr := none

end Sys2Proof
end

