-- ==== Sys2Proof/Config.lean ====
section
/-!
DEFINITION. What an implementation fixes and the manual leaves open: opaque constants with no body, so that no proof can
know their values (notes/assumptions names each one).
-/
namespace Sys2Proof.Config

/-- R252: the exp unit answers one of the two W32 values within 1 ulp; which of them, per operand, is open (log 10: DESIGN CHOICE). -/
opaque expPick : W32 → Bool

/-- R252: the same for the ln unit (log 10: DESIGN CHOICE). -/
opaque lnPick : W32 → Bool

/-- R128, R129: the DERIV exp unit answers a W32 value within 2 ulp of 1 − e^(−y); which, per operand, is open
(log 10: DESIGN CHOICE). -/
opaque expm1Pick : W32 → Fin 4

/-- R229: the transform unit answers a W32 value within 2 ulp of the formula; which, per pair of words and output, is
open (log 10: DESIGN CHOICE). -/
opaque normalPick : Word → Word → Bool → Fin 4

/-- R533 to R536: the ECDSA signature of the identity key over a digest with the DRBG's nonce, 64 bytes; the key is
held by no object (log 11: DESIGN CHOICE). The second argument is the count of signatures made. -/
opaque signature : List Byte → Nat → List Byte

/-- R527: whether an ECDSA P-256 signature verifies: key, message digest, signature (log 11: DESIGN CHOICE). -/
opaque ecdsaVerify : List Byte → List Byte → List Byte → Bool

/-- A directory entry of a vendor-test object (R485, R497): index, subindex, type code, elements, bytes of one, the levels that read
and write it, and FLAGS. -/
structure VendorEntry where
  idx : Nat
  sub : Nat
  type : Nat
  elems : Nat
  size : Nat
  rd : Nat
  wr : Nat
  flags : Nat

/-- R497: the vendor-test objects of this firmware release, in the order of the directory (log 12: DESIGN CHOICE). -/
opaque vendorObjects : List VendorEntry

/-- R2 to R5, R112, R143, R487, R494, R523: the values of fuses and firmware constants that the dictionary reports and
the manual does not give, by dictionary key (log 13: DESIGN CHOICE). -/
opaque fuseValue : Nat → Nat

/-- The free 32-bit value that a meaning takes for a result that the manual leaves open, by the fresh counter of the
state (log 2: DESIGN CHOICE, log 14: DESIGN CHOICE). -/
opaque freeWord : Nat → W32

end Sys2Proof.Config
end

