-- ==== Sys2Proof/Machine/Objects.lean ====
section
/-!
DEFINITION. The object dictionary (R481 to R497): one row per scalar subindex or array object, taken from the
labelled tables that R486 names, with the type, the rights, the retained flag, the default and the range each gives.
-/
namespace Sys2Proof.Machine

/-- The types of R481. -/
inductive ObjTy where
  | bool | u8 | u16 | u32 | u64 | i32 | f32 | time | addr6
  | bytes (n : Nat)
  | str
  deriving DecidableEq, Repr

/-- The type code of R481. -/
def ObjTy.code : ObjTy → Nat
  | .bool => 1 | .u8 => 2 | .u16 => 3 | .u32 => 4 | .u64 => 5 | .i32 => 6 | .f32 => 7 | .time => 8 | .addr6 => 9
  | .bytes _ => 10 | .str => 11

/-- Bytes of a value of the type (R481). -/
def ObjTy.size : ObjTy → Nat
  | .bool => 1 | .u8 => 1 | .u16 => 2 | .u32 => 4 | .u64 => 8 | .i32 => 4 | .f32 => 4 | .time => 8 | .addr6 => 16
  | .bytes n => n | .str => 64

/-- Whether a value of the type is sent in network byte order (R463); the others go as they are stored. -/
def ObjTy.swaps : ObjTy → Bool
  | .bytes _ => false
  | .str => false
  | _ => true

/-- The condition an access column puts on a write (R482). -/
inductive WriteCond where
  /-- no condition -/
  | free
  /-- "write 0": any other value returns E_RANGE -/
  | zero
  /-- "in a transaction" -/
  | txn
  /-- "in a transaction, READY only" -/
  | txnReady
  /-- "in a transaction, RUNNING only" -/
  | txnRunning
  /-- "in a transaction, MAINT only" -/
  | txnMaint
  /-- "READY or MAINT only" -/
  | readyMaint
  /-- "MAINT only" -/
  | maint
  /-- "written only in IDLE" (R236) -/
  | idle
  deriving DecidableEq, Repr

/-- What an unwritten element of an object reads as. -/
inductive ObjDefault where
  /-- the default of the table -/
  | val (n : Nat)
  /-- TYPE_SIZE: the sizes of R481 -/
  | typeSize
  /-- PHYS_CORE_STATE: 0 for p mod 34 < 32, else 1 (R22) -/
  | physState
  /-- LOGICAL_CORE_MAP: R20 -/
  | coreMap
  /-- DIRECTORY_COUNT (R485) -/
  | dirCount
  /-- DIRECTORY (R485) -/
  | directory
  /-- a fuse, firmware or flash value, which the manual does not give (log 13: DESIGN CHOICE) -/
  | fixed
  deriving DecidableEq, Repr

/-- The set of values an object takes (order 5 of R558). -/
inductive ObjRange where
  | any
  | between (lo hi : Nat)
  | oneOf (l : List Nat)
  | multiple (n : Nat)
  /-- a finite F32 between two positive patterns -/
  | floatIn (lo hi : Nat)
  /-- judged by a rule of its own, in Ligger -/
  | special
  deriving DecidableEq, Repr

/-- One row of the dictionary. `elems` is 0 for a scalar; levels are 0 none, 1 OBSERVER, 2 OPERATOR, 3 OWNER,
4 VENDOR. -/
structure ObjRow where
  idx : Nat
  sub : Nat
  ty : ObjTy
  elems : Nat
  rd : Nat
  wr : Nat
  cond : WriteCond
  retained : Bool
  nextBoundary : Bool
  dflt : ObjDefault
  range : ObjRange
  deriving DecidableEq, Repr

/-- A row from its columns. -/
abbrev row (idx sub : Nat) (ty : ObjTy) (elems rd wr : Nat) (cond : WriteCond) (retained nextBoundary : Bool)
    (dflt : ObjDefault) (range : ObjRange) : ObjRow :=
  { idx := idx, sub := sub, ty := ty, elems := elems, rd := rd, wr := wr, cond := cond, retained := retained,
    nextBoundary := nextBoundary, dflt := dflt, range := range }

/-- The key of an element: index, subindex and element in one number. -/
abbrev objKey (idx sub elem : Nat) : Nat := idx * 2 ^ 40 + sub * 2 ^ 32 + elem

/-- The index of a key. -/
def keyIdx (k : Nat) : Nat := k / 2 ^ 40

/-- The subindex of a key. -/
def keySub (k : Nat) : Nat := k / 2 ^ 32 % 256

/-- The element of a key. -/
def keyElem (k : Nat) : Nat := k % 2 ^ 32


namespace Obj

/-- TYPE_SIZE, 0x0000 (R485). -/
abbrev typeSize : Nat := 0x0

/-- DIRECTORY_COUNT, 0x0010 (R485). -/
abbrev directoryCount : Nat := 0x100000000000

/-- DIRECTORY, 0x0011 (R485). -/
abbrev directory : Nat := 0x110000000000

/-- VENDOR, 0x1000 (R487). -/
abbrev vendor : Nat := 0x10000000000000

/-- FAMILY, 0x1000.01 (R487). -/
abbrev family : Nat := 0x10000100000000

/-- PRODUCT, 0x1000.02 (R487). -/
abbrev product : Nat := 0x10000200000000

/-- ORDER_CODE, 0x1000.03 (R487). -/
abbrev orderCode : Nat := 0x10000300000000

/-- SERIAL, 0x1001 (R487). -/
abbrev serial : Nat := 0x10010000000000

/-- HW_REV, 0x1002 (R487). -/
abbrev hwRev : Nat := 0x10020000000000

/-- FW_VERSION, 0x1003 (R487). -/
abbrev fwVersion : Nat := 0x10030000000000

/-- UPTIME, 0x1004 (R487). -/
abbrev uptime : Nat := 0x10040000000000

/-- START_COUNT, 0x1005 (R487). -/
abbrev startCount : Nat := 0x10050000000000

/-- RETAINED_SEQ, 0x1006 (R487). -/
abbrev retainedSeq : Nat := 0x10060000000000

/-- RETAINED_STATUS, 0x1007 (R487). -/
abbrev retainedStatus : Nat := 0x10070000000000

/-- RETAINED_SKIPPED, 0x1008 (R487). -/
abbrev retainedSkipped : Nat := 0x10080000000000

/-- DEVICE_STATE, 0x1010 (R7). -/
abbrev deviceState : Nat := 0x10100000000000

/-- JOB_MODE, 0x1011 (R7). -/
abbrev jobMode : Nat := 0x10110000000000

/-- STATE_REQ, 0x1012 (R487). -/
abbrev stateReq : Nat := 0x10120000000000

/-- RESTORE_DEFAULTS, 0x1013 (R487). -/
abbrev restoreDefaults : Nat := 0x10130000000000

/-- JOB_LAST_STEP, 0x1014 (R7). -/
abbrev jobLastStep : Nat := 0x10140000000000

/-- DUNREL_UDP_PORT, 0x1020 (R480). -/
abbrev dunrelUdpPort : Nat := 0x10200000000000

/-- SESSIONS_OPEN, 0x1021 (R480). -/
abbrev sessionsOpen : Nat := 0x10210000000000

/-- SESSION_IDLE, 0x1022 (R480). -/
abbrev sessionIdle : Nat := 0x10220000000000

/-- SESSION_INFO, 0x1023 (R480). -/
abbrev sessionInfo : Nat := 0x10230000000000

/-- EVENT_DROPPED, 0x1024 (R480). -/
abbrev eventDropped : Nat := 0x10240000000000

/-- ACCESS_LIST, 0x1030 (R480). -/
abbrev accessList : Nat := 0x10300000000000

/-- OPEN_OBSERVER, 0x1031 (R480). -/
abbrev openObserver : Nat := 0x10310000000000

/-- TXN_OPEN_COUNT, 0x1040 (R480). -/
abbrev txnOpenCount : Nat := 0x10400000000000

/-- TXN_IDLE, 0x1041 (R480). -/
abbrev txnIdle : Nat := 0x10410000000000

/-- TXN_DEFER_LIMIT, 0x1042 (R480). -/
abbrev txnDeferLimit : Nat := 0x10420000000000

/-- TXN_COMMITTED, 0x1043 (R480). -/
abbrev txnCommitted : Nat := 0x10430000000000

/-- TXN_DEFERRED, 0x1044 (R480). -/
abbrev txnDeferred : Nat := 0x10440000000000

/-- TXN_ABORTED, 0x1045 (R480). -/
abbrev txnAborted : Nat := 0x10450000000000

/-- IMAGE_ADDR, 0x2000 (R489). -/
abbrev imageAddr : Nat := 0x20000000000000

/-- IMAGE_LEN, 0x2000.01 (R489). -/
abbrev imageLen : Nat := 0x20000100000000

/-- IMAGE_HASH, 0x2000.02 (R489). -/
abbrev imageHash : Nat := 0x20000200000000

/-- IMAGE_CMD, 0x2001 (R489). -/
abbrev imageCmd : Nat := 0x20010000000000

/-- IMAGE_STATE, 0x2002 (R489). -/
abbrev imageState : Nat := 0x20020000000000

/-- IMAGE_ERR, 0x2003 (R489). -/
abbrev imageErr : Nat := 0x20030000000000

/-- IMAGE_LOADED_HASH, 0x2004 (R489). -/
abbrev imageLoadedHash : Nat := 0x20040000000000

/-- PHYS_CORE_STATE, 0x2010 (R22). -/
abbrev physCoreState : Nat := 0x20100000000000

/-- LOGICAL_CORE_MAP, 0x2011 (R22). -/
abbrev logicalCoreMap : Nat := 0x20110000000000

/-- ACTIVE_PHYS_COUNT, 0x2012 (R22). -/
abbrev activePhysCount : Nat := 0x20120000000000

/-- REED_LANE_REPAIR, 0x2020 (R113). -/
abbrev reedLaneRepair : Nat := 0x20200000000000

/-- REED_COL_REPAIR, 0x2021 (R113). -/
abbrev reedColRepair : Nat := 0x20210000000000

/-- SLATE_LANE_REPAIR, 0x2022 (R144). -/
abbrev slateLaneRepair : Nat := 0x20220000000000

/-- SLATE_COL_REPAIR, 0x2023 (R144). -/
abbrev slateColRepair : Nat := 0x20230000000000

/-- REED_TILES, 0x2100 (R113). -/
abbrev reedTiles : Nat := 0x21000000000000

/-- REED_ROWS_SKIPPED, 0x2101 (R113). -/
abbrev reedRowsSkipped : Nat := 0x21010000000000

/-- REED_SKIP_MISS, 0x2102 (R113). -/
abbrev reedSkipMiss : Nat := 0x21020000000000

/-- REED_RESIDUE_ERR, 0x2103 (R113). -/
abbrev reedResidueErr : Nat := 0x21030000000000

/-- REED_TILE_REPEAT, 0x2104 (R113). -/
abbrev reedTileRepeat : Nat := 0x21040000000000

/-- REED_STRAW_AC, 0x2105 (R113). -/
abbrev reedStrawAc : Nat := 0x21050000000000

/-- REED_HIP_STALL, 0x2106 (R113). -/
abbrev reedHipStall : Nat := 0x21060000000000

/-- REED_STAT_LIFT, 0x2107 (R113). -/
abbrev reedStatLift : Nat := 0x21070000000000

/-- REED_ZERO_SKIP, 0x2110 (R113). -/
abbrev reedZeroSkip : Nat := 0x21100000000000

/-- SLATE_TILES, 0x2200 (R144). -/
abbrev slateTiles : Nat := 0x22000000000000

/-- SLATE_RESIDUE_ERR, 0x2201 (R144). -/
abbrev slateResidueErr : Nat := 0x22010000000000

/-- SLATE_TILE_REPEAT, 0x2202 (R144). -/
abbrev slateTileRepeat : Nat := 0x22020000000000

/-- SLATE_STRAW_AC, 0x2203 (R144). -/
abbrev slateStrawAc : Nat := 0x22030000000000

/-- SLATE_BORROW_AC, 0x2204 (R144). -/
abbrev slateBorrowAc : Nat := 0x22040000000000

/-- SLATE_RELOAD, 0x2205 (R144). -/
abbrev slateReload : Nat := 0x22050000000000

/-- SLATE_NAN_TILES, 0x2206 (R144). -/
abbrev slateNanTiles : Nat := 0x22060000000000

/-- SLATE_INF_TILES, 0x2207 (R144). -/
abbrev slateInfTiles : Nat := 0x22070000000000

/-- SLATE_DERIV_DOMAIN, 0x2208 (R144). -/
abbrev slateDerivDomain : Nat := 0x22080000000000

/-- SLATE_GUTTER_WAIT, 0x2209 (R144). -/
abbrev slateGutterWait : Nat := 0x22090000000000

/-- SCHED_OPS, 0x2300 (R322). -/
abbrev schedOps : Nat := 0x23000000000000

/-- HOTSPOT, 0x2302 (R322). -/
abbrev hotspot : Nat := 0x23020000000000

/-- STALE, 0x2303 (R322). -/
abbrev stale : Nat := 0x23030000000000

/-- PREFETCH_REFETCH, 0x2304 (R322). -/
abbrev prefetchRefetch : Nat := 0x23040000000000

/-- CACHE_HITS, 0x2305 (R322). -/
abbrev cacheHits : Nat := 0x23050000000000

/-- CACHE_MISSES, 0x2306 (R322). -/
abbrev cacheMisses : Nat := 0x23060000000000

/-- CACHE_INVAL, 0x2307 (R322). -/
abbrev cacheInval : Nat := 0x23070000000000

/-- TOKEN_DOUBLE_SET, 0x2308 (R322). -/
abbrev tokenDoubleSet : Nat := 0x23080000000000

/-- SLOT_FULL_AC, 0x2309 (R322). -/
abbrev slotFullAc : Nat := 0x23090000000000

/-- PREFETCH_STRICT, 0x2310 (R322). -/
abbrev prefetchStrict : Nat := 0x23100000000000

/-- TOKEN_TIMEOUT, 0x2311 (R322). -/
abbrev tokenTimeout : Nat := 0x23110000000000

/-- LATE_ACCEPT, 0x2320 (R322). -/
abbrev lateAccept : Nat := 0x23200000000000

/-- PHASE_COUNT, 0x2400 (R426). -/
abbrev phaseCount : Nat := 0x24000000000000

/-- STEP_PERIOD, 0x2401 (R426). -/
abbrev stepPeriod : Nat := 0x24010000000000

/-- PHASE_ENTRY, 0x2402 (R426). -/
abbrev phaseEntry : Nat := 0x24020000000000

/-- ARITH_REV, 0x2403 (R426). -/
abbrev arithRev : Nat := 0x24030000000000

/-- PHASE_DIGEST, 0x2404 (R426). -/
abbrev phaseDigest : Nat := 0x24040000000000

/-- JOB_T0, 0x2410 (R426). -/
abbrev jobT0 : Nat := 0x24100000000000

/-- JOB_S0, 0x2411 (R426). -/
abbrev jobS0 : Nat := 0x24110000000000

/-- SHIFT_TOTAL, 0x2412 (R426). -/
abbrev shiftTotal : Nat := 0x24120000000000

/-- STRETCH_LEAD, 0x2413 (R426). -/
abbrev stretchLead : Nat := 0x24130000000000

/-- STRETCH_BUDGET, 0x2414 (R426). -/
abbrev stretchBudget : Nat := 0x24140000000000

/-- STRETCH_SENT, 0x2420 (R426). -/
abbrev stretchSent : Nat := 0x24200000000000

/-- STRETCH_EMERG, 0x2421 (R426). -/
abbrev stretchEmerg : Nat := 0x24210000000000

/-- STRETCH_APPLIED, 0x2422 (R426). -/
abbrev stretchApplied : Nat := 0x24220000000000

/-- STRETCH_PREOPENED, 0x2423 (R426). -/
abbrev stretchPreopened : Nat := 0x24230000000000

/-- LATE_OPENS, 0x2424 (R426). -/
abbrev lateOpens : Nat := 0x24240000000000

/-- STEP_SHIFT, 0x2425 (R426). -/
abbrev stepShift : Nat := 0x24250000000000

/-- STRETCH_DISCARD, 0x2426 (R426). -/
abbrev stretchDiscard : Nat := 0x24260000000000

/-- TS_SWITCHES, 0x2430 (R426). -/
abbrev tsSwitches : Nat := 0x24300000000000

/-- MEM_INSTALLED, 0x3000 (R354). -/
abbrev memInstalled : Nat := 0x30000000000000

/-- MEM_PIN_RATE, 0x3001 (R354). -/
abbrev memPinRate : Nat := 0x30010000000000

/-- MEM_INTERLEAVE, 0x3010 (R354). -/
abbrev memInterleave : Nat := 0x30100000000000

/-- RETIRE_RESERVE, 0x3011 (R354). -/
abbrev retireReserve : Nat := 0x30110000000000

/-- MIRROR_RANGE, 0x3012 (R354). -/
abbrev mirrorRange : Nat := 0x30120000000000

/-- MIRROR_VERIFY, 0x3013 (R354). -/
abbrev mirrorVerify : Nat := 0x30130000000000

/-- MEM_CHAN_STATE, 0x3020 (R354). -/
abbrev memChanState : Nat := 0x30200000000000

/-- MEM_CE, 0x3021 (R354). -/
abbrev memCe : Nat := 0x30210000000000

/-- MEM_UE, 0x3022 (R354). -/
abbrev memUe : Nat := 0x30220000000000

/-- MEM_ADDR_ERR, 0x3023 (R354). -/
abbrev memAddrErr : Nat := 0x30230000000000

/-- MIRROR_REPAIR, 0x3030 (R354). -/
abbrev mirrorRepair : Nat := 0x30300000000000

/-- MIRROR_DIVERGE, 0x3031 (R354). -/
abbrev mirrorDiverge : Nat := 0x30310000000000

/-- MEM_LOST, 0x3032 (R354). -/
abbrev memLost : Nat := 0x30320000000000

/-- SCRUB_PERIOD, 0x3040 (R354). -/
abbrev scrubPeriod : Nat := 0x30400000000000

/-- SCRUB_PASSES, 0x3041 (R354). -/
abbrev scrubPasses : Nat := 0x30410000000000

/-- CE_RETIRE_LIMIT, 0x3042 (R354). -/
abbrev ceRetireLimit : Nat := 0x30420000000000

/-- DQ_MARK_LIMIT, 0x3050 (R354). -/
abbrev dqMarkLimit : Nat := 0x30500000000000

/-- MEM_ERR_LOG, 0x3100 (R354). -/
abbrev memErrLog : Nat := 0x31000000000000

/-- MEM_ERR_HEAD, 0x3101 (R354). -/
abbrev memErrHead : Nat := 0x31010000000000

/-- MEM_ACCESS, 0x3200 (R491). -/
abbrev memAccess : Nat := 0x32000000000000

/-- PORT_MODE, 0x4000 (R402). -/
abbrev portMode : Nat := 0x40000000000000

/-- LINK_STATE, 0x4001 (R402). -/
abbrev linkState : Nat := 0x40010000000000

/-- MAC_ADDR, 0x4002 (R402). -/
abbrev macAddr : Nat := 0x40020000000000

/-- MAX_FRAME, 0x4003 (R402). -/
abbrev maxFrame : Nat := 0x40030000000000

/-- FEC_CORR, 0x4004 (R402). -/
abbrev fecCorr : Nat := 0x40040000000000

/-- FEC_UNCORR, 0x4005 (R402). -/
abbrev fecUncorr : Nat := 0x40050000000000

/-- FCS_ERR, 0x4006 (R402). -/
abbrev fcsErr : Nat := 0x40060000000000

/-- PATH_ADDR, 0x4010 (R402). -/
abbrev pathAddr : Nat := 0x40100000000000

/-- PATH_PREFIX, 0x4011 (R402). -/
abbrev pathPrefix : Nat := 0x40110000000000

/-- PATH_GATEWAY, 0x4012 (R402). -/
abbrev pathGateway : Nat := 0x40120000000000

/-- PATH_VLAN, 0x4013 (R402). -/
abbrev pathVlan : Nat := 0x40130000000000

/-- TBK_UDP_PORT, 0x4020 (R402). -/
abbrev tbkUdpPort : Nat := 0x40200000000000

/-- TBK_RTO, 0x4021 (R402). -/
abbrev tbkRto : Nat := 0x40210000000000

/-- JOB_TAG, 0x4022 (R402). -/
abbrev jobTag : Nat := 0x40220000000000

/-- ENDPOINT_GRANT, 0x4023 (R402). -/
abbrev endpointGrant : Nat := 0x40230000000000

/-- TBK_DSCP, 0x4024 (R402). -/
abbrev tbkDscp : Nat := 0x40240000000000

/-- TBK_DROP, 0x4030 (R402). -/
abbrev tbkDrop : Nat := 0x40300000000000

/-- TBK_RETX, 0x4031 (R402). -/
abbrev tbkRetx : Nat := 0x40310000000000

/-- TBK_PATH_SWITCH, 0x4032 (R402). -/
abbrev tbkPathSwitch : Nat := 0x40320000000000

/-- TBK_CTX_OPEN, 0x4033 (R402). -/
abbrev tbkCtxOpen : Nat := 0x40330000000000

/-- TBK_AUTH_SUPPR, 0x4034 (R402). -/
abbrev tbkAuthSuppr : Nat := 0x40340000000000

/-- HB_LAST, 0x4040 (R402). -/
abbrev hbLast : Nat := 0x40400000000000

/-- HB_LOST, 0x4041 (R402). -/
abbrev hbLost : Nat := 0x40410000000000

/-- FETCH_TIMEOUT, 0x4050 (R402). -/
abbrev fetchTimeout : Nat := 0x40500000000000

/-- FETCH_RETRIES, 0x4051 (R402). -/
abbrev fetchRetries : Nat := 0x40510000000000

/-- FETCH_CRC_ERR, 0x4052 (R402). -/
abbrev fetchCrcErr : Nat := 0x40520000000000

/-- PTP_DOMAIN, 0x4060 (R402). -/
abbrev ptpDomain : Nat := 0x40600000000000

/-- PTP_MASTER, 0x4061 (R402). -/
abbrev ptpMaster : Nat := 0x40610000000000

/-- PTP_STATE, 0x4062 (R402). -/
abbrev ptpState : Nat := 0x40620000000000

/-- PTP_OFFSET, 0x4063 (R402). -/
abbrev ptpOffset : Nat := 0x40630000000000

/-- PTP_TIME, 0x4064 (R402). -/
abbrev ptpTime : Nat := 0x40640000000000

/-- RANK_MAP, 0x4800 (R402). -/
abbrev rankMap : Nat := 0x48000000000000

/-- RANK_MAP_GEN, 0x4801 (R402). -/
abbrev rankMapGen : Nat := 0x48010000000000

/-- JOB_MODULES, 0x4802 (R402). -/
abbrev jobModules : Nat := 0x48020000000000

/-- OWN_RANK, 0x4803 (R402). -/
abbrev ownRank : Nat := 0x48030000000000

/-- JOB_EPOCH, 0x4804 (R402). -/
abbrev jobEpoch : Nat := 0x48040000000000

/-- ENDPOINT, 0x4900 (R402). -/
abbrev endpoint : Nat := 0x49000000000000

/-- SPAR_OVF_LIMIT, 0x5010 (R183). -/
abbrev sparOvfLimit : Nat := 0x50100000000000

/-- SPAR_SPILL_LIMIT, 0x5011 (R183). -/
abbrev sparSpillLimit : Nat := 0x50110000000000

/-- SPAR_ESCALATE, 0x5012 (R183). -/
abbrev sparEscalate : Nat := 0x50120000000000

/-- SHADOW_SAMPLES, 0x5013 (R183). -/
abbrev shadowSamples : Nat := 0x50130000000000

/-- SHADOW_TOL, 0x5014 (R183). -/
abbrev shadowTol : Nat := 0x50140000000000

/-- SPAR_SHADOW_LIMIT, 0x5015 (R183). -/
abbrev sparShadowLimit : Nat := 0x50150000000000

/-- SPAR_RUNG_HOLD, 0x5016 (R183). -/
abbrev sparRungHold : Nat := 0x50160000000000

/-- EAVES_SCALE_OVF, 0x5020 (R183). -/
abbrev eavesScaleOvf : Nat := 0x50200000000000

/-- EAVES_UNDERFLOW, 0x5021 (R183). -/
abbrev eavesUnderflow : Nat := 0x50210000000000

/-- EAVES_OUTLIER_SPILL, 0x5022 (R183). -/
abbrev eavesOutlierSpill : Nat := 0x50220000000000

/-- EAVES_CEIL, 0x5023 (R183). -/
abbrev eavesCeil : Nat := 0x50230000000000

/-- EAVES_FLOOR, 0x5024 (R183). -/
abbrev eavesFloor : Nat := 0x50240000000000

/-- EAVES_REBASE, 0x5025 (R183). -/
abbrev eavesRebase : Nat := 0x50250000000000

/-- EAVES_LIFTS, 0x5026 (R183). -/
abbrev eavesLifts : Nat := 0x50260000000000

/-- SPAR_FALLBACKS, 0x5030 (R183). -/
abbrev sparFallbacks : Nat := 0x50300000000000

/-- SPAR_ESCALATIONS, 0x5031 (R183). -/
abbrev sparEscalations : Nat := 0x50310000000000

/-- SPAR_STRETCH_REQ, 0x5032 (R183). -/
abbrev sparStretchReq : Nat := 0x50320000000000

/-- SPAR_ALL_FALLBACK, 0x5033 (R183). -/
abbrev sparAllFallback : Nat := 0x50330000000000

/-- SPAR_TOP_RUNG, 0x5034 (R183). -/
abbrev sparTopRung : Nat := 0x50340000000000

/-- SHADOW_RUN, 0x5040 (R183). -/
abbrev shadowRun : Nat := 0x50400000000000

/-- SHADOW_DISAGREE, 0x5041 (R183). -/
abbrev shadowDisagree : Nat := 0x50410000000000

/-- TRACKER_DIGEST, 0x5100 (R183). -/
abbrev trackerDigest : Nat := 0x51000000000000

/-- LAYER_HEALTH, 0x5200 (R183). -/
abbrev layerHealth : Nat := 0x52000000000000

/-- CLIP_THRESHOLD, 0x5300 (R218). -/
abbrev clipThreshold : Nat := 0x53000000000000

/-- GLOBAL_NORM, 0x5301 (R218). -/
abbrev globalNorm : Nat := 0x53010000000000

/-- GLOBAL_SQNORM, 0x5302 (R218). -/
abbrev globalSqnorm : Nat := 0x53020000000000

/-- CLIP_FACTOR, 0x5303 (R218). -/
abbrev clipFactor : Nat := 0x53030000000000

/-- DAMSON_SKIPPED, 0x5304 (R218). -/
abbrev damsonSkipped : Nat := 0x53040000000000

/-- DAMSON_MOM_OVF, 0x5310 (R218). -/
abbrev damsonMomOvf : Nat := 0x53100000000000

/-- DAMSON_MASTER_OVF, 0x5311 (R218). -/
abbrev damsonMasterOvf : Nat := 0x53110000000000

/-- UPDATE_RATIO, 0x5320 (R218). -/
abbrev updateRatio : Nat := 0x53200000000000

/-- VERSION_CURRENT, 0x5340 (R218). -/
abbrev versionCurrent : Nat := 0x53400000000000

/-- VERSION_SLOT, 0x5341 (R218). -/
abbrev versionSlot : Nat := 0x53410000000000

/-- VERSION_FAULTS, 0x5342 (R218). -/
abbrev versionFaults : Nat := 0x53420000000000

/-- VERSION_REMEASURE, 0x5343 (R218). -/
abbrev versionRemeasure : Nat := 0x53430000000000

/-- BRAMBLE_RAW_BYTES, 0x5380 (R218). -/
abbrev brambleRawBytes : Nat := 0x53800000000000

/-- BRAMBLE_STORED_BYTES, 0x5381 (R218). -/
abbrev brambleStoredBytes : Nat := 0x53810000000000

/-- BRAMBLE_SAT, 0x5382 (R218). -/
abbrev brambleSat : Nat := 0x53820000000000

/-- JOB_SEED, 0x5400 (R241). -/
abbrev jobSeed : Nat := 0x54000000000000

/-- SLOE_BASE, 0x5401 (R241). -/
abbrev sloeBase : Nat := 0x54010000000000

/-- SLOE_STATE_HASH, 0x5402 (R241). -/
abbrev sloeStateHash : Nat := 0x54020000000000

/-- SLOE_EVALS, 0x5403 (R241). -/
abbrev sloeEvals : Nat := 0x54030000000000

/-- SLOE_CHECK_ERR, 0x5404 (R241). -/
abbrev sloeCheckErr : Nat := 0x54040000000000

/-- SLOE_LANES, 0x5405 (R241). -/
abbrev sloeLanes : Nat := 0x54050000000000

/-- SLOE_LANE_MAP, 0x5406 (R241). -/
abbrev sloeLaneMap : Nat := 0x54060000000000

/-- QUINCE_STATE, 0x6000 (R281). -/
abbrev quinceState : Nat := 0x60000000000000

/-- QUINCE_OPS, 0x6001 (R281). -/
abbrev quinceOps : Nat := 0x60010000000000

/-- QUINCE_BLOCKS, 0x6002 (R281). -/
abbrev quinceBlocks : Nat := 0x60020000000000

/-- QUINCE_BLOCKS_SKIPPED, 0x6003 (R281). -/
abbrev quinceBlocksSkipped : Nat := 0x60030000000000

/-- QUINCE_RESIDUE_ERR, 0x6004 (R281). -/
abbrev quinceResidueErr : Nat := 0x60040000000000

/-- QUINCE_REPEAT, 0x6005 (R281). -/
abbrev quinceRepeat : Nat := 0x60050000000000

/-- QUINCE_STRAW_AC, 0x6006 (R281). -/
abbrev quinceStrawAc : Nat := 0x60060000000000

/-- QUINCE_P_FLUSH, 0x6007 (R281). -/
abbrev quincePFlush : Nat := 0x60070000000000

/-- QUINCE_NAN_ROWS, 0x6008 (R281). -/
abbrev quinceNanRows : Nat := 0x60080000000000

/-- QUINCE_LOAD_WAIT, 0x6009 (R281). -/
abbrev quinceLoadWait : Nat := 0x60090000000000

/-- QUINCE_SAMPLE_INVALID, 0x600A (R281). -/
abbrev quinceSampleInvalid : Nat := 0x600A0000000000

/-- KV_PAGES_TOTAL, 0x6010 (R281). -/
abbrev kvPagesTotal : Nat := 0x60100000000000

/-- KV_PAGES_FREE, 0x6011 (R281). -/
abbrev kvPagesFree : Nat := 0x60110000000000

/-- KV_FREE_LOW, 0x6012 (R281). -/
abbrev kvFreeLow : Nat := 0x60120000000000

/-- KV_FREE_HIGH, 0x6013 (R281). -/
abbrev kvFreeHigh : Nat := 0x60130000000000

/-- KV_DECAY_SHIFT, 0x6014 (R281). -/
abbrev kvDecayShift : Nat := 0x60140000000000

/-- KV_PROT_FIRST, 0x6015 (R281). -/
abbrev kvProtFirst : Nat := 0x60150000000000

/-- KV_RECENT, 0x6016 (R281). -/
abbrev kvRecent : Nat := 0x60160000000000

/-- KV_ACTIVE_SEQ, 0x6017 (R281). -/
abbrev kvActiveSeq : Nat := 0x60170000000000

/-- KV_EVICTIONS, 0x6018 (R281). -/
abbrev kvEvictions : Nat := 0x60180000000000

/-- KV_ALLOC_STALL, 0x6019 (R281). -/
abbrev kvAllocStall : Nat := 0x60190000000000

/-- KV_DEFERRED, 0x601A (R281). -/
abbrev kvDeferred : Nat := 0x601A0000000000

/-- KV_APPEND_SAT, 0x601B (R281). -/
abbrev kvAppendSat : Nat := 0x601B0000000000

/-- KV_PL_SLOT, 0x601C (R281). -/
abbrev kvPlSlot : Nat := 0x601C0000000000

/-- SEQ_ENTRY, 0x6020 (R281). -/
abbrev seqEntry : Nat := 0x60200000000000

/-- KV_EDIT, 0x6030 (R480). -/
abbrev kvEdit : Nat := 0x60300000000000

/-- SECURE_INTERVAL, 0x7000 (R458). -/
abbrev secureInterval : Nat := 0x70000000000000

/-- SECURED_STEP, 0x7001 (R458). -/
abbrev securedStep : Nat := 0x70010000000000

/-- LOCAL_IMAGE_STEP, 0x7002 (R458). -/
abbrev localImageStep : Nat := 0x70020000000000

/-- BUDDY_RANK, 0x7003 (R458). -/
abbrev buddyRank : Nat := 0x70030000000000

/-- BUDDY_GEN_STEP, 0x7004 (R458). -/
abbrev buddyGenStep : Nat := 0x70040000000000

/-- IMAGE_DIGEST, 0x7005 (R458). -/
abbrev imageDigest : Nat := 0x70050000000000

/-- SECURE_RAW_BYTES, 0x7006 (R458). -/
abbrev secureRawBytes : Nat := 0x70060000000000

/-- SECURE_STREAM_BYTES, 0x7007 (R458). -/
abbrev secureStreamBytes : Nat := 0x70070000000000

/-- SECURE_TIME, 0x7008 (R458). -/
abbrev secureTime : Nat := 0x70080000000000

/-- SECURE_FORCED, 0x7009 (R458). -/
abbrev secureForced : Nat := 0x70090000000000

/-- COORD_RANK, 0x7010 (R458). -/
abbrev coordRank : Nat := 0x70100000000000

/-- STANDBY_RANK, 0x7011 (R458). -/
abbrev standbyRank : Nat := 0x70110000000000

/-- SPARE_LIST, 0x7012 (R458). -/
abbrev spareList : Nat := 0x70120000000000

/-- JOIN_EPOCH, 0x7013 (R458). -/
abbrev joinEpoch : Nat := 0x70130000000000

/-- START_MARGIN, 0x7014 (R458). -/
abbrev startMargin : Nat := 0x70140000000000

/-- RECOVERIES, 0x7020 (R458). -/
abbrev recoveries : Nat := 0x70200000000000

/-- RECOVERY_FAILS, 0x7021 (R458). -/
abbrev recoveryFails : Nat := 0x70210000000000

/-- REPLAY_MISMATCH, 0x7022 (R458). -/
abbrev replayMismatch : Nat := 0x70220000000000

/-- LAST_RECOVERY, 0x7023 (R458). -/
abbrev lastRecovery : Nat := 0x70230000000000

/-- STEPS_LOST, 0x7024 (R458). -/
abbrev stepsLost : Nat := 0x70240000000000

/-- MGMT_WDT_TIMEOUT, 0x7030 (R458). -/
abbrev mgmtWdtTimeout : Nat := 0x70300000000000

/-- MGMT_RESTARTS, 0x7031 (R458). -/
abbrev mgmtRestarts : Nat := 0x70310000000000

/-- ENGINE_CHECK_ERR, 0x7032 (R458). -/
abbrev engineCheckErr : Nat := 0x70320000000000

/-- GUTTER_STATE, 0x7033 (R458). -/
abbrev gutterState : Nat := 0x70330000000000

/-- LOG_LAST_RECORD, 0x7040 (R458). -/
abbrev logLastRecord : Nat := 0x70400000000000

/-- LOG_BYTES, 0x7041 (R458). -/
abbrev logBytes : Nat := 0x70410000000000

/-- LOG_CAPACITY, 0x7042 (R458). -/
abbrev logCapacity : Nat := 0x70420000000000

/-- POWERED_TIME, 0x7050 (R458). -/
abbrev poweredTime : Nat := 0x70500000000000

/-- UNAVAIL_TIME, 0x7051 (R458). -/
abbrev unavailTime : Nat := 0x70510000000000

/-- VIOL_LOG, 0x7100 (R480). -/
abbrev violLog : Nat := 0x71000000000000

/-- VIOL_HEAD, 0x7101 (R480). -/
abbrev violHead : Nat := 0x71010000000000

/-- FAULT_LOG, 0x7200 (R458). -/
abbrev faultLog : Nat := 0x72000000000000

/-- FAULT_LOG_HEAD, 0x7201 (R458). -/
abbrev faultLogHead : Nat := 0x72010000000000

/-- FAULT_COUNT, 0x7210 (R458). -/
abbrev faultCount : Nat := 0x72100000000000

/-- INPUT_VOLTAGE, 0x8000 (R492). -/
abbrev inputVoltage : Nat := 0x80000000000000

/-- INPUT_CURRENT, 0x8001 (R492). -/
abbrev inputCurrent : Nat := 0x80010000000000

/-- MODULE_POWER, 0x8002 (R492). -/
abbrev modulePower : Nat := 0x80020000000000

/-- ENERGY, 0x8003 (R492). -/
abbrev energy : Nat := 0x80030000000000

/-- POWER_LIMIT, 0x8004 (R492). -/
abbrev powerLimit : Nat := 0x80040000000000

/-- TEMP, 0x8010 (R492). -/
abbrev temp : Nat := 0x80100000000000

/-- THERMAL_WARN, 0x8011 (R492). -/
abbrev thermalWarn : Nat := 0x80110000000000

/-- THERMAL_TRIP, 0x8012 (R492). -/
abbrev thermalTrip : Nat := 0x80120000000000

/-- THROTTLE_EVENTS, 0x8013 (R492). -/
abbrev throttleEvents : Nat := 0x80130000000000

/-- SLEW_DELTA, 0x8020 (R492). -/
abbrev slewDelta : Nat := 0x80200000000000

/-- PLL_STATE, 0x8030 (R492). -/
abbrev pllState : Nat := 0x80300000000000

/-- REF_STATE, 0x8031 (R492). -/
abbrev refState : Nat := 0x80310000000000

/-- RESET_REQ, 0x8040 (R492). -/
abbrev resetReq : Nat := 0x80400000000000

/-- RESET_CAUSE, 0x8041 (R492). -/
abbrev resetCause : Nat := 0x80410000000000

/-- SECURITY_VERSION, 0x9000 (R494). -/
abbrev securityVersion : Nat := 0x90000000000000

/-- FUSE_STATE, 0x9001 (R494). -/
abbrev fuseState : Nat := 0x90010000000000

/-- VENDOR_KEY_HASH, 0x9002 (R494). -/
abbrev vendorKeyHash : Nat := 0x90020000000000

/-- IDENTITY_CHAIN, 0x9003 (R494). -/
abbrev identityChain : Nat := 0x90030000000000

/-- IDENTITY_PUBKEY, 0x9004 (R494). -/
abbrev identityPubkey : Nat := 0x90040000000000

/-- MEAS_LOG, 0x9005 (R494). -/
abbrev measLog : Nat := 0x90050000000000

/-- MEAS_LOG_LEN, 0x9006 (R494). -/
abbrev measLogLen : Nat := 0x90060000000000

/-- FW_BANK, 0x9010 (R494). -/
abbrev fwBank : Nat := 0x90100000000000

/-- FW_ACTIVE, 0x9011 (R494). -/
abbrev fwActive : Nat := 0x90110000000000

/-- FW_STAGE, 0x9012 (R494). -/
abbrev fwStage : Nat := 0x90120000000000

/-- FW_CMD, 0x9013 (R494). -/
abbrev fwCmd : Nat := 0x90130000000000

/-- FW_STATE, 0x9014 (R494). -/
abbrev fwState : Nat := 0x90140000000000

/-- PAUSE_TABLE, 0xA001 (R480). -/
abbrev pauseTable : Nat := 0xA0010000000000

/-- PAUSE_REPORT, 0xA002 (R480). -/
abbrev pauseReport : Nat := 0xA0020000000000

/-- FALLBACK_MODE, 0xA010 (R183). -/
abbrev fallbackMode : Nat := 0xA0100000000000

/-- FALLBACK_TIMEOUT, 0xA010.01 (R183). -/
abbrev fallbackTimeout : Nat := 0xA0100100000000

/-- SCALE_MODE, 0xA011 (R183). -/
abbrev scaleMode : Nat := 0xA0110000000000

/-- SCALE_TIMEOUT, 0xA011.01 (R183). -/
abbrev scaleTimeout : Nat := 0xA0110100000000

/-- OUTLIER_MODE, 0xA012 (R183). -/
abbrev outlierMode : Nat := 0xA0120000000000

/-- OUTLIER_TIMEOUT, 0xA012.01 (R183). -/
abbrev outlierTimeout : Nat := 0xA0120100000000

/-- KV_EVICT_MODE, 0xA013 (R281). -/
abbrev kvEvictMode : Nat := 0xA0130000000000

/-- KV_EVICT_TIMEOUT, 0xA013.01 (R281). -/
abbrev kvEvictTimeout : Nat := 0xA0130100000000

/-- STRETCH_MODE, 0xA014 (R426). -/
abbrev stretchMode : Nat := 0xA0140000000000

/-- STRETCH_TIMEOUT, 0xA014.01 (R426). -/
abbrev stretchTimeout : Nat := 0xA0140100000000

/-- RECOVERY_MODE, 0xA015 (R458). -/
abbrev recoveryMode : Nat := 0xA0150000000000

/-- RECOVERY_TIMEOUT, 0xA015.01 (R458). -/
abbrev recoveryTimeout : Nat := 0xA0150100000000

/-- RANKMAP_MODE, 0xA016 (R402). -/
abbrev rankmapMode : Nat := 0xA0160000000000

/-- RANKMAP_TIMEOUT, 0xA016.01 (R402). -/
abbrev rankmapTimeout : Nat := 0xA0160100000000

/-- CLIP_MODE, 0xA017 (R218). -/
abbrev clipMode : Nat := 0xA0170000000000

/-- CLIP_TIMEOUT, 0xA017.01 (R218). -/
abbrev clipTimeout : Nat := 0xA0170100000000

/-- SECURE_MODE, 0xA018 (R458). -/
abbrev secureMode : Nat := 0xA0180000000000

/-- SECURE_TIMEOUT, 0xA018.01 (R458). -/
abbrev secureTimeout : Nat := 0xA0180100000000

/-- SCRUB_MODE, 0xA019 (R354). -/
abbrev scrubMode : Nat := 0xA0190000000000

/-- SCRUB_TIMEOUT, 0xA019.01 (R354). -/
abbrev scrubTimeout : Nat := 0xA0190100000000

/-- FETCH_MODE, 0xA01A (R402). -/
abbrev fetchMode : Nat := 0xA01A0000000000

/-- FETCH_PAUSE_TIMEOUT, 0xA01A.01 (R402). -/
abbrev fetchPauseTimeout : Nat := 0xA01A0100000000

/-- THERMAL_MODE, 0xA01B (R492). -/
abbrev thermalMode : Nat := 0xA01B0000000000

/-- THERMAL_TIMEOUT, 0xA01B.01 (R492). -/
abbrev thermalTimeout : Nat := 0xA01B0100000000

end Obj

/-- Rows 0 to 30 of the dictionary. -/
def dictRows0 : List ObjRow := [
  row 0x0000 0 .u32 12 1 0 .free false false (.typeSize) (.any),
  row 0x0010 0 .u16 0 1 0 .free false false (.dirCount) (.any),
  row 0x0011 0 (.bytes 16) 1024 1 0 .free false false (.directory) (.any),
  row 0x1000 0 .str 0 1 0 .free false false (.val 7019811562541380162) (.any),
  row 0x1000 1 .str 0 1 0 .free false false (.val 31091381692948812) (.any),
  row 0x1000 2 .str 0 1 0 .free false false (.val 119200280573256) (.any),
  row 0x1000 3 .str 0 1 0 .free false false (.fixed) (.any),
  row 0x1001 0 .u64 0 1 0 .free false false (.fixed) (.any),
  row 0x1002 0 .u16 0 1 0 .free false false (.fixed) (.any),
  row 0x1003 0 .u32 0 1 0 .free false false (.fixed) (.any),
  row 0x1004 0 .time 0 1 0 .free false false (.val 0) (.any),
  row 0x1005 0 .u32 0 1 0 .free true false (.val 0) (.any),
  row 0x1006 0 .u64 0 1 0 .free false false (.val 0) (.any),
  row 0x1007 0 .u8 0 1 0 .free false false (.val 0) (.any),
  row 0x1008 0 .u16 0 1 0 .free false false (.val 0) (.any),
  row 0x1010 0 .u8 0 1 0 .free false false (.val 0) (.any),
  row 0x1011 0 .u8 0 1 3 .free false false (.val 0) (.between 0 2),
  row 0x1012 0 .u8 0 1 3 .free false false (.val 0) (.oneOf [1, 2, 5]),
  row 0x1013 0 .u8 0 1 3 .readyMaint false false (.val 0) (.between 1 1),
  row 0x1014 0 .u64 0 1 3 .txnRunning false false (.val 0) (.any),
  row 0x1020 0 .u16 0 1 3 .free true false (.val 48100) (.between 1024 49151),
  row 0x1021 0 .u8 0 1 0 .free false false (.val 0) (.any),
  row 0x1022 0 .time 0 1 3 .free true false (.val 60000000000) (.between 1000000000 3600000000000),
  row 0x1023 0 (.bytes 64) 16 1 0 .free false false (.val 0) (.any),
  row 0x1024 0 .u32 16 1 2 .zero false false (.val 0) (.any),
  row 0x1030 0 (.bytes 40) 64 1 3 .free true false (.val 0) (.special),
  row 0x1031 0 .bool 0 1 3 .free true false (.val 1) (.between 0 1),
  row 0x1040 0 .u8 0 1 0 .free false false (.val 0) (.any),
  row 0x1041 0 .time 0 1 3 .free true false (.val 1000000000) (.between 1000000 60000000000),
  row 0x1042 0 .time 0 1 3 .free true false (.val 5000000) (.between 100000 10000000000),
  row 0x1043 0 .u64 0 1 2 .zero false false (.val 0) (.any)]

/-- Rows 31 to 61 of the dictionary. -/
def dictRows1 : List ObjRow := [
  row 0x1044 0 .u32 0 1 2 .zero false false (.val 0) (.any),
  row 0x1045 0 .u32 0 1 2 .zero false false (.val 0) (.any),
  row 0x2000 0 .u64 0 1 3 .free false false (.val 0) (.multiple 256),
  row 0x2000 1 .u64 0 1 3 .free false false (.val 0) (.between 256 17179869184),
  row 0x2000 2 (.bytes 32) 0 1 3 .free false false (.val 0) (.any),
  row 0x2001 0 .u8 0 1 3 .txn false false (.val 0) (.between 1 2),
  row 0x2002 0 .u8 0 1 0 .free false false (.val 0) (.any),
  row 0x2003 0 (.bytes 16) 0 1 0 .free false false (.val 0) (.any),
  row 0x2004 0 (.bytes 32) 0 1 0 .free false false (.val 0) (.any),
  row 0x2010 0 .u8 136 1 0 .free true false (.physState) (.any),
  row 0x2011 0 .u8 128 1 0 .free false false (.coreMap) (.any),
  row 0x2012 0 .u8 0 1 0 .free false false (.val 128) (.any),
  row 0x2020 0 .u64 136 1 0 .free false false (.fixed) (.any),
  row 0x2021 0 .u64 136 1 0 .free false false (.fixed) (.any),
  row 0x2022 0 .u64 136 1 0 .free false false (.fixed) (.any),
  row 0x2023 0 .u64 136 1 0 .free false false (.fixed) (.any),
  row 0x2100 0 .u64 128 1 2 .zero false false (.val 0) (.any),
  row 0x2101 0 .u64 128 1 2 .zero false false (.val 0) (.any),
  row 0x2102 0 .u32 128 1 2 .zero false false (.val 0) (.any),
  row 0x2103 0 .u32 128 1 2 .zero false false (.val 0) (.any),
  row 0x2104 0 .u32 128 1 2 .zero false false (.val 0) (.any),
  row 0x2105 0 .u64 128 1 2 .zero false false (.val 0) (.any),
  row 0x2106 0 .u64 128 1 2 .zero false false (.val 0) (.any),
  row 0x2107 0 .u32 128 1 2 .zero false false (.val 0) (.any),
  row 0x2110 0 .bool 0 1 3 .free true false (.val 1) (.between 0 1),
  row 0x2200 0 .u64 128 1 2 .zero false false (.val 0) (.any),
  row 0x2201 0 .u32 128 1 2 .zero false false (.val 0) (.any),
  row 0x2202 0 .u32 128 1 2 .zero false false (.val 0) (.any),
  row 0x2203 0 .u64 128 1 2 .zero false false (.val 0) (.any),
  row 0x2204 0 .u64 128 1 2 .zero false false (.val 0) (.any),
  row 0x2205 0 .u32 128 1 2 .zero false false (.val 0) (.any)]

/-- Rows 62 to 92 of the dictionary. -/
def dictRows2 : List ObjRow := [
  row 0x2206 0 .u32 128 1 2 .zero false false (.val 0) (.any),
  row 0x2207 0 .u32 128 1 2 .zero false false (.val 0) (.any),
  row 0x2208 0 .u32 128 1 2 .zero false false (.val 0) (.any),
  row 0x2209 0 .u64 128 1 2 .zero false false (.val 0) (.any),
  row 0x2300 0 .u64 128 1 2 .zero false false (.val 0) (.any),
  row 0x2302 0 .u64 128 1 2 .zero false false (.val 0) (.any),
  row 0x2303 0 .u32 128 1 2 .zero false false (.val 0) (.any),
  row 0x2304 0 .u32 128 1 2 .zero false false (.val 0) (.any),
  row 0x2305 0 .u64 128 1 2 .zero false false (.val 0) (.any),
  row 0x2306 0 .u64 128 1 2 .zero false false (.val 0) (.any),
  row 0x2307 0 .u32 128 1 2 .zero false false (.val 0) (.any),
  row 0x2308 0 .u32 128 1 2 .zero false false (.val 0) (.any),
  row 0x2309 0 .u64 128 1 2 .zero false false (.val 0) (.any),
  row 0x2310 0 .bool 0 1 3 .free true true (.val 0) (.between 0 1),
  row 0x2311 0 .time 0 1 3 .free true true (.val 500000) (.between 10000 100000000),
  row 0x2320 0 .u32 8 1 2 .zero false false (.val 0) (.any),
  row 0x2400 0 .u16 0 1 0 .free false false (.val 0) (.any),
  row 0x2401 0 .time 0 1 0 .free false false (.val 0) (.any),
  row 0x2402 0 (.bytes 16) 1024 1 0 .free false false (.val 0) (.any),
  row 0x2403 0 .u16 0 1 0 .free false false (.fixed) (.any),
  row 0x2404 0 (.bytes 32) 0 1 0 .free false false (.val 0) (.any),
  row 0x2410 0 .time 0 1 3 .txnReady false false (.val 0) (.any),
  row 0x2411 0 .u64 0 1 3 .txnReady false false (.val 0) (.any),
  row 0x2412 0 .u64 0 1 0 .free false false (.val 0) (.any),
  row 0x2413 0 .time 0 1 3 .free true true (.val 20000) (.between 5000 1000000),
  row 0x2414 0 .u32 0 1 3 .free true true (.val 100) (.between 1 0xFFFFFFFF),
  row 0x2420 0 .u32 0 1 2 .zero false false (.val 0) (.any),
  row 0x2421 0 .u32 0 1 2 .zero false false (.val 0) (.any),
  row 0x2422 0 .u64 0 1 2 .zero false false (.val 0) (.any),
  row 0x2423 0 .u32 0 1 2 .zero false false (.val 0) (.any),
  row 0x2424 0 .u32 0 1 2 .zero false false (.val 0) (.any)]

/-- Rows 93 to 123 of the dictionary. -/
def dictRows3 : List ObjRow := [
  row 0x2425 0 .u32 0 1 0 .free false false (.val 0) (.any),
  row 0x2426 0 .u32 0 1 2 .zero false false (.val 0) (.any),
  row 0x2430 0 .u32 128 1 2 .zero false false (.val 0) (.any),
  row 0x3000 0 .u64 0 1 0 .free false false (.val 1099511627776) (.any),
  row 0x3001 0 .u32 0 1 0 .free false false (.val 14400) (.any),
  row 0x3010 0 .u8 16 1 0 .free false false (.val 0) (.any),
  row 0x3011 0 .u8 0 1 0 .free false false (.val 0) (.any),
  row 0x3012 0 (.bytes 16) 16 1 0 .free false false (.val 0) (.any),
  row 0x3013 0 .bool 0 1 3 .free true false (.val 0) (.between 0 1),
  row 0x3020 0 .u16 128 1 0 .free true false (.val 0) (.any),
  row 0x3021 0 .u64 128 1 2 .zero false false (.val 0) (.any),
  row 0x3022 0 .u32 128 1 2 .zero false false (.val 0) (.any),
  row 0x3023 0 .u32 128 1 2 .zero false false (.val 0) (.any),
  row 0x3030 0 .u32 0 1 2 .zero false false (.val 0) (.any),
  row 0x3031 0 .u32 0 1 2 .zero false false (.val 0) (.any),
  row 0x3032 0 .u32 0 1 0 .free false false (.val 0) (.any),
  row 0x3040 0 .time 0 1 3 .free true false (.val 28800000000000) (.between 3600000000000 604800000000000),
  row 0x3041 0 .u32 128 1 2 .zero false false (.val 0) (.any),
  row 0x3042 0 .u32 0 1 3 .free true false (.val 65536) (.between 1 0xFFFFFFFF),
  row 0x3050 0 .u16 0 1 3 .free true false (.val 64) (.between 1 65535),
  row 0x3100 0 (.bytes 32) 64 1 0 .free false false (.val 0) (.any),
  row 0x3101 0 .u8 0 1 0 .free false false (.val 0) (.any),
  row 0x3200 0 (.bytes 1048576) 268435456 3 3 .txn false false (.val 0) (.any),
  row 0x4000 0 .u8 0 1 3 .free true false (.val 0) (.between 0 0),
  row 0x4001 0 .u8 0 1 0 .free false false (.val 0) (.any),
  row 0x4002 0 (.bytes 6) 0 1 0 .free false false (.fixed) (.any),
  row 0x4003 0 .u16 0 1 3 .free true false (.val 9216) (.between 1518 9216),
  row 0x4004 0 .u64 0 1 2 .zero false false (.val 0) (.any),
  row 0x4005 0 .u64 0 1 2 .zero false false (.val 0) (.any),
  row 0x4006 0 .u64 0 1 2 .zero false false (.val 0) (.any),
  row 0x4010 0 .addr6 2 1 3 .free true false (.val 0) (.any)]

/-- Rows 124 to 154 of the dictionary. -/
def dictRows4 : List ObjRow := [
  row 0x4011 0 .u8 2 1 3 .free true false (.val 64) (.between 1 128),
  row 0x4012 0 .addr6 2 1 3 .free true false (.val 0) (.any),
  row 0x4013 0 .u16 2 1 3 .free true false (.val 0) (.between 0 4094),
  row 0x4020 0 .u16 0 1 3 .free true false (.val 48172) (.between 1024 49151),
  row 0x4021 0 .time 0 1 3 .free true false (.val 100000) (.between 20000 10000000),
  row 0x4022 0 .u32 0 1 0 .free false false (.val 0) (.any),
  row 0x4023 0 .u16 0 1 3 .free true false (.val 128) (.between 32 4096),
  row 0x4024 0 .u8 8 1 3 .free true false (.val 0) (.between 0 63),
  row 0x4030 0 .u64 16 1 2 .zero false false (.val 0) (.any),
  row 0x4031 0 .u64 0 1 2 .zero false false (.val 0) (.any),
  row 0x4032 0 .u32 0 1 2 .zero false false (.val 0) (.any),
  row 0x4033 0 .u16 0 1 0 .free false false (.val 0) (.any),
  row 0x4034 0 .u32 0 1 2 .zero false false (.val 0) (.any),
  row 0x4040 0 .time 4 1 0 .free false false (.val 0) (.any),
  row 0x4041 0 .u32 0 1 2 .zero false false (.val 0) (.any),
  row 0x4050 0 .time 0 1 3 .free true false (.val 2000000) (.between 100000 100000000),
  row 0x4051 0 .u32 0 1 2 .zero false false (.val 0) (.any),
  row 0x4052 0 .u32 0 1 2 .zero false false (.val 0) (.any),
  row 0x4060 0 .u8 0 1 3 .free true false (.val 0) (.between 0 127),
  row 0x4061 0 .addr6 4 1 3 .free true false (.val 0) (.any),
  row 0x4062 0 .u8 0 1 0 .free false false (.val 0) (.any),
  row 0x4063 0 .i32 0 1 0 .free false false (.val 0) (.any),
  row 0x4064 0 .time 0 1 0 .free false false (.val 0) (.any),
  row 0x4800 0 (.bytes 32) 65536 1 3 .txn false false (.val 0) (.special),
  row 0x4801 0 .u32 0 1 0 .free false false (.val 0) (.any),
  row 0x4802 0 .u16 0 1 0 .free false false (.val 0) (.any),
  row 0x4803 0 .u16 0 1 3 .txn false false (.val 0) (.special),
  row 0x4804 0 .u16 0 1 0 .free false false (.val 0) (.any),
  row 0x4900 0 (.bytes 32) 1024 1 3 .free true false (.val 0) (.special),
  row 0x5010 0 .u32 0 1 3 .free true true (.val 256) (.any),
  row 0x5011 0 .u32 0 1 3 .free true true (.val 16) (.any)]

/-- Rows 155 to 185 of the dictionary. -/
def dictRows5 : List ObjRow := [
  row 0x5012 0 .u8 0 1 3 .free true true (.val 3) (.between 1 4),
  row 0x5013 0 .u16 0 1 3 .free true true (.val 16) (.between 0 1024),
  row 0x5014 0 .f32 0 1 3 .free true true (.val 1048576000) (.floatIn 897581056 1065353216),
  row 0x5015 0 .u16 0 1 3 .free true true (.val 0) (.any),
  row 0x5016 0 .u16 0 1 3 .free true true (.val 64) (.between 1 65535),
  row 0x5020 0 .u64 16 1 2 .zero false false (.val 0) (.any),
  row 0x5021 0 .u64 16 1 2 .zero false false (.val 0) (.any),
  row 0x5022 0 .u64 16 1 2 .zero false false (.val 0) (.any),
  row 0x5023 0 .u32 16 1 2 .zero false false (.val 0) (.any),
  row 0x5024 0 .u32 16 1 2 .zero false false (.val 0) (.any),
  row 0x5025 0 .u32 16 1 2 .zero false false (.val 0) (.any),
  row 0x5026 0 .u64 16 1 2 .zero false false (.val 0) (.any),
  row 0x5030 0 .u32 128 1 2 .zero false false (.val 0) (.any),
  row 0x5031 0 .u32 128 1 2 .zero false false (.val 0) (.any),
  row 0x5032 0 .u32 0 1 2 .zero false false (.val 0) (.any),
  row 0x5033 0 .u32 0 1 2 .zero false false (.val 0) (.any),
  row 0x5034 0 .u32 0 1 2 .zero false false (.val 0) (.any),
  row 0x5040 0 .u64 0 1 2 .zero false false (.val 0) (.any),
  row 0x5041 0 .u32 0 1 2 .zero false false (.val 0) (.any),
  row 0x5100 0 (.bytes 32) 0 1 0 .free false false (.val 0) (.any),
  row 0x5200 0 .u64 4096 1 0 .free false false (.val 0) (.any),
  row 0x5300 0 .f32 0 1 3 .free false true (.val 0) (.special),
  row 0x5301 0 .f32 0 1 0 .free false false (.val 0) (.any),
  row 0x5302 0 (.bytes 88) 0 1 0 .free false false (.val 0) (.any),
  row 0x5303 0 .f32 0 1 0 .free false false (.val 1065353216) (.any),
  row 0x5304 0 .u32 0 1 2 .zero false false (.val 0) (.any),
  row 0x5310 0 .u64 4 1 2 .zero false false (.val 0) (.any),
  row 0x5311 0 .u32 4 1 2 .zero false false (.val 0) (.any),
  row 0x5320 0 .f32 4096 1 0 .free false false (.val 0) (.any),
  row 0x5340 0 .u64 0 1 0 .free false false (.val 0) (.any),
  row 0x5341 0 .u64 4 1 0 .free false false (.val 0) (.any)]

/-- Rows 186 to 216 of the dictionary. -/
def dictRows6 : List ObjRow := [
  row 0x5342 0 .u32 0 1 2 .zero false false (.val 0) (.any),
  row 0x5343 0 .u32 0 1 2 .zero false false (.val 0) (.any),
  row 0x5380 0 .u64 4 1 2 .zero false false (.val 0) (.any),
  row 0x5381 0 .u64 4 1 2 .zero false false (.val 0) (.any),
  row 0x5382 0 .u64 4 1 2 .zero false false (.val 0) (.any),
  row 0x5400 0 .u64 0 1 3 .idle false false (.val 0) (.any),
  row 0x5401 0 .u64 6 1 3 .free false true (.val 0) (.any),
  row 0x5402 0 (.bytes 32) 0 1 0 .free false false (.val 0) (.any),
  row 0x5403 0 .u64 0 1 0 .free false false (.val 0) (.any),
  row 0x5404 0 .u32 4 1 2 .zero false false (.val 0) (.any),
  row 0x5405 0 .u16 4 1 0 .free true false (.val 1024) (.any),
  row 0x5406 0 (.bytes 128) 4 1 0 .free true false (.val 0) (.any),
  row 0x6000 0 .u8 32 1 0 .free true false (.val 0) (.any),
  row 0x6001 0 .u64 32 1 2 .zero false false (.val 0) (.any),
  row 0x6002 0 .u64 32 1 2 .zero false false (.val 0) (.any),
  row 0x6003 0 .u64 32 1 2 .zero false false (.val 0) (.any),
  row 0x6004 0 .u32 32 1 2 .zero false false (.val 0) (.any),
  row 0x6005 0 .u32 32 1 2 .zero false false (.val 0) (.any),
  row 0x6006 0 .u64 32 1 2 .zero false false (.val 0) (.any),
  row 0x6007 0 .u64 32 1 2 .zero false false (.val 0) (.any),
  row 0x6008 0 .u32 32 1 2 .zero false false (.val 0) (.any),
  row 0x6009 0 .u64 32 1 2 .zero false false (.val 0) (.any),
  row 0x600A 0 .u32 32 1 2 .zero false false (.val 0) (.any),
  row 0x6010 0 .u32 0 1 0 .free false false (.val 0) (.any),
  row 0x6011 0 .u32 0 1 0 .free false false (.val 0) (.any),
  row 0x6012 0 .u32 0 1 3 .free true true (.val 256) (.between 0 1048576),
  row 0x6013 0 .u32 0 1 3 .free true true (.val 1024) (.between 0 1048576),
  row 0x6014 0 .u8 0 1 3 .free true true (.val 4) (.between 1 15),
  row 0x6015 0 .u16 0 1 3 .free true true (.val 1) (.any),
  row 0x6016 0 .u16 0 1 3 .free true true (.val 16) (.between 1 65535),
  row 0x6017 0 .u16 0 1 0 .free false false (.val 0) (.any)]

/-- Rows 217 to 247 of the dictionary. -/
def dictRows7 : List ObjRow := [
  row 0x6018 0 .u64 0 1 2 .zero false false (.val 0) (.any),
  row 0x6019 0 .u32 0 1 2 .zero false false (.val 0) (.any),
  row 0x601A 0 .u32 0 1 2 .zero false false (.val 0) (.any),
  row 0x601B 0 .u64 0 1 2 .zero false false (.val 0) (.any),
  row 0x601C 0 .u32 0 1 0 .free false false (.val 0) (.any),
  row 0x6020 0 (.bytes 64) 8192 1 0 .free false false (.val 0) (.any),
  row 0x6030 0 (.bytes 32) 0 0 3 .txn false false (.val 0) (.special),
  row 0x7000 0 .u32 0 1 3 .free true false (.val 100) (.between 1 10000),
  row 0x7001 0 .u64 0 1 0 .free false false (.val 0) (.any),
  row 0x7002 0 .u64 0 1 0 .free false false (.val 0) (.any),
  row 0x7003 0 .u16 0 1 0 .free false false (.val 0) (.any),
  row 0x7004 0 .u64 2 1 0 .free false false (.val 0) (.any),
  row 0x7005 0 (.bytes 32) 0 1 0 .free false false (.val 0) (.any),
  row 0x7006 0 .u64 0 1 0 .free false false (.val 0) (.any),
  row 0x7007 0 .u64 0 1 0 .free false false (.val 0) (.any),
  row 0x7008 0 .time 0 1 0 .free false false (.val 0) (.any),
  row 0x7009 0 .u32 0 1 2 .zero false false (.val 0) (.any),
  row 0x7010 0 .u16 0 1 0 .free false false (.val 0) (.any),
  row 0x7011 0 .u16 0 1 0 .free false false (.val 0) (.any),
  row 0x7012 0 (.bytes 32) 16 1 3 .free false false (.val 0) (.any),
  row 0x7013 0 .u16 0 1 3 .txnReady false false (.val 0) (.any),
  row 0x7014 0 .time 0 1 3 .free true false (.val 10000000) (.between 10000000 1000000000),
  row 0x7020 0 .u32 0 1 2 .zero false false (.val 0) (.any),
  row 0x7021 0 .u32 0 1 2 .zero false false (.val 0) (.any),
  row 0x7022 0 .u32 0 1 2 .zero false false (.val 0) (.any),
  row 0x7023 0 .time 0 1 0 .free false false (.val 0) (.any),
  row 0x7024 0 .u32 0 1 0 .free false false (.val 0) (.any),
  row 0x7030 0 .time 0 1 3 .free true false (.val 500000) (.between 100000 10000000),
  row 0x7031 0 .u32 0 1 2 .zero false false (.val 0) (.any),
  row 0x7032 0 .u32 4 1 2 .zero false false (.val 0) (.any),
  row 0x7033 0 .u8 16 1 0 .free true false (.val 0) (.any)]

/-- Rows 248 to 278 of the dictionary. -/
def dictRows8 : List ObjRow := [
  row 0x7040 0 (.bytes 128) 0 1 0 .free false false (.val 0) (.any),
  row 0x7041 0 .u64 0 1 0 .free false false (.val 0) (.any),
  row 0x7042 0 .u64 0 1 0 .free false false (.val 0) (.any),
  row 0x7050 0 .time 0 1 0 .free true false (.val 0) (.any),
  row 0x7051 0 .time 0 1 0 .free true false (.val 0) (.any),
  row 0x7100 0 (.bytes 32) 64 1 0 .free false false (.val 0) (.any),
  row 0x7101 0 .u8 0 1 0 .free false false (.val 0) (.any),
  row 0x7200 0 (.bytes 32) 64 1 0 .free false false (.val 0) (.any),
  row 0x7201 0 .u8 0 1 0 .free false false (.val 0) (.any),
  row 0x7210 0 .u32 20 1 2 .zero false false (.val 0) (.any),
  row 0x8000 0 .f32 0 1 0 .free false false (.val 0) (.any),
  row 0x8001 0 .f32 0 1 0 .free false false (.val 0) (.any),
  row 0x8002 0 .f32 0 1 0 .free false false (.val 0) (.any),
  row 0x8003 0 .u64 0 1 0 .free false false (.val 0) (.any),
  row 0x8004 0 .f32 0 1 3 .free true true (.val 1159888896) (.floatIn 1150681088 1159888896),
  row 0x8010 0 .f32 6 1 0 .free false false (.val 0) (.any),
  row 0x8011 0 .f32 0 1 3 .free true false (.val 1119748096) (.floatIn 1116471296 1120403456),
  row 0x8012 0 .f32 0 1 0 .free false false (.val 1121058816) (.any),
  row 0x8013 0 .u32 0 1 2 .zero false false (.val 0) (.any),
  row 0x8020 0 .u8 3 1 3 .free true true (.val 8) (.between 1 80),
  row 0x8030 0 .u16 0 1 0 .free false false (.val 0) (.any),
  row 0x8031 0 .u8 0 1 0 .free false false (.val 0) (.any),
  row 0x8040 0 .u8 0 1 3 .free false false (.val 0) (.between 1 1),
  row 0x8041 0 .u8 0 1 0 .free false false (.val 0) (.any),
  row 0x9000 0 .u32 0 1 0 .free false false (.fixed) (.any),
  row 0x9001 0 .u64 0 1 0 .free false false (.fixed) (.any),
  row 0x9002 0 (.bytes 32) 0 1 0 .free false false (.fixed) (.any),
  row 0x9003 0 (.bytes 2048) 3 1 0 .free false false (.fixed) (.any),
  row 0x9004 0 (.bytes 65) 0 1 0 .free false false (.fixed) (.any),
  row 0x9005 0 (.bytes 16384) 0 1 0 .free false false (.val 0) (.any),
  row 0x9006 0 .u32 0 1 0 .free false false (.val 0) (.any)]

/-- Rows 279 to 309 of the dictionary. -/
def dictRows9 : List ObjRow := [
  row 0x9010 0 (.bytes 64) 2 1 0 .free false false (.fixed) (.any),
  row 0x9011 0 .u8 0 1 0 .free false false (.fixed) (.any),
  row 0x9012 0 (.bytes 1048576) 64 0 3 .txnMaint false false (.val 0) (.any),
  row 0x9013 0 .u8 0 1 3 .maint false false (.val 0) (.between 1 2),
  row 0x9014 0 .u8 0 1 0 .free false false (.val 0) (.any),
  row 0xA001 0 (.bytes 32) 16 1 0 .free false false (.val 0) (.any),
  row 0xA002 0 (.bytes 4194304) 16 1 0 .free false false (.val 0) (.any),
  row 0xA010 0 .u8 0 1 3 .free true true (.val 0) (.between 0 1),
  row 0xA010 1 .time 0 1 3 .free true false (.val 10000000) (.between 1000000 1000000000),
  row 0xA011 0 .u8 0 1 3 .free true true (.val 0) (.between 0 1),
  row 0xA011 1 .time 0 1 3 .free true false (.val 10000000) (.between 1000000 1000000000),
  row 0xA012 0 .u8 0 1 3 .free true true (.val 0) (.between 0 1),
  row 0xA012 1 .time 0 1 3 .free true false (.val 10000000) (.between 1000000 1000000000),
  row 0xA013 0 .u8 0 1 3 .free true true (.val 0) (.between 0 1),
  row 0xA013 1 .time 0 1 3 .free true false (.val 10000000) (.between 1000000 1000000000),
  row 0xA014 0 .u8 0 1 3 .free true true (.val 0) (.between 0 1),
  row 0xA014 1 .time 0 1 3 .free true false (.val 10000000) (.between 1000000 1000000000),
  row 0xA015 0 .u8 0 1 3 .free true false (.val 0) (.between 0 1),
  row 0xA015 1 .time 0 1 3 .free true false (.val 10000000) (.between 1000000 1000000000),
  row 0xA016 0 .u8 0 1 3 .free true false (.val 0) (.between 0 1),
  row 0xA016 1 .time 0 1 3 .free true false (.val 10000000) (.between 1000000 1000000000),
  row 0xA017 0 .u8 0 1 3 .free true true (.val 0) (.between 0 1),
  row 0xA017 1 .time 0 1 3 .free true false (.val 10000000) (.between 1000000 1000000000),
  row 0xA018 0 .u8 0 1 3 .free true true (.val 0) (.between 0 1),
  row 0xA018 1 .time 0 1 3 .free true false (.val 10000000) (.between 1000000 1000000000),
  row 0xA019 0 .u8 0 1 3 .free true false (.val 0) (.between 0 1),
  row 0xA019 1 .time 0 1 3 .free true false (.val 10000000) (.between 1000000 1000000000),
  row 0xA01A 0 .u8 0 1 3 .free true false (.val 0) (.between 0 1),
  row 0xA01A 1 .time 0 1 3 .free true false (.val 10000000) (.between 1000000 1000000000),
  row 0xA01B 0 .u8 0 1 3 .free true false (.val 0) (.between 0 1),
  row 0xA01B 1 .time 0 1 3 .free true false (.val 10000000) (.between 1000000 1000000000)]

/-- The dictionary: the tables that R486 names, in ascending order of index and subindex. -/
def dictionary : List ObjRow :=
  dictRows0 ++ dictRows1 ++ dictRows2 ++ dictRows3 ++ dictRows4 ++ dictRows5 ++ dictRows6 ++ dictRows7 ++ dictRows8 ++ dictRows9

/-- The row of an index and subindex, if the dictionary has one (R482). An array object stands at subindex 0. -/
def findRow (idx sub : Nat) : Option ObjRow :=
  dictionary.find? fun r => r.idx == idx && r.sub == sub

/-- The number of elements a row has: one for a scalar. -/
def ObjRow.count (r : ObjRow) : Nat := if r.elems = 0 then 1 else r.elems

/-- The type that a code names (R481), of n bytes when it is BYTES. -/
def ObjTy.ofCode (c n : Nat) : ObjTy :=
  match c with
  | 1 => .bool | 2 => .u8 | 3 => .u16 | 4 => .u32 | 5 => .u64 | 6 => .i32 | 7 => .f32 | 8 => .time | 9 => .addr6 | 11 => .str
  | _ => .bytes n

/-- The condition that FLAGS of a directory entry gives (R485). -/
def WriteCond.ofFlags (f : Nat) : WriteCond :=
  if f / 16 % 2 = 1 then .zero else if f / 32 % 2 = 1 then .idle
  else if f / 8 % 2 = 1 then .txnReady else if f / 2 % 2 = 1 then .txn else .free

/-- The row of a vendor-test object as the directory gives it (R497). -/
def vendorRow (e : Config.VendorEntry) : ObjRow :=
  row e.idx e.sub (.ofCode e.type e.size) e.elems e.rd e.wr (.ofFlags e.flags) (e.flags % 2 == 1) (e.flags / 4 % 2 == 1) (.val 0) .any

/-- The vendor-test objects of the firmware release, in 0xF000 to 0xFFFF (R497). -/
def vendorRows : List ObjRow := (Config.vendorObjects.map vendorRow).filter fun r => decide (0xF000 ≤ r.idx ∧ r.idx < 0x10000)

/-- The row of an index and subindex, of the tables or of the vendor-test objects (R482, R497). -/
def objectRow (idx sub : Nat) : Option ObjRow :=
  if idx < 0xF000 then findRow idx sub else vendorRows.find? fun r => r.idx == idx && r.sub == sub

/-- FLAGS of a directory entry (R485). -/
def ObjRow.flags (r : ObjRow) : Nat :=
  (if r.retained then 1 else 0)
  + (if r.cond = .txn ∨ r.cond = .txnReady ∨ r.cond = .txnRunning ∨ r.cond = .txnMaint then 2 else 0)
  + (if r.nextBoundary then 4 else 0)
  + (if r.cond = .txnReady then 8 else 0)
  + (if r.cond = .zero then 16 else 0)
  + (if r.cond = .idle then 32 else 0)

/-- A directory entry, as the number its 16 little-endian bytes spell (R485). -/
def ObjRow.entry (r : ObjRow) : Nat :=
  r.idx + r.sub * 2 ^ 16 + r.ty.code * 2 ^ 24 + r.elems * 2 ^ 32 + r.ty.size * 2 ^ 64 + r.rd * 2 ^ 96 + r.wr * 2 ^ 104
  + r.flags * 2 ^ 112

/-- TYPE_SIZE of R485. -/
def typeSize (t : Nat) : Nat :=
  match t with
  | 1 => 1 | 2 => 1 | 3 => 2 | 4 => 4 | 5 => 8 | 6 => 4 | 7 => 4 | 8 => 8 | 9 => 16 | _ => 0

/-- A lane or column fuse map (R112, R143): four entries whose VALID bit and DEFECT, below `n`, the fuses hold; the reserved bits
are 0. -/
def repairMap (n v : Nat) : Nat :=
  ((List.range 4).map fun e =>
    let x := v / 2 ^ (16 * e) % 2 ^ 16
    (x % n + x / 2 ^ 15 * 2 ^ 15) * 2 ^ (16 * e)).sum

/-- A value fixed at manufacture or by the firmware release, with the limits that the manual sets it. -/
def fixedValue (r : ObjRow) (e : Nat) : Nat :=
  let v := Config.fuseValue (objKey r.idx r.sub e) % 2 ^ (8 * r.ty.size)
  match r.idx with
  | 0x2020 => repairMap 260 v
  | 0x2021 => repairMap 260 v
  | 0x2022 => repairMap 516 v
  | 0x2023 => repairMap 260 v
  | _ => v

/-- What element e of the object reads as while nothing has written it. -/
def ObjRow.default (r : ObjRow) (e : Nat) : Nat :=
  match r.dflt with
  | .val n => n
  | .typeSize => typeSize e
  | .physState => if e % 34 < 32 then 0 else 1
  | .coreMap => 34 * (e / 32) + e % 32
  | .dirCount => dictionary.length + vendorRows.length
  | .directory =>
    match dictionary[e]? with
    | some q => q.entry
    | none => (vendorRows[e - dictionary.length]?.map ObjRow.entry).getD 0
  | .fixed => fixedValue r e

/-- What a key reads as while nothing has written it; a key outside the dictionary reads 0. -/
def keyDefault (k : Nat) : Nat :=
  match findRow (keyIdx k) (keySub k) with
  | some r => r.default (keyElem k)
  | none => 0

/-- Bytes of a value of the key's object. -/
def keySize (k : Nat) : Nat :=
  match findRow (keyIdx k) (keySub k) with
  | some r => r.ty.size
  | none => 0

/-- A value on the wire from the value as stored (R463). -/
def ObjTy.toWire (t : ObjTy) (v : Nat) : List Byte :=
  if t.swaps then beBytes t.size v else leBytes t.size v

/-- The stored value from its bytes on the wire (R463). -/
def ObjTy.ofWire (t : ObjTy) (b : List Byte) : Nat :=
  if t.swaps then ofBE b else ofLE b

/-- Order 5 of R558: whether a value lies in the object's stated range and set of codes. Each F32 value must be finite
(R481). -/
def ObjRange.admits (r : ObjRange) (ty : ObjTy) (v : Nat) : Bool :=
  (ty != .f32 || v / 2 ^ 23 % 256 < 255) &&
  match r with
  | .any => true
  | .between lo hi => decide (lo ≤ v ∧ v ≤ hi)
  | .oneOf l => l.contains v
  | .multiple n => v % n == 0
  | .floatIn lo hi => decide (lo ≤ v ∧ v ≤ hi)
  | .special => true

end Sys2Proof.Machine
end

