-- ==== Sys2Proof/Machine/State.lean ====
section
/-!
DEFINITION. The state of the module as plain data: every register, table, queue, counter, mode and pin that the manual
gives it, and the queue of waiting commands. Dictionary registers whose only home is the dictionary stand in `regs`.
-/
namespace Sys2Proof.Machine

/-! ### Device state and job mode (R7) -/

/-- The device states of R7. -/
inductive DeviceState where
  | off | asleep | ready | running | recovering | maint | faulted
  deriving DecidableEq, Repr

/-- DEVICE_STATE codes (R7). -/
def DeviceState.code : DeviceState → Nat
  | .off => 0 | .asleep => 1 | .ready => 2 | .running => 3 | .recovering => 4 | .maint => 5 | .faulted => 6

/-- The job modes of R7. -/
inductive JobMode where
  | idle | train | serve
  deriving DecidableEq, Repr

/-- JOB_MODE codes (R7). -/
def JobMode.code : JobMode → Nat
  | .idle => 0 | .train => 1 | .serve => 2

/-! ### A logical core (R282 to R320) -/

/-- A 256-byte request of one operation (R303). `held` says that the bank-group cap has already counted it (R305). -/
structure Request where
  op : Nat
  unit : Queue
  addr : Nat
  write : Bool
  held : Bool := false
  deriving DecidableEq, Repr

/-- A request slot in use (R304): the request and the fabric clock at which it took the slot. -/
structure Slot where
  req : Request
  since : Nat
  deriving DecidableEq, Repr

/-- An operation issued and not complete (R302). `tiles` counts the conversion tiles that Spar has not yet accepted, or
the tiles still to run; `done` says that its results are written. -/
structure Flight where
  idx : Nat
  word : BitVec 256
  queue : Queue
  tiles : Nat := 0
  done : Bool := false
  deriving DecidableEq, Repr

/-- A prefetch guard (R311, R312): the prefetch's stream index, its consumer's, the range, the buffer and the address of
the first stale write. -/
structure Guard where
  op : Nat
  consumer : Nat
  base : Nat
  len : Nat
  buffer : Nat
  stale : Option Nat := none
  deriving DecidableEq, Repr

/-- The first NaN and the first infinity of a split of a tile in raster order (R68, R132). -/
structure FlagReg where
  nan : Option (Nat × Nat) := none
  inf : Option (Nat × Nat) := none
  deriving DecidableEq, Repr

/-- A bank of an array's cells (R80 to R82, R116): the operation and tile whose stationary operand it holds, the operand
of each split, and memory as the load read it (log 116: DESIGN CHOICE). -/
structure CellBank where
  idx : Nat
  tile : Nat
  ops : List Desc
  mem : Mem
  deriving DecidableEq, Repr

/-- One tile of an array operation under way (R82, R87, R105): the operation, the tile's number in the operation's
order, the flag registers of its splits, whether its last verdict has returned, how many verdicts have failed, whether
skipping is on, the rows removed, the block whose prediction missed, and the rung at which it runs (R161). -/
structure TileRun where
  idx : Nat
  word : BitVec 256
  tile : Nat := 0
  flags : List FlagReg := []
  verdict : Bool := false
  /-- the last tile row that was fed -/
  lastRow : Nat := 0
  fails : Nat := 0
  /-- REED_ZERO_SKIP as it stood when the tile issued, until a miss turns skipping off (R104, R113) -/
  skip : Bool := true
  /-- memory as it stood when the tile issued: a repeat predicts as the first run did (R106) -/
  maps : Mem := []
  removed : Nat := 0
  miss : Option (Nat × Nat) := none
  rung : Nat := 0
  /-- streamed rows come from the fallback staging region (R164) -/
  staged : Bool := false
  /-- the first tile is fed as a transposing copy completes its rows (R126) -/
  waiting : Bool := false
  /-- ac of feed done while rows were staged, and ac that a row holds MUL (R119, R122, R126) -/
  fedAc : Nat := 0
  perRow : Nat := 1
  /-- the splits that the flag registers belong to, when not 0, 1, … in order (R132) -/
  halves : List Nat := []
  /-- status words already written by the operation (R132) -/
  words : Nat := 0
  /-- Slate's work is borrowed: a fallback repeat (1) or a shadow-check tile (2), R136; 0 is an own operation -/
  borrowed : Nat := 0
  deriving DecidableEq, Repr

/-- Current smoothing of one array (R109 to R111): the activity of the last window, as the sum over its ac of the lanes
in use in 1/131,072 of all, whether its fast clock runs, whether straw rows ramp it up before a phase or down to a stop. -/
structure Activity where
  last : Nat := 0
  on : Bool := false
  up : Bool := false
  down : Bool := false
  idleSince : Nat := 0
  deriving DecidableEq, Repr

/-- The state of one logical core (R282 to R320). -/
structure CoreState where
  /-- the 256 tokens (R295) -/
  tokens : BitVec 256 := 0#256
  /-- every operation below this stream index has issued -/
  base : Nat := 0
  /-- operations at or above `base` that have issued out of order (R283) -/
  ahead : List Nat := []
  /-- operations issued and not complete (R302) -/
  flight : List Flight := []
  /-- an operation faulted: nothing further issues in the step (R294) -/
  halted : Bool := false
  /-- the step-close mark has retired (R28) -/
  closed : Bool := false
  /-- requests that wait for a slot, in order (R304) -/
  reqs : List Request := []
  /-- slots in use, at most 64 (R303) -/
  slots : List Slot := []
  /-- the unit that the slot allocator granted last (R304) -/
  lastUnit : Nat := 0
  /-- cache windows: base and length of each registered descriptor (R309) -/
  windows : List (Nat × Nat) := []
  /-- cached lines per set, most recently used first: (set, tags) (R308) -/
  lines : List (Nat × List Nat) := []
  /-- prefetch guards (R311) -/
  guards : List Guard := []
  /-- Reed's tile under way (R82) -/
  reed : Option TileRun := none
  /-- Reed's active and shadow banks (R80, R82) -/
  reedActive : Option CellBank := none
  reedShadow : Option CellBank := none
  /-- Slate's tile under way (R117) -/
  slate : Option TileRun := none
  /-- Slate's active and shadow banks (R116, R117) -/
  slateActive : Option CellBank := none
  slateShadow : Option CellBank := none
  /-- zero maps that are valid, by the address of the map (R102) -/
  zeroMaps : List Nat := []
  /-- staged rows published by transposing copies: staging region address and rows (R126) -/
  published : List (Nat × Nat) := []
  /-- fallback repeats waiting for Slate: Reed tiles that reached rung 4 (R136) -/
  repeats : List TileRun := []
  reedAct : Activity := {}
  slateAct : Activity := {}
  /-- the core's arithmetic clock runs (R318) -/
  clockOn : Bool := false
  /-- fabric clock at which a token last changed or the operation that is now the oldest became so (R300, log 129: DEDUCED) -/
  watch : Nat := 0
  /-- the physical core failed twice on a tile and the logical core is moving to another (R107, R429) -/
  moving : Bool := false
  /-- phase of the last phase-open mark issued, if one is open (R316) -/
  openPhase : Option Nat := none
  /-- a time-shared core that is switched out (R410) -/
  switchedOut : Bool := false
  /-- fabric clock of the last switch-in (R410) -/
  switchedIn : Nat := 0
  deriving DecidableEq, Repr
/-! ### Trackers, layers and weight versions (R148 to R210) -/

/-- Rung steps of one logical core, layer and micro-batch (R166). -/
structure RungCount where
  core : Nat
  layer : Nat
  mb : Nat
  steps : Nat := 0
  highest : Nat := 0
  escalated : Bool := false
  deriving DecidableEq, Repr

/-- A conversion tile that Spar has not accepted (R146, R163); the tiles of a conversion start one after another (log 124:
DEDUCED). -/
structure ConvTile where
  core : Nat
  op : Nat
  word : BitVec 256
  cluster : Nat
  row0 : Nat
  rowN : Nat
  lane0 : Nat
  laneN : Nat
  started : Bool := false
  rung : Nat := 0
  measured : Bool := false
  /-- the layer and micro-batch that the ladder serves; none for conversions off the ladder (R167, R206) -/
  layer : Option (Nat × Nat) := none
  /-- counts of the last pass -/
  ovf : Nat := 0
  spill : Nat := 0
  nan : Bool := false
  deriving DecidableEq, Repr

/-- A conversion tile that Spar accepted: the tensor's address, the rows and lanes, the rung and the tensor scale of the
pass that stands (R163). Consumers read the tile in the format of its rung (log 23: DEDUCED). -/
structure AccTile where
  base : Nat
  row0 : Nat
  rowN : Nat
  lane0 : Nat
  laneN : Nat
  rung : Nat
  format : Nat
  tscale : W32
  deriving DecidableEq, Repr

/-- A shadow-check sample (R171 to R173). -/
structure Sample where
  step : Nat
  layer : Nat
  mb : Nat
  core : Nat
  chain : Nat
  band : Nat
  /-- the W16 codes of the band's source rows, captured when Eaves converts them (R172) -/
  rows : Option (List (List Nat)) := none
  /-- the narrow and the shadow result of the band, once captured -/
  narrow : Option (List W32) := none
  shadow : Option (List W32) := none
  /-- shadow-check tiles of the sample that have run to their end (R136, R172) -/
  ran : Nat := 0
  shadowDone : Bool := false
  compared : Bool := false
  disagree : Bool := false
  deriving DecidableEq, Repr

/-- The states of a version slot (R203). -/
inductive SlotState where
  | free | filling | current | held
  deriving DecidableEq, Repr

/-- STATE codes of a version slot (R203). -/
def SlotState.code : SlotState → Nat
  | .free => 0 | .filling => 1 | .current => 2 | .held => 3

/-- A weight-version slot (R202, R203). -/
structure VSlot where
  state : SlotState := .free
  refs : Nat := 0
  version : Nat := 0
  base : Nat := 0
  deriving DecidableEq, Repr

/-- Norm flags and value of the step (R186 to R190). -/
structure NormState where
  known : Bool := false
  a : Nat := 0
  nan : Bool := false
  inf : Bool := false
  g : W32 := 0#32
  factor : W32 := w32One
  skipped : Bool := false
  deriving DecidableEq, Repr

/-- A moment tensor named in the step, for the update of its record at the last operation (R198): the record's address,
whether the block codes so far were all low, and the blocks at 0xFF that saturated. -/
structure MomentUse where
  record : Nat
  hi : Nat := 0
  low : Bool := true
  left : Nat := 0
  deriving DecidableEq, Repr

/-- Numerics control (R145 to R218). -/
structure NumState where
  /-- per converter cluster 4d + c, the trackers: what stands outside their records, and the records as last stored (R148) -/
  trackers : List (List Tracker) := []
  /-- per converter cluster, the offset of its tracker table in the die's Thatch (R148) -/
  trackerTables : List Nat := []
  layers : List Layer := []
  slots : List VSlot := []
  rungs : List RungCount := []
  tiles : List ConvTile := []
  accepted : List AccTile := []
  samples : List Sample := []
  norm : NormState := {}
  /-- hyperparameter records already advanced in the step (R195) -/
  hyperDone : List Nat := []
  moments : List MomentUse := []
  /-- micro-batches of a step (R171) -/
  microBatches : Nat := 1
  /-- shadow region of each logical core and the bytes of one sample in it (R172, log 121: DESIGN CHOICE) -/
  shadowAreas : List Nat := []
  shadowSlot : Nat := 0
  /-- trackers' tensors converted again in measured mode are not on the ladder (R206): weight trackers by cluster and index -/
  weightTrackers : List (Nat × Nat) := []
  deriving DecidableEq, Repr

/-! ### Quince and the key-value memory (R242 to R281) -/

/-- An attention or sampling operation on a pipeline (R242): the fed key blocks in order (R254), the one whose verdicts
are awaited, the bank swaps made, the failed verdicts of the block, the bad rows (R250), and the attention mass gathered
for the die's mass plane (R274). -/
structure QRun where
  pipe : Nat
  core : Nat
  idx : Nat
  word : BitVec 256
  sampling : Bool := false
  fed : List Nat := []
  pos : Nat := 0
  swaps : Nat := 0
  fails : Nat := 0
  bad : List Nat := []
  mass : List (Nat × Nat) := []
  deriving DecidableEq, Repr

/-- A token that a SAMPLE operation of the step wrote (R279, R398): sequence entry, position, token. -/
structure Sampled where
  entry : Nat
  pos : Nat
  token : Nat
  deriving DecidableEq, Repr

/-- Quince's pipelines and what the serving image says of the key-value memory (R262 to R271). Sequence entries, page
lists, page words, the free list, frames, records and mass planes stand in the dictionary and in memory. -/
structure KvState where
  /-- operations on pipelines (R242) -/
  runs : List QRun := []
  /-- operations moved off a removed pipeline that wait for another (R259) -/
  waiting : List QRun := []
  /-- address of the page-word table (R264) -/
  pageWords : Nat := 0
  /-- address of the free list (R264, R265) -/
  freeList : Nat := 0
  /-- offset of the mass plane in each Thatch (R274) -/
  massPlane : Nat := 0
  /-- offset of the key-value layer records in Thatch (R262) -/
  layerRecords : Nat := 0
  /-- offset of the sampling records in Thatch (R278) -/
  sampleRecords : Nat := 0
  /-- offset of the sequence table in each Thatch, when a serving image is loaded (R267) -/
  seqTable : Option Nat := none
  /-- address of the page-list area (R396) -/
  pageLists : Nat := 0
  /-- address of the request region (R397) and bytes of one entry's part -/
  requestRegion : Nat := 0
  requestSlot : Nat := 0
  /-- regions of the layer and sampling records and of the frame pools, which securing holds (R437) -/
  secured : List (Nat × Nat) := []
  /-- sequence entries that the running step runs (R269, R271) -/
  ran : List Nat := []
  /-- tokens sampled in the running step (R398) -/
  sampled : List Sampled := []
  deriving DecidableEq, Repr
/-! ### The schedule image and the job (R282, R412, R490, R559) -/

/-- The sum of the quanta that one origin has requested for a phase (R419). -/
structure StretchSum where
  step : Nat
  phase : Nat
  origin : Nat
  quanta : Nat
  deriving DecidableEq, Repr

/-- The job (R11, R412 to R424). -/
structure JobState where
  /-- per logical core, the offset of its schedule stream in the Thatch of its die and the operations in it; empty when no image
  is loaded (R282) -/
  streams : List (Nat × Nat) := []
  /-- per logical core, the offset of its descriptor table in local SRAM and its length (R290) -/
  tables : List (Nat × Nat) := []
  /-- the windows that the image maps (R559) -/
  windows : List (Nat × Nat) := []
  /-- swap area per logical core (R409) -/
  swapAreas : List Nat := []
  opInfo : List OpInfo := []
  /-- slices of whole tensors that operations draw for (R225) -/
  slices : List Slice := []
  /-- device address of the hyperparameter records in Thatch (R193) -/
  hyperBase : Nat := 0
  hyperCount : Nat := 0
  phases : List PhaseEntry := []
  /-- the job seed taken at image load (R236) -/
  seed : Nat := 0
  /-- the running step -/
  step : Nat := 0
  /-- version that was CURRENT when the step began (R204) -/
  stepVersion : Nat := 0
  /-- quanta applied to each phase of the running step, and to every phase of later steps (R414, R419) -/
  shifts : List Nat := []
  nextShift : Nat := 0
  sums : List StretchSum := []
  /-- quanta applied while the running step ran (R424) -/
  stepQuanta : Nat := 0
  /-- phases of the running step that have opened on the module -/
  opened : List Nat := []
  /-- SIGNALs issued and not yet registered at their target: target core and token, in issue order (R298) -/
  signals : List (Nat × Nat) := []
  /-- a schedule fault has stopped a core in this step (R294); cleared by rollback -/
  schedFault : Bool := false
  /-- a host-assisted pause or the data fetch holds the boundary (R421) -/
  held : Bool := false
  /-- where the boundary of the running step stands: 0 not reached; 1 waiting for the pauses before the log record; 2
  log record made, waiting for the pauses after it and for the log (R28, R29, R176) -/
  stage : Nat := 0
  /-- tokens that the serving schedule appends to sequences in the next step: entry and count (R269, log 36: DESIGN CHOICE) -/
  plan : List (Nat × Nat) := []
  deriving DecidableEq, Repr
/-! ### Dunrel sessions, transactions and pauses (R459 to R477) -/

/-- A response kept for a session (R466), or a message to send: the header fields of R463 that the module sets, and the
payload. -/
structure DMsg where
  type : Nat
  more : Bool := false
  code : Nat := 0
  reqId : Nat := 0
  index : Nat := 0
  sub : Nat := 0
  txn : Nat := 0
  element : Nat := 0
  count : Nat := 1
  offset : Nat := 0
  total : Nat := 0
  payload : List Byte := []
  deriving DecidableEq, Repr

/-- An event that waits for its acknowledgement (R467): number, code, record, sends so far and the fabric clock of the
last send. -/
structure PendEvent where
  num : Nat
  record : List Byte
  sends : Nat
  last : Nat
  deriving DecidableEq, Repr

/-- A session (R460, R462): access level 1 to 4, peer address, key hash, event mask, next event number, events waiting,
kept responses (newest first), and the fabric clock of the last record. -/
structure Session where
  level : Nat
  peer : Nat := 0
  key : List Byte := []
  mask : Nat := 0
  nextEvent : Nat := 1
  unacked : List PendEvent := []
  kept : List (Nat × DMsg) := []
  last : Nat := 0
  /-- SESSION_IDLE as it stood when the session began (R480) -/
  idle : Nat := 60000000000
  deriving DecidableEq, Repr

/-- A staged value of one element: TOTAL, and the staged segments, newest first (R469). -/
structure StagedVal where
  elem : Nat
  total : Nat
  segs : List (Nat × List Byte)
  deriving DecidableEq, Repr

/-- An object write: the WRITE messages of one transaction that name one INDEX and SUB (R469). -/
structure ObjWrite where
  index : Nat
  sub : Nat
  vals : List StagedVal
  deriving DecidableEq, Repr

/-- The states of a transaction other than FREE (R469). `due` waits for its commit point; `deferred since` waits for a
pin since that fabric clock; `checking` is an image command whose checks run (R490). -/
inductive TxnState where
  | open
  | due
  | deferred (since : Nat)
  | checking
  deriving DecidableEq, Repr

/-- A transaction (R469). `snap` holds the dictionary as it stood at TXN_OPEN (R483): registers and typed objects by
key, and memory. `once` marks a transaction formed by one request of its own. -/
structure Txn where
  handle : Nat
  sess : Sess
  state : TxnState := .open
  writes : List ObjWrite := []
  last : Nat := 0
  reqId : Nat := 0
  snapRegs : List (Nat × Nat) := []
  snapMem : Mem := []
  once : Bool := false
  /-- order in which its TXN_COMMIT reached Ligger (R473) -/
  order : Nat := 0
  /-- the image that a SWAP has checked (R490) -/
  image : Option Image := none
  deriving DecidableEq, Repr

/-- The states of a pause entry (R476). -/
inductive PauseState where
  | waiting | decided | timedOut
  deriving DecidableEq, Repr

/-- A host-assisted pause (R476). `decision` gathers the segments of a decision that is arriving (R477). -/
structure Pause where
  slot : Nat
  id : Nat
  selector : Nat
  state : PauseState := .waiting
  step : Nat
  deadline : Nat
  report : List Byte
  decision : List (Nat × List Byte) := []
  deriving DecidableEq, Repr

/-- Dunrel and Ligger (R459 to R480). -/
structure DunrelState where
  sessions : Vector (Option Session) 16 := Vector.replicate 16 none
  txns : List Txn := []
  pauses : List Pause := []
  nextPause : Nat := 1
  nextOrder : Nat := 1
  deriving DecidableEq, Repr
/-! ### Module memory's condition (R323 to R351) -/

/-- What module memory holds beside its contents (R334 to R350). -/
structure RasState where
  /-- granules marked suspect by a divergence (R344) -/
  suspect : List Nat := []
  /-- granules lost in a hard retirement (R349) -/
  lost : List Nat := []
  /-- granules whose home was since written under another address (R328, R333) -/
  clobbered : List Nat := []
  /-- granules last written in DIE_LOCAL mode (R328) -/
  localMode : List Nat := []
  /-- codewords with stored symbols in error: address, and (stored symbol, error value) (R334, R337) -/
  bad : List (Nat × List (Nat × Byte)) := []
  /-- scrub position of each channel (R326, R339) -/
  scrubAt : List Nat := List.replicate 128 0
  /-- corrected codewords of each channel's running pass: (channel, count) (R341) -/
  passCe : List (Nat × Nat) := []
  /-- of those, the ones whose corrected symbols all lie on one DQ: (channel, 12 × sub-channel + DQ, count) (R336) -/
  dqHits : List (Nat × Nat × Nat) := []
  /-- uncorrectable granules: (channel, address, fabric clock) (R347) -/
  ues : List (Nat × Nat × Nat) := []
  /-- channels declared failed and not yet retired (R347) -/
  failing : List Nat := []
  /-- channels to retire by copy at the next boundary (R341) -/
  retireNext : List Nat := []
  /-- channels kept in service until the end of their next pass (R341) -/
  kept : List Nat := []
  /-- channels that the copier moves (R350) -/
  copying : List Nat := []
  /-- channels retired hard whose mirrored granules are not yet rebuilt (R349) -/
  rebuilding : List Nat := []
  /-- Sloe lanes whose evaluation under way mismatched once: 1,024 × die + lane (R233) -/
  laneFails : List Nat := []
  /-- engines whose last check failed (R428) -/
  engineFails : List Nat := []
  /-- per die-to-die link: 0 to 3 from die d to the die that follows it, 4 to 7 from die d to the hub die; replays counted,
  spare lanes used, and the links that are lost (R24, R26, R430) -/
  linkReplays : List Nat := List.replicate 8 0
  linkLanes : List Nat := List.replicate 8 0
  linksLost : List Nat := []
  deriving DecidableEq, Repr

/-! ### The port (R355 to R402) -/

/-- A DATA packet of a context (R366, R369). -/
structure Packet where
  psn : Nat
  ext : DataExt
  deriving DecidableEq, Repr

/-- A context (R378). Plan contexts come from the image, endpoint contexts open and close. -/
structure Ctx where
  num : Nat
  plan : Bool := true
  peer : Peer
  /-- request kind of an endpoint context: 2 fetch, 4 serving -/
  kind : Nat := 0
  /-- initial credit granted to the peer, and by the peer, in units (R375) -/
  credit : Nat
  peerCredit : Nat := 0
  /-- open (R378); a plan context that a NAK or CLOSE closed opens again when the epoch changes (R385) -/
  isOpen : Bool := true
  path : Nat := 0
  /-- the peer's context -/
  peerCtx : Nat := 0
  nonce : Nat := 0
  /-- OPEN sent and not answered; how often it was sent (R379) -/
  opening : Bool := false
  opens : Nat := 0
  /-- receiving: next PSN, units received, limit granted, limit and count at the last ACK, first unacknowledged packet,
  last NAK for a gap -/
  nextPsn : Nat := 0
  recvUnits : Nat := 0
  limit : Nat := 0
  ackedLimit : Nat := 0
  unacked : Nat := 0
  unackedAt : Nat := 0
  nakAt : Option Nat := none
  /-- the message that is arriving, and collective payload held in the receive buffer (R370, R371) -/
  arriving : Option DataExt := none
  held : List DataExt := []
  /-- sending: next PSN and message (R369) -/
  sendPsn : Nat := 0
  sendMsg : Nat := 0
  /-- the INIT_PSN that an OPEN or OPEN_ACK of the module announced (R378) -/
  initPsn : Nat := 0
  /-- the peer's limit, units sent, packets waiting and packets unacknowledged, timeouts in a row, since when the oldest
  waits (R374, R376) -/
  peerLimit : Nat := 0
  sentUnits : Nat := 0
  queue : List Packet := []
  outstanding : List Packet := []
  timeouts : Nat := 0
  since : Nat := 0
  deriving DecidableEq, Repr

/-- What a received part of a collective does to the run (R390): added to the chunks, put in their place, kept for the
tree sum, added as a norm accumulator, or only awaited. -/
inductive CollOp where
  | add | put | norm | await
  | keep (member : Nat)
  deriving DecidableEq, Repr

/-- One exchange of a collective (R390): the context, the chunks sent, the chunks and bytes received. -/
structure CollStep where
  ctx : Nat
  send : List Nat := []
  recv : List Nat := []
  bytes : Nat := 0
  op : CollOp := .put
  deriving DecidableEq, Repr

/-- A collective operation under way (R388 to R391): its plan entry, its chunks as they stand, the exchanges that remain,
whether the first of them has sent its part, and what it has received of it, contributions kept, and whether its result
is written. -/
structure CollRun where
  core : Nat
  idx : Nat
  plan : Nat
  kind : Nat
  self : Nat
  msgBytes : Nat
  chunks : List (List Byte)
  steps : List CollStep
  started : Bool := false
  got : List Byte := []
  parts : List (Nat × List Byte) := []
  dst : Option Desc
  norm : Option Desc
  written : Bool := false
  deriving DecidableEq, Repr

/-- A message that is whole (R370): the context's peer, its kind and its bytes, its place in the order of completion, and the first
step to which a serving request of it can be admitted (R397). -/
structure InMsg where
  ctx : Nat
  src : Peer
  kind : Nat
  bytes : List Byte
  serial : Nat := 0
  forStep : Nat := 0
  deriving DecidableEq, Repr

/-- A shard of the next step that is being fetched (R394): its fetch-table entry, the endpoint now used, requests sent,
failures on that endpoint, the fabric clock and number of the last request, the last code, and whether it is fetched. -/
structure Fetch where
  entry : Nat
  endpoint : Nat
  sent : Nat := 0
  fails : Nat := 0
  at_ : Nat := 0
  reqId : Nat := 0
  code : Nat := 0xFF
  done : Bool := false
  deriving DecidableEq, Repr

/-- A sequence that a serving request admitted (R396, R398): entry, identifier, front-end context, tokens to generate
and tokens generated. -/
structure Served where
  entry : Nat
  id : Nat
  ctx : Nat
  maxNew : Nat
  made : Nat := 0
  deriving DecidableEq, Repr

/-- A serving request that waits for a boundary (R397). -/
structure ServeReq where
  ctx : Nat
  bytes : List Byte
  serial : Nat := 0
  deriving DecidableEq, Repr

/-- A watched rank (R381): the fabric clock of its last heartbeat on each path. -/
structure Watch where
  rank : Nat
  last : Nat × Nat
  deriving DecidableEq, Repr

/-- The port, its transport and PTP. -/
structure NetState where
  /-- PTP time of the module at clock 0, in ns (R400) -/
  ptpBase : Int := 0
  /-- Sync intervals in a row with a small offset, fabric clocks of the last Announce and of the start of HOLDOVER (R400) -/
  syncGood : Nat := 0
  announceAt : Nat := 0
  holdoverAt : Nat := 0
  /-- the master that the best master clock algorithm has selected and its data set, the lower the better (R399) -/
  ptpBest : Option (Nat × Nat) := none
  /-- PORT_MODE that the link runs in (R355) -/
  portMode : Nat := 0
  ctxs : List Ctx := []
  /-- units of the endpoint pool not granted (R375) -/
  pool : Nat := 0
  colls : List CollRun := []
  /-- the group table and the address of the collective plan (R388) -/
  groups : List (List Nat) := []
  planBase : Nat := 0
  /-- whole messages of kinds 1 to 6 not yet served, in order of completion -/
  inbox : List InMsg := []
  /-- messages that have been completed -/
  messages : Nat := 0
  watches : List Watch := []
  hbSeq : Nat := 0
  hbAt : Nat := 0
  /-- E_AUTH responses and ICMP replies in the running second, and when it began (R362, R368) -/
  authSent : Nat := 0
  authAt : Nat := 0
  icmpSent : Nat := 0
  icmpAt : Nat := 0
  /-- fabric clock of the last gateway resolution (R360) -/
  gatewayAt : Nat := 0
  /-- plan entry that sums the per-layer update and weight sums over the data-parallel group (R200, log 43: DESIGN CHOICE) -/
  ratioPlan : Option Nat := none
  unreachAt : Option Nat := none
  /-- next REQ_ID of a stretch request, and the requests already received, by origin and REQ_ID (R383) -/
  stretchId : Nat := 0
  seenStretch : List (Nat × Nat) := []
  /-- fetch table: address, rows and shards of a row (R392) -/
  fetchBase : Nat := 0
  fetchSteps : Nat := 0
  shards : Nat := 0
  /-- the step whose shards the service fetches (R11, R394) -/
  fetchFor : Nat := 0
  fetches : List Fetch := []
  fetchId : Nat := 1
  /-- the data of the next step is on the module (R28 condition 4, R394) -/
  fetchDone : Bool := false
  /-- the admission phase of the running step has closed (R397) -/
  admitClosed : Bool := false
  /-- serving requests admitted to the next step, and those that came later -/
  admits : List ServeReq := []
  admitsLater : List ServeReq := []
  served : List Served := []
  /-- response records of refused requests that wait for the boundary: context and record (R398) -/
  refusals : List (Nat × List Byte) := []
  deriving DecidableEq, Repr
/-! ### Securing and recovery (R433 to R458) -/

/-- An entry of the input log (R434, R435) and whether it counts as written. -/
structure LogEntry where
  kind : Nat
  step : Nat
  payload : List Byte
  acked : Bool := false
  /-- an input of the replay under way (R443) -/
  replay : Bool := false
  deriving DecidableEq, Repr

/-- A generation that Batten holds in decoded form: its step, the epoch and mode of its header, and its content
(R437, log 51: DESIGN CHOICE). -/
structure Gen where
  step : Nat
  rank : Nat := 0
  epoch : Nat := 0
  mode : Nat := 0
  content : List Byte
  deriving DecidableEq, Repr

/-- A securing under way (R438): its generation, the fabric clock of its boundary, memory as it stood there (R317), the
parts of the context that are not memory, the regions captured so far, and whether the capture has ended. -/
structure Securing where
  gen : Nat
  since : Nat
  snap : Mem
  parts : List Byte
  regions : List (Nat × Nat × Nat) := []
  captured : Bool := false
  deriving DecidableEq, Repr

/-- A relay's or the coordinator's count of an upward message (R452): the operation, the step, how many ranks it covers
and the first code that is not 0. -/
structure UpCount where
  op : Nat
  step : Nat
  count : Nat
  code : Nat
  rank : Nat
  deriving DecidableEq, Repr

/-- A spare that the coordinator has asked to join (R444): the lost rank, the entry of SPARE_LIST, and when. -/
structure Join where
  rank : Nat
  spare : Nat
  since : Nat
  /-- the spare's join transaction has committed -/
  done : Bool := false
  deriving DecidableEq, Repr

/-- Securing and recovery. -/
structure RecovState where
  /-- the module replays steps after a rollback (R443) -/
  replaying : Bool := false
  /-- the step whose record REPLAY_RESULT compares (R443 step 4) -/
  replayStep : Nat := 0
  /-- a retained value changed and the store write has not begun (R499) -/
  storeDue : Bool := false
  /-- the log region and the local image region that the image names (R435, R437) -/
  logBase : Nat := 0
  localBase : Nat := 0
  /-- the buddy of each rank as the image gives it, empty in a job of one module (R439) -/
  buddies : List Nat := []
  lossAt : Nat := 0
  /-- where the next entry goes in the log region, which wraps (log 48: DEDUCED) -/
  logPos : Nat := 0
  /-- the input log, oldest first, and entries that wait for room (R434, R435) -/
  log : List LogEntry := []
  waiting : List LogEntry := []
  /-- securing is forced at the next boundary (R435) -/
  forced : Bool := false
  /-- SECURE_INTERVAL in force (R436), and a deferral's boundary (R440) -/
  interval : Nat := 100
  deferTo : Option Nat := none
  securing : Option Securing := none
  /-- the generation whose securing began at its held boundary, before the commits (log 134: DESIGN CHOICE) -/
  early : Option Nat := none
  /-- the local image is whole: no capture has begun writing over it (R443) -/
  localWhole : Bool := false
  /-- the newest generation that the buddy acknowledged, to code DELTA chunks (R438); none before the first, or after
  the buddy was replaced -/
  streamed : Option Gen := none
  /-- generations held for the rank whose buddy the module is, newest first, and that rank's input log (R439) -/
  held : List Gen := []
  heldLog : List LogEntry := []
  /-- generation whose image is whole here and not yet reported (R439) -/
  localDone : Nat := 0
  /-- the generation of the running job that the module reported last (R439) -/
  reported : Option Nat := none
  /-- a restore runs: its generation (R443) -/
  restoring : Option Nat := none
  /-- the module waits for its buddy's image (R443 steps 1 and 3) -/
  fromBuddy : Option Nat := none
  /-- the step in progress when the fault came (R443 step 5), and what identifies the last schedule fault: rank, step, stream
  index, code and logical core (R446) -/
  faultStep : Nat := 0
  lastSched : Option (List Byte) := none
  /-- fabric clock of ROLLBACK (R443 step 5) -/
  rollbackAt : Nat := 0
  /-- upward messages gathered (R452) -/
  ups : List UpCount := []
  /-- the rank that runs recovery in place of the coordinator (R441): the standby, from its own taking over or from its first
  message until RESUME -/
  root : Option Nat := none
  /-- JOB_EPOCH of the job after the last operation that the module has sent as coordinator (R444), and the spares that a
  decision names: rank and entry of SPARE_LIST (R450) -/
  epoch : Nat := 0
  spares : List (Nat × Nat) := []
  /-- SECURED reports by rank (R442), ranks lost, the target, spares asked to join, and generations ruled out (R442) -/
  securedBy : List (Nat × Nat) := []
  lost : List Nat := []
  target : Option Nat := none
  joins : List Join := []
  ruledOut : List Nat := []
  /-- fault-log entries received, in order of receipt (R450) -/
  faults : List (List Byte) := []
  deriving DecidableEq, Repr
/-! ### Power, clocks, pins and firmware (R498 to R539) -/

/-- A copy of the retained store (R498): its write number and its records by key. -/
structure StoreCopy where
  seq : Nat
  vals : List (Nat × Nat)
  deriving DecidableEq, Repr

/-- A firmware bank (R525): the firmware of manufacture, or what FW_STAGE wrote, by byte offset; offsets not written read
0. -/
inductive Bank where
  | factory
  | staged (bytes : Mem)
  deriving DecidableEq, Repr

/-- A start that waits at 20 ms for RST_N or for the references (R509, R512): cold, or warm with its RESET_CAUSE. -/
inductive StartKind where
  | cold
  | warm (cause : Nat)
  deriving DecidableEq, Repr

/-- Power, clocks, pins, the retained store and the firmware flash. -/
structure PowerState where
  /-- the activity cap C (R519), and the cap that a host decision holds (R520) -/
  cap : Nat := 80
  held : Option Nat := none
  /-- a zone has reached THERMAL_WARN and not every zone has fallen 3 °C below it since (R520, R521) -/
  hot : Bool := false
  /-- current smoothing of the pipelines (R261) -/
  pipeActs : Vector Activity 32 := Vector.replicate 32 {}
  /-- in host-assisted mode, the hardware response applies until every zone has cooled (R520) -/
  hwResponse : Bool := false
  /-- PWR_EN, RST_N low, input in its operating range, PWRGD (R514, R515) -/
  pwrEn : Bool := false
  rstLow : Bool := false
  inputOk : Bool := true
  /-- references present: bit 0 25 MHz, bit 1 156.25 MHz (R505) -/
  refs : Nat := 3
  pwrgd : Bool := false
  /-- a shutdown holds until PWR_EN is deasserted and asserted again (R522) -/
  locked : Bool := false
  /-- the module is shut down until the input is in range again (R522) -/
  awaitInput : Bool := false
  /-- the module has reached READY in this start (R532) -/
  reachedReady : Bool := false
  /-- RESET_CAUSE as Soffit holds it for the next start (R522) -/
  cause : Nat := 0
  /-- ALERT_N asserted by a shutdown decision or by two failed banks (R515, R530) -/
  alertHeld : Bool := false
  start : Option StartKind := none
  /-- the state transition in progress (R508) -/
  trans : Option DeviceState := none
  /-- fabric clock of the last start (UPTIME) -/
  startedAt : Nat := 0
  /-- Dormer runs; false during a restart (R431) or when both banks failed (R530) -/
  dormer : Bool := false
  restarting : Bool := false
  /-- the noise source failed a health test (R534), and signatures made (R533) -/
  noiseBad : Bool := false
  signatures : Nat := 0
  /-- fabric clocks counted in POWERED_TIME and UNAVAIL_TIME, and whether the recovery under way follows a fault of the
  module's own (R455) -/
  poweredClk : Nat := 0
  unavailClk : Nat := 0
  ownFault : Bool := false
  /-- the two copies of the retained store, and the one being written: A is false (R498, R499) -/
  copyA : Option StoreCopy := none
  copyB : Option StoreCopy := none
  writing : Option (Bool × StoreCopy) := none
  storeAt : Nat := 0
  /-- the two firmware banks (R525), and a part that is being programmed: element and bytes (R537) -/
  banks : Bank × Bank := (.factory, .factory)
  program : List (Nat × List Byte) := []
  deriving DecidableEq, Repr

/-! ### Messages handed to the egress queues -/

/-- A message that the module hands to an egress queue of the port (R363). -/
inductive OutMsg where
  /-- a Dunrel response or event (R464); queue 1 -/
  | dunrel (sess : Sess) (resp : Bool) (m : DMsg)
  /-- a DTLS alert that ends a handshake (R459 to R462) -/
  | alert (peer : Nat) (name : String)
  /-- a STRETCH packet to each rank listed, on both paths (R382, R383) -/
  | stretch (ranks : List Nat) (m : StretchMsg)
  /-- a DATA packet of a context (R366); queue by kind -/
  | data (ctx : Nat) (path : Nat) (retx : Bool) (p : Packet)
  /-- ACK or NAK of a context (R372); queue 2 -/
  | ack (ctx : Nat) (e : AckExt)
  | nak (ctx : Nat) (e : AckExt)
  /-- a NAK to an address that is no peer (R368) -/
  | nakTo (addr : Nat) (e : AckExt)
  /-- OPEN, OPEN_ACK and CLOSE (R378) -/
  | openCtx (dst : Peer) (e : OpenExt)
  | openAck (dst : Peer) (e : OpenExt)
  | closeCtx (dst : Peer) (e : OpenExt)
  /-- a HEARTBEAT to ranks on both paths (R380); queue 0 -/
  | heartbeat (ranks : List Nat) (e : HeartbeatExt)
  /-- an echo reply, a neighbour answer, a gateway request, a port-unreachable message (R360 to R362) -/
  | echoReply (dst : Nat) (payload : List Byte)
  | neighbour (dst : Nat) (own : Nat)
  | resolve (gateway : Nat)
  | unreachable (dst : Nat)
  /-- a PTP Delay_Req to the master (R399); queue 0 -/
  | delayReq (master : Nat)
  /-- a recovery control message to a rank (R452, log 41: DESIGN CHOICE); queue 6 -/
  | recovery (rank : Nat) (m : RecMsg)
  /-- a buddy-stream message to a rank (R435, R438, log 41: DESIGN CHOICE); queue 6 -/
  | buddy (rank : Nat) (bytes : List Byte)
  /-- the join transaction that the coordinator sends to a spare: its address, OWN_RANK, JOIN_EPOCH and mode (R444, log 42: DESIGN CHOICE) -/
  | join (spare : List Byte) (rank epoch mode : Nat)
  deriving DecidableEq, Repr
/-- A frame that waits in an egress queue of the port or has left it (R363): its queue, whether it is a retransmission, its path,
its bytes from destination address to FCS (R359), the DSCP of its queue (R360), the PCP of its VLAN tag, the UDP source port
of a Tabbakan frame (R361), and the message that it carries. -/
structure EgressFrame where
  queue : Nat
  retx : Bool := false
  path : Nat := 0
  bytes : Nat
  dscp : Nat := 0
  pcp : Option Nat := none
  udpSrc : Nat := 0
  msg : OutMsg
  deriving DecidableEq, Repr

/-- The egress queues (R363): the frames that wait, in the order of each queue, the deficits of queues 3 to 6, the queue that
deficit round robin now serves and whether it has its quantum of this visit, the fabric clock from which the line is free, and
the frames that have left, newest first. -/
structure EgressState where
  waiting : List EgressFrame := []
  deficits : List Nat := [0, 0, 0, 0]
  turn : Nat := 0
  topped : Bool := false
  lineFree : Nat := 0
  wire : List EgressFrame := []
  deriving DecidableEq, Repr

/-! ### The whole state -/

/-- The two order codes (R2): production module or engineering sample. -/
inductive Part where
  | production | sample
  deriving DecidableEq, Repr

/-- The state of the module and the queue of waiting commands. -/
structure State where
  /-- commands that wait, first in, first out -/
  pending : List Instr
  /-- fabric clocks of 0.625 ns since the model began (R27); the tick of an idle step (log 1: DESIGN CHOICE) -/
  clk : Nat
  part : Part
  dev : DeviceState
  mode : JobMode
  /-- the model's own counter of free values (log 2: DESIGN CHOICE) -/
  fresh : Nat
  /-- dictionary registers that differ from what an unwritten one reads as, by key -/
  regs : List (Nat × Nat)
  mem : Mem
  cores : Vector CoreState 128
  num : NumState
  kv : KvState
  job : JobState
  dunrel : DunrelState
  ras : RasState
  net : NetState
  recov : RecovState
  power : PowerState
  /-- messages handed to the egress queues, newest first -/
  sent : List OutMsg
  /-- the egress queues of the port (R363) -/
  egress : EgressState
  deriving DecidableEq, Repr

/-- Why a command stops the model: none does. -/
inductive Fault where
  deriving DecidableEq, Repr

/-- Why a command is refused. -/
inductive Refusal where
  /-- the command has no meaning in the model yet; raised by exec's arm. Safe: the model stops. -/
  | notModelled (mnemonic : String)
  deriving DecidableEq, Repr

/-- The module right after power is applied with PWR_EN deasserted: OFF, every register at its dictionary default
(R7, R487 to R494), memory with nothing listed, no session, no image, no command waiting. -/
def State.reset : State :=
  { pending := [], clk := 0, part := .production, dev := .off, mode := .idle, fresh := 0, regs := [], mem := [],
    cores := Vector.replicate 128 {}, num := {}, kv := {}, job := {}, dunrel := {}, ras := {}, net := {}, recov := {}, power := {}, sent := [], egress := {} }

end Sys2Proof.Machine
end

