-- ==== Sys2Proof/Machine/Ops.lean ====
section
/-!
DEFINITION. The named operations over registers, memory, time, events, logs and the scoreboard that every meaning uses.
-/
namespace Sys2Proof.Machine

/-! ### Dictionary registers -/

/-- The value listed for a key, if one is. -/
def regFind : List (Nat × Nat) → Nat → Option Nat
  | [], _ => none
  | (k, v) :: r, x => if k = x then some v else regFind r x

/-- A value listed for a key, keys rising. -/
def regPut : List (Nat × Nat) → Nat → Nat → List (Nat × Nat)
  | [], x, v => [(x, v)]
  | (k, u) :: r, x, v =>
    if x < k then (x, v) :: (k, u) :: r else if k = x then (x, v) :: r else (k, u) :: regPut r x v

/-- A dictionary register: what was last written, or its default. -/
def reg (s : State) (k : Nat) : Nat :=
  match regFind s.regs k with
  | some v => v
  | none => keyDefault k

/-- A dictionary register written. -/
def setReg (s : State) (k v : Nat) : State := { s with regs := regPut s.regs k v }

/-- A counter advanced; it wraps at the width of its type (R484). -/
def bump (s : State) (k n : Nat) : State := setReg s k ((reg s k + n) % 2 ^ (8 * keySize k))

/-- A counter advanced when a condition holds. -/
def bumpIf (s : State) (c : Bool) (k n : Nat) : State := if c then bump s k n else s

/-- An element's bytes as stored. -/
def regBytes (s : State) (k : Nat) : List Byte := leBytes (keySize k) (reg s k)

/-- A register set from its bytes as stored. -/
def setRegBytes (s : State) (k : Nat) (b : List Byte) : State := setReg s k (ofLE b)

/-! ### Time -/

/-- Nanoseconds since the model began: a fabric clock is 0.625 ns (R27). -/
def nowNs (s : State) : Nat := s.clk * 5 / 8

/-- The module's PTP time in ns (R400). -/
def ptpNow (s : State) : Nat := ((nowNs s : Int) + s.net.ptpBase).toNat

/-- Whether `ns` nanoseconds have passed since the fabric clock `since`. -/
def elapsed (s : State) (since ns : Nat) : Bool := decide (since * 5 / 8 + ns ≤ nowNs s)

/-- A late acceptance of timer class t (R314, R315). -/
def lateAccept (s : State) (t : Nat) : State := bump s (Obj.lateAccept + t) 1

/-! ### Memory -/

/-- Granule-level reads of the status window (R326): channel state words and scrub positions; other offsets read 0. -/
def statusByte (s : State) (o : Nat) : Byte :=
  if o < 0x400 then
    BitVec.ofNat 8 (reg s (Obj.memChanState + o / 8) % 2 ^ 16 / 2 ^ (8 * (o % 8)))
  else if 0x1000 ≤ o ∧ o < 0x1200 then
    BitVec.ofNat 8 ((s.ras.scrubAt.getD ((o - 0x1000) / 4) 0) / 2 ^ (8 * (o % 4)))
  else 0#8

/-- One byte at a device address. -/
def readByte (s : State) (a : Nat) : Byte :=
  if statusBase ≤ a ∧ a < statusBase + statusSize then statusByte s (a - statusBase) else memGet s.mem a

/-- Consecutive bytes at a device address. -/
def readBytes (s : State) (a : Nat) : Nat → List Byte
  | 0 => []
  | n + 1 => readByte s a :: readBytes s (a + 1) n

/-- A little-endian number of n bytes at a device address. -/
def readLE (s : State) (a n : Nat) : Nat := ofLE (readBytes s a n)

/-- A W32 at a device address. -/
def readW32 (s : State) (a : Nat) : W32 := BitVec.ofNat 32 (readLE s a 4)

/-- Whether a group of module memory is FULL (R328). -/
def groupFull (s : State) (a : Nat) : Bool := reg s (Obj.memInterleave + a / 2 ^ 36 % 16) == 0

/-- The mirrored range that holds an address: base and length (R342). -/
def mirrorRange (s : State) (a : Nat) : Option (Nat × Nat) :=
  ((List.range 16).map fun i =>
    let v := reg s (Obj.mirrorRange + i)
    (v % 2 ^ 64, v / 2 ^ 64)).find? fun r => decide (r.1 ≤ a ∧ a < r.1 + r.2)

/-- Whether a granule is mirrored (R342). -/
def isMirrored (s : State) (a : Nat) : Bool := (mirrorRange s a).isSome

/-- The state of a logical core. -/
def coreOf (s : State) (l : Core) : CoreState := s.cores[l]

/-- One logical core changed. -/
def modCore (s : State) (l : Core) (f : CoreState → CoreState) : State :=
  { s with cores := s.cores.set l (f s.cores[l]) }

/-- All logical cores, in order. -/
def allCores : List Core := List.finRange 128

/-- STALE set on a guard that a write hits; the first stale address stays (R312). -/
def markStale (a n : Nat) (g : Guard) : Guard :=
  if overlaps a n g.base g.len then
    { g with stale := (match g.stale with | some x => some x | none => some (max a g.base)) }
  else g

/-- A write seen by one core's comparators: a cache window hit invalidates the whole cache (R309), a prefetch guard hit
sets STALE (R312). -/
def noticeCore (a n : Nat) (s : State) (l : Core) : State :=
  let c := coreOf s l
  let s := if c.windows.any fun w => overlaps a n w.1 w.2 then
      bump (modCore s l fun c => { c with lines := [] }) (Obj.cacheInval + l.val) 1
    else s
  let hits := (c.guards.filter fun g => overlaps a n g.base g.len).length
  if hits = 0 then s
  else
    bump (modCore s l fun c => { c with guards := c.guards.map (markStale a n) }) (Obj.stale + l.val) hits

/-- A write seen by every core's comparators (R309, R312). -/
def notice (s : State) (a n : Nat) : State := if n = 0 then s else allCores.foldl (noticeCore a n) s

/-- What a write does to the granules it covers: losses, suspect marks and address mismatches of fully written granules
end (R344, R349); the mode of the write is remembered where the group is DIE_LOCAL or was (R328). -/
def freshGranule (s : State) (a n : Nat) (g : Nat) : State :=
  let whole := decide (a ≤ g ∧ g + 256 ≤ a + n)
  let full := groupFull s g
  let h := homeOf full g
  let other := granuleAt (!full) h.1 h.2
  let r := s.ras
  let r := if whole then
      { r with suspect := r.suspect.filter (· != g), lost := r.lost.filter (· != g),
               bad := r.bad.filter fun e => e.1 / 256 * 256 != g }
    else r
  let wasOther := if full then r.localMode.contains other else !(r.localMode.contains other)
  let r := { r with
    clobbered := if other ≠ g ∧ wasOther then
        (if r.clobbered.contains other then r.clobbered else other :: r.clobbered).filter (· != g)
      else r.clobbered.filter (· != g)
    localMode := if full then r.localMode.filter (· != g)
      else if r.localMode.contains g then r.localMode else g :: r.localMode }
  let s := { s with ras := r }
  setReg s Obj.memLost r.lost.length

/-- Whether the address map makes the extra bookkeeping of a write matter: some DIE_LOCAL group, loss, suspect mark or
mismatch exists. -/
def rasQuiet (s : State) (a : Nat) : Bool :=
  groupFull s a && s.ras.localMode.isEmpty && s.ras.clobbered.isEmpty && s.ras.lost.isEmpty && s.ras.suspect.isEmpty
  && s.ras.bad.isEmpty

/-- Whether a mirrored range meets a span (R342). -/
def spanMirrored (s : State) (a n : Nat) : Bool :=
  decide (a < memEnd) && (List.range 16).any fun i =>
    let v := reg s (Obj.mirrorRange + i)
    overlaps a n (v % 2 ^ 64) (v / 2 ^ 64)

/-- The mirror's copy of bytes stored from an address: each byte of a mirrored range goes to its mirror address (R342,
R343). -/
def mirrorBytes (s : State) : Mem → Nat → List Byte → Mem
  | m, _, [] => m
  | m, a, b :: r => mirrorBytes s (if isMirrored s a then memSet m (mirrorOf (groupFull s a) a) b else m) (a + 1) r

/-- What a write of a span does to the granules of module memory that it covers, and to their mirrors. -/
def freshSpan (s : State) (a n : Nat) : State :=
  if a < memEnd ∧ !rasQuiet s a then
    (granulesOf a n).foldl (fun t g =>
      let u := freshGranule t a n g
      if isMirrored s g then
        let m := mirrorOf (groupFull s g) g
        let lo := max a g
        freshGranule u (m + (lo - g)) (min (a + n) (g + 256) - lo) m
      else u) s
  else s

/-- Bytes stored to device memory by an engine or a commit: both copies of a mirrored granule (R343), and every
comparator of the module sees the write (R309, R312). -/
def writeBytes (s : State) (a : Nat) (b : List Byte) : State :=
  if b.isEmpty then s
  else
    let m := memWrite s.mem a b
    let m := if spanMirrored s a b.length then mirrorBytes s m a b else m
    notice (freshSpan { s with mem := m } a b.length) a b.length

/-- A little-endian number of n bytes stored. -/
def writeLE (s : State) (a n v : Nat) : State := writeBytes s a (leBytes n v)

/-- The mirrors of [dst, dst + n) made to hold what the primaries hold (R343). -/
def mirrorSpan (s : State) (m : Mem) (dst n : Nat) : Mem :=
  if spanMirrored s dst n then
    let back := fun a => mirrorOf (groupFull s a) a
    let old := m.filter fun c => !(decide (dst ≤ back c.1 ∧ back c.1 < dst + n) && isMirrored s (back c.1))
    (m.filter fun c => decide (dst ≤ c.1 ∧ c.1 < dst + n)).foldl
      (fun t c => if isMirrored s c.1 then memSet t (back c.1) c.2 else t) old
  else m

/-- [src, src + n) copied to dst as stored writes, both copies of mirrored granules too (R343); the comparators see it. -/
def copyMem (s : State) (src dst n : Nat) : State :=
  notice (freshSpan { s with mem := mirrorSpan s (memCopy s.mem src dst n) dst n } dst n) dst n

/-- [a, a + n) set to 0 as stored writes. -/
def clearMem (s : State) (a n : Nat) : State :=
  notice (freshSpan { s with mem := mirrorSpan s (memClear s.mem a n) a n } a n) a n

/-! ### Messages, events and logs -/

/-- The egress queue of a Tabbakan message by its kind (R363, R369). -/
def kindQueue : Nat → Nat
  | 0 => 3 | 4 => 4 | 5 => 4 | 2 => 5 | 3 => 5 | _ => 6

/-- The egress queue of a message (R363). -/
def OutMsg.queue : OutMsg → Nat
  | .stretch .. => 0 | .heartbeat .. => 0 | .delayReq .. => 0
  | .dunrel .. => 1 | .alert .. => 1 | .echoReply .. => 1 | .neighbour .. => 1 | .resolve .. => 1 | .unreachable .. => 1 | .join .. => 1
  | .ack .. => 2 | .nak .. => 2 | .nakTo .. => 2 | .openCtx .. => 2 | .openAck .. => 2 | .closeCtx .. => 2
  | .data _ _ _ p => kindQueue p.ext.kind
  | .recovery .. => 6 | .buddy .. => 6

/-- Bytes of an IP header on a path (R359, R366): IPv4 when its address is IPv4-mapped. -/
def ipHeader (s : State) (p : Nat) : Nat := if reg s (Obj.pathAddr + p) / 2 ^ 32 = 0xFFFF then 20 else 40

/-- Bytes of a frame around n bytes above UDP: Ethernet, a tag when the path adds one, IP, UDP and FCS; at least 64 (R359, R366). -/
def frameBytes (s : State) (p n : Nat) : Nat :=
  max 64 (14 + (if reg s (Obj.pathVlan + p) = 0 then 0 else 4) + ipHeader s p + 8 + n + 4)

/-- The context whose number a message's source port carries (R361). -/
def OutMsg.ctx : OutMsg → Nat
  | .data c .. => c | .ack c _ => c | .nak c _ => c | .openCtx _ e => e.ctx | .openAck _ e => e.ctx | .closeCtx _ e => e.ctx
  | _ => 0

/-- Bytes above UDP of a message's packets, each with its path: headers, extension, payload and ICRC of Tabbakan (R366 to R382);
other messages count their payload beside the header (log 133: DESIGN CHOICE). -/
def OutMsg.packets (s : State) : OutMsg → List (Nat × Nat)
  | .data _ p _ k => [(p, 36 + k.ext.payload.length)]
  | .heartbeat rs _ => rs.flatMap fun _ => [(0, 52), (1, 52)]
  | .stretch rs _ => rs.flatMap fun _ => [(0, 52), (1, 52)]
  | .ack c _ => [(((s.net.ctxs.find? fun x => x.num == c).map Ctx.path).getD 0, 36)]
  | .nak c _ => [(((s.net.ctxs.find? fun x => x.num == c).map Ctx.path).getD 0, 36)]
  | .dunrel _ _ m => [(0, 48 + m.payload.length)]
  | .echoReply _ b => [(0, b.length)]
  | .recovery _ m => [(0, 36 + 72 + m.entries.length)]
  | .buddy _ b => (List.range ((b.length + 8191) / 8192)).map fun i => (0, 36 + min 8192 (b.length - 8192 * i))
  | _ => [(0, 36)]

/-- The frames of a message (R360, R361, R363): the PCP is 7 − q when a tag is present. -/
def framesOf (s : State) (m : OutMsg) : List EgressFrame :=
  (m.packets s).map fun (p, n) =>
    { queue := m.queue, retx := (match m with | .data _ _ r _ => r | _ => false), path := p, bytes := frameBytes s p n
      dscp := reg s (Obj.tbkDscp + m.queue), pcp := if reg s (Obj.pathVlan + p) = 0 then none else some (7 - m.queue)
      udpSrc := 0xC000 + m.ctx % 2 ^ 14, msg := m }

/-- A frame put into its queue: a retransmission goes ahead of the new packets (R363). -/
def insertFrame (f : EgressFrame) : List EgressFrame → List EgressFrame
  | [] => [f]
  | x :: r => if f.retx && !x.retx && x.queue == f.queue then f :: x :: r else x :: insertFrame f r

/-- A message handed to its egress queue (R363). -/
def send (s : State) (m : OutMsg) : State :=
  { s with sent := m :: s.sent
           egress := { s.egress with waiting := (framesOf s m).foldl (fun w f => insertFrame f w) s.egress.waiting } }

/-- One session changed. -/
def modSess (s : State) (i : Sess) (f : Session → Session) : State :=
  { s with dunrel := { s.dunrel with sessions := s.dunrel.sessions.set i (s.dunrel.sessions[i].map f) } }

/-- An event record (R467): code, PTP time, step, body. -/
def eventRecord (s : State) (code : Nat) (body : List Byte) : List Byte :=
  beBytes 2 code ++ List.replicate 6 0#8 ++ beBytes 8 (ptpNow s) ++ beBytes 8 s.job.step ++ body

/-- The EVENT message of a record (R464). -/
def eventMsg (num : Nat) (record : List Byte) : DMsg :=
  { type := 7, reqId := num, count := 1, total := record.length, payload := record }

/-- One event delivered to one session: it takes the session's next number, waits for its acknowledgement, and is
discarded when 256 wait already (R467). -/
def deliver (s : State) (i : Sess) (code : Nat) (body : List Byte) : State :=
  match s.dunrel.sessions[i] with
  | none => s
  | some x =>
    if x.unacked.length ≥ 256 then
      bump (modSess s i fun x => { x with nextEvent := x.nextEvent + 1 }) (Obj.eventDropped + i.val) 1
    else
      let record := eventRecord s code body
      let s := modSess s i fun x =>
        { x with nextEvent := x.nextEvent + 1,
                 unacked := x.unacked ++ [{ num := x.nextEvent, record := record, sends := 1, last := s.clk }] }
      send s (.dunrel i false (eventMsg x.nextEvent record))

/-- An event raised: every session whose mask has the class receives it (R467). -/
def raiseEvent (s : State) (code : Nat) (body : List Byte) : State :=
  (List.finRange 16).foldl (fun t i =>
    match t.dunrel.sessions[i] with
    | some x => if bitOf x.mask code then deliver t i code body else t
    | none => t) s

/-- A violation entered in the violation log and raised (R479). `who` is kind and number, `space` and `addr` as R479
gives. -/
def violation (s : State) (kind num space addr code : Nat) (key : List Byte) : State :=
  let entry := leBytes 8 (ptpNow s) ++ leBytes 8 addr ++ leBytes 4 (num % 2 ^ 24 + kind * 2 ^ 24)
    ++ leBytes 1 space ++ leBytes 1 code ++ leBytes 2 0 ++ (key ++ List.replicate 8 0#8).take 8
  let h := reg s Obj.violHead
  let s := setReg s (Obj.violLog + h % 64) (ofLE entry)
  let s := setReg s Obj.violHead ((h + 1) % 64)
  raiseEvent s 2 entry

/-- Error codes of R478. -/
abbrev eOK : Nat := 0x00
/-- E_ACCESS -/
abbrev eACCESS : Nat := 0x01
/-- E_RANGE -/
abbrev eRANGE : Nat := 0x02
/-- E_TYPE -/
abbrev eTYPE : Nat := 0x03
/-- E_DEFERRED -/
abbrev eDEFERRED : Nat := 0x04
/-- E_CONFLICT -/
abbrev eCONFLICT : Nat := 0x05
/-- E_UNCORR -/
abbrev eUNCORR : Nat := 0x06
/-- E_TIMEOUT -/
abbrev eTIMEOUT : Nat := 0x07
/-- E_STATE -/
abbrev eSTATE : Nat := 0x08
/-- E_AUTH -/
abbrev eAUTH : Nat := 0x09
/-- E_DIVERGE -/
abbrev eDIVERGE : Nat := 0x0A
/-- E_SCHED -/
abbrev eSCHED : Nat := 0x0B

/-- Whether a job runs on the module. -/
def inJob (s : State) : Bool := s.mode != .idle

/-- The bytes of a recovery control message: a 72-byte header in network byte order, then its payload (R452). -/
def RecMsg.bytes (m : RecMsg) : List Byte :=
  beBytes 1 m.op ++ beBytes 1 m.code ++ beBytes 1 m.fault ++ beBytes 1 0 ++ beBytes 2 m.rank ++ beBytes 2 m.count
    ++ beBytes 8 m.step ++ beBytes 8 m.t0 ++ beBytes 2 m.epoch ++ beBytes 2 0 ++ beBytes 4 m.serial ++ beBytes 8 m.time
    ++ (m.entry ++ List.replicate 32 0#8).take 32 ++ m.entries

/-- A big-endian field of a byte string. -/
def fieldBE (b : List Byte) (o n : Nat) : Nat := ofLE ((b.drop o).take n).reverse

/-- The recovery control message that bytes spell (R452). -/
def parseRec (b : List Byte) : RecMsg :=
  { op := fieldBE b 0 1, code := fieldBE b 1 1, fault := fieldBE b 2 1, rank := fieldBE b 4 2, count := fieldBE b 6 2
    step := fieldBE b 8 8, t0 := fieldBE b 0x10 8, epoch := fieldBE b 0x18 2, serial := fieldBE b 0x1C 4
    time := fieldBE b 0x20 8, entry := (b.drop 0x28).take 32, entries := b.drop 0x48 }

/-- A recovery control message to a rank; one for the module's own rank is delivered at once (R452, R561, log 41: DESIGN CHOICE). -/
def recTo (s : State) (rank : Nat) (m : RecMsg) : State :=
  if rank = reg s Obj.ownRank then
    { s with net := { s.net with inbox := s.net.inbox ++ [{ ctx := 0, src := .rank rank, kind := 6, bytes := m.bytes }] } }
  else send s (.recovery rank m)

/-- A fault reported (R432): log entry, count, FAULT event, and for an unmasked fault the FAULT message to the
coordinator and the standby while a job is loaded. -/
def reportFault (s : State) (code outcome addr err die unit : Nat) : State :=
  let entry := leBytes 8 (ptpNow s) ++ leBytes 8 s.job.step ++ leBytes 8 addr ++ leBytes 1 code ++ leBytes 1 outcome
    ++ leBytes 1 err ++ leBytes 1 die ++ leBytes 2 unit ++ leBytes 2 0
  let h := reg s Obj.faultLogHead
  let s := setReg s (Obj.faultLog + h % 64) (ofLE entry)
  let s := setReg s Obj.faultLogHead ((h + 1) % 64)
  let s := bump s (Obj.faultCount + code) 1
  let s := raiseEvent s 1 entry
  if outcome = 0 ∨ !inJob s then s
  else
    let m : RecMsg := { op := 0, code := err, fault := code, rank := if code = 0x0F then unit else reg s Obj.ownRank
                        step := s.job.step, epoch := reg s Obj.jobEpoch, time := ptpNow s, entry := entry }
    let c := reg s Obj.coordRank
    let b := reg s Obj.standbyRank
    if c = b then recTo s c m else recTo (recTo s c m) b m

/-! ### Device state, job mode and the transactions they end -/

/-- The STATE event (R467). -/
def stateEvent (s : State) : State := raiseEvent s 0 (leBytes 1 s.dev.code ++ leBytes 1 s.mode.code)

/-- A transaction removed. -/
def dropTxn (s : State) (h : Nat) : State :=
  { s with dunrel := { s.dunrel with txns := s.dunrel.txns.filter fun t => t.handle != h } }

/-- IMAGE_STATE once an image command has ended without its image: loaded when an image is in use, else none (R489,
log 61: DEDUCED). -/
def imageIdle (s : State) (t : Txn) : State :=
  if t.state != .open && t.writes.any fun w => w.index == 0x2001 then
    setReg s Obj.imageState (if s.job.streams.isEmpty then 0 else 2)
  else s

/-- A waiting transaction ends with TXN_DONE (R469): it is freed, counted, and its session is told. -/
def endTxn (s : State) (t : Txn) (code : Nat) : State :=
  let s := dropTxn s t.handle
  let s := if code = eOK then s else imageIdle s t
  let s := bump s (if code = eOK then Obj.txnCommitted else Obj.txnAborted) 1
  deliver s t.sess 4 (leBytes 1 t.handle ++ leBytes 1 code)

/-- Whether a transaction writes JOB_MODE. -/
def Txn.isJobMode (t : Txn) : Bool := t.writes.any fun w => w.index == 0x1011

/-- Whether a transaction waits: DUE, DEFERRED, or with image checks running. -/
def Txn.waits (t : Txn) : Bool :=
  match t.state with
  | .open => false
  | _ => true

/-- R10: entering RECOVERING or FAULTED, or a halt, ends every DUE or DEFERRED transaction with E_STATE and aborts OPEN
job-mode transactions. -/
def abortWaiting (s : State) : State :=
  let s := (s.dunrel.txns.filter Txn.waits).foldl (fun t x => endTxn t x eSTATE) s
  let gone := s.dunrel.txns.filter fun t => !t.waits && t.isJobMode
  gone.foldl (fun t x => bump (dropTxn t x.handle) Obj.txnAborted 1) s

/-- The device state changed, with the STATE event (R467) and, into RECOVERING or FAULTED, R10. The job mode stays: a module
that goes FAULTED out of a job keeps TRAIN or SERVE until its warm reset (log 119: DESIGN CHOICE). -/
def setDev (s : State) (d : DeviceState) : State :=
  if s.dev = d then s
  else
    let s := { s with dev := d }
    let s := if d = .recovering ∨ d = .faulted then abortWaiting s else s
    stateEvent s

/-- The job mode changed, with the STATE event. -/
def setMode (s : State) (m : JobMode) : State := if s.mode = m then s else stateEvent { s with mode := m }

/-- The device state and the job mode changed together, with one STATE event. -/
def setDevMode (s : State) (d : DeviceState) (m : JobMode) : State :=
  if s.dev = d ∧ s.mode = m then s
  else
    let enter := decide (s.dev ≠ d ∧ (d = .recovering ∨ d = .faulted))
    let s := { s with dev := d, mode := m }
    stateEvent (if enter then abortWaiting s else s)

/-- A free value of 32 bits, and the counter that the next one takes (log 2: DESIGN CHOICE). -/
def takeFree (s : State) : W32 × State := (Config.freeWord s.fresh, { s with fresh := s.fresh + 1 })

/-! ### The scoreboard (R295 to R302) -/

/-- Whether a token is set. -/
def tokenSet (c : CoreState) (t : Nat) : Bool := c.tokens.getLsbD t

/-- One token of a core set: a set token stays set and counts (R297); the watchdog starts again and a stopped clock
restarts (R300, R319). -/
def setToken (s : State) (l : Core) (t : Nat) : State :=
  let c := coreOf s l
  if tokenSet c t then bump s (Obj.tokenDoubleSet + l.val) 1
  else modCore s l fun c => { c with tokens := c.tokens ||| (1#256 <<< t), watch := s.clk, clockOn := true }

/-- Several tokens set, in order. -/
def setTokens (s : State) (l : Core) (ts : List Nat) : State := ts.foldl (fun t x => setToken t l x) s

/-- The tokens of a list cleared. -/
def clearMask (t : BitVec 256) (ts : List Nat) : BitVec 256 := ts.foldl (fun m x => m &&& ~~~(1#256 <<< x)) t

/-- The 256-bit word of a core's stream at an index: 32 bytes, little-endian, in the Thatch of its die (R282, R284). -/
def wordAt (s : State) (l : Core) (idx : Nat) : BitVec 256 :=
  BitVec.ofNat 256 (readLE s (thatchAddr l.die + (s.job.streams.getD l.val (0, 0)).1 + 32 * idx) 32)

/-- Operations in a core's stream (R282). -/
def streamLen (s : State) (l : Core) : Nat := (s.job.streams.getD l.val (0, 0)).2

/-- The word of a stream (R282). -/
def streamWord (s : State) (l : Core) (idx : Nat) : Option (BitVec 256) := if idx < streamLen s l then some (wordAt s l idx) else none

/-- The words of a core's stream, in order. -/
def streamOps (s : State) (l : Core) : List (BitVec 256) := (List.range (streamLen s l)).map (wordAt s l)

/-- Whether an operation of the stream has issued. -/
def issuedAt (c : CoreState) (idx : Nat) : Bool := decide (idx < c.base) || c.ahead.contains idx

/-- Whether a word is a phase mark. -/
def isMark (w : BitVec 256) : Bool := opcodeOf w == some .pmark

/-- Whether an operation needs every earlier one complete (R299): FENCE, CTXSAVE and closing phase marks. -/
def needsComplete (w : BitVec 256) : Bool :=
  match opcodeOf w with
  | some .fence => true
  | some .ctxsave => true
  | some .pmark => opImm w 3 0 == 1 || opImm w 3 0 == 4
  | _ => false

/-- Whether the module executes a schedule: RUNNING, or RECOVERING in a replay (R443). -/
def executing (s : State) : Bool := s.dev == .running || (s.dev == .recovering && s.recov.replaying)

/-- Whether a guard's buffer is fresh: STALE clear and no request of the prefetch outstanding (R311, R312). -/
def guardFresh (c : CoreState) (g : Guard) : Bool :=
  g.stale.isNone && !(c.reqs.any fun r => r.op == g.op) && !(c.slots.any fun x => x.req.op == g.op)

/-- Comparators in use (R309, R311). -/
def comparators (c : CoreState) : Nat := c.windows.length + c.guards.length

/-- Whether a Slate operation may issue: Slate is free and no fallback repeat waits (R136). -/
def slateFree (s : State) (l : Core) : Bool := (coreOf s l).slate.isNone && (coreOf s l).repeats.isEmpty

/-- Whether a pipeline is in service (R259). -/
def pipeUp (s : State) (q : Nat) : Bool := reg s (Obj.quinceState + q) == 0

/-- The lowest pipeline of a die that is in service and idle (log 33: DESIGN CHOICE). -/
def freePipe (s : State) (d : Die) : Option Nat :=
  ((List.range 8).map (8 * d.val + ·)).find? fun q => pipeUp s q && !(s.kv.runs.any fun r => r.pipe == q)

/-- Whether the unit that an operation names takes one now: an array or a pipeline that is free (R136, R242), a prefetch a free
comparator (R311), an optimizer step the global norm (R187). -/
def unitFree (s : State) (l : Core) (op : Opcode) : Bool :=
  match op with
  | .fwd => (coreOf s l).reed.isNone
  | .bwd | .bpair | .tiedsum => slateFree s l
  | .attn | .sample => (freePipe s l.die).isSome
  | .prefetch => decide (comparators (coreOf s l) < 64)
  | .optstep => s.num.norm.known
  | _ => true

/-- Whether operation `idx` of core `l` meets the conditions of its own issue (R283, R296, R299, R302, R312): in the window of
32, not issued, every earlier operation of its queue issued, no unissued phase mark before it, fewer than 2 of its queue in
flight, its tokens set, the prefetched buffers it consumes fresh, and for a fence, closing mark or context save every earlier
operation complete. -/
def mayIssue (s : State) (l : Core) (idx : Nat) (w : BitVec 256) (op : Opcode) : Bool :=
  let c := coreOf s l
  let earlier := (List.range idx).filter fun i => !issuedAt c i
  let words := earlier.filterMap fun i => streamWord s l i
  executing s && !c.halted && !c.moving && !c.switchedOut && streamWord s l idx == some w && opcodeOf w == some op
  && decide (c.base ≤ idx ∧ idx < c.base + 32) && !issuedAt c idx
  && words.all (fun v => (opcodeOf v).map Opcode.queue != some op.queue && !isMark v)
  && (!isMark w || earlier.isEmpty)
  && (!needsComplete w || (earlier.isEmpty && (c.flight.filter fun f => decide (f.idx < idx)).isEmpty))
  && decide ((c.flight.filter fun f => decide (f.queue = op.queue)).length < 2)
  && (opWaits w).all (tokenSet c)
  && (c.guards.filter fun g => g.consumer == idx).all fun g => guardFresh c g

/-- Whether an operation of the window before `idx` could issue now (R283). -/
def earlierReady (s : State) (l : Core) (idx : Nat) : Bool :=
  let c := coreOf s l
  (List.range (idx - c.base)).any fun i =>
    match streamWord s l (c.base + i) with
    | none => false
    | some v => match opcodeOf v with
      | some o => mayIssue s l (c.base + i) v o && unitFree s l o
      | none => false

/-- Whether operation `idx` of core `l` may issue now: it meets the conditions of its own issue, and it is the earliest in
stream order that can (R283). -/
def canIssue (s : State) (l : Core) (idx : Nat) (w : BitVec 256) (op : Opcode) : Bool :=
  mayIssue s l idx w op && !earlierReady s l idx

/-- The lowest unissued index and the issued ones above it, after index `idx` issues. -/
def advance (base : Nat) (ahead : List Nat) : Nat → Nat × List Nat
  | 0 => (base, ahead)
  | n + 1 => if ahead.contains base then advance (base + 1) (ahead.filter (· != base)) n else (base, ahead)

/-- An operation issues (R296): its tokens are cleared when CONSUME is 1, SCHED_OPS counts it, the guards that it consumes
are freed (R311), and the watchdog starts again where a token changed or another operation is now the oldest (R300). `fly`
keeps it in flight until it completes. -/
def issue (s : State) (l : Core) (idx : Nat) (w : BitVec 256) (op : Opcode) (fly : Bool) : State :=
  let s := modCore s l fun c =>
    let (b, a) := advance c.base (idx :: c.ahead) (c.ahead.length + 1)
    { c with
      tokens := if opConsume w then clearMask c.tokens (opWaits w) else c.tokens
      base := b, ahead := a, clockOn := true
      watch := if b != c.base || (opConsume w && !(opWaits w).isEmpty) then s.clk else c.watch
      guards := c.guards.filter fun g => g.consumer != idx
      flight := if fly then c.flight ++ [{ idx := idx, word := w, queue := op.queue }] else c.flight }
  bump s (Obj.schedOps + l.val) 1

/-- One operation in flight changed. -/
def modFlight (s : State) (l : Core) (idx : Nat) (f : Flight → Flight) : State :=
  modCore s l fun c => { c with flight := c.flight.map fun x => if x.idx = idx then f x else x }

/-- An operation's results are all produced. -/
def markDone (s : State) (l : Core) (idx : Nat) : State := modFlight s l idx fun f => { f with done := true }

/-- A core whose operation faults: it issues nothing further in the step, and the operation leaves its units and sets no token
(R294). -/
def CoreState.faultOp (c : CoreState) (idx : Nat) : CoreState :=
  { c with halted := true, flight := c.flight.filter fun f => f.idx != idx, reed := c.reed.filter fun r => r.idx != idx
           slate := c.slate.filter fun r => r.borrowed != 0 || r.idx != idx, repeats := c.repeats.filter fun r => r.idx != idx }

/-- A schedule fault of an operation (R294, R427 code 0x10): it sets no token, its core issues nothing further in the
step, the violation log names it, and the fault is unmasked and carries the stream index `idx` (R446). `space` and `addr` as
R479 gives; `err` its error code. -/
def opFault (s : State) (l : Core) (q : Queue) (idx space addr err : Nat) (code : Nat) : State :=
  let s := modCore s l fun c => c.faultOp idx
  let s := { s with kv := { s.kv with runs := s.kv.runs.filter fun r => !(r.core == l.val && r.idx == idx)
                                      waiting := s.kv.waiting.filter fun r => !(r.core == l.val && r.idx == idx) }
                    num := { s.num with tiles := s.num.tiles.filter fun t => !(t.core == l.val && t.op == idx) }
                    net := { s.net with colls := s.net.colls.filter fun r => !(r.core == l.val && r.idx == idx) } }
  let s := violation s 1 (l.val * 256 + q.num) space addr err []
  let s := reportFault s code 1 (if code = 0x10 then idx else addr) err l.die.val l.val
  { s with job := { s.job with schedFault := true } }

/-! ### Descriptors (R290 to R293, R204, R208) -/

/-- The device address of descriptor i of core l (R290). -/
def descAddr (s : State) (l : Core) (i : Nat) : Nat := sramAddr l + (s.job.tables.getD l.val (0, 0)).1 + 64 * i

/-- Descriptor i of core l as it stands in local SRAM (R290, R291). -/
def descAt (s : State) (l : Core) (i : Nat) : Desc := parseDesc (readBytes s (descAddr s l i) 64)

/-- Whether a span lies inside the windows that the image maps (R559): windows are in ascending order and may touch. -/
def covered : List (Nat × Nat) → Nat → Nat → Bool
  | [], _, n => n == 0
  | (b, k) :: r, a, n =>
    if n = 0 then true
    else if b ≤ a ∧ a < b + k then (if a + n ≤ b + k then true else covered r (b + k) (a + n - (b + k)))
    else covered r a n

/-- The slot that holds a version (R203): CURRENT or HELD. -/
def slotOf (s : State) (v : Nat) : Option VSlot :=
  s.num.slots.find? fun x => decide (x.version = v) && (x.state == .current || x.state == .held)

/-- The version that a lag selects (R204), if it is not negative. -/
def lagVersion (s : State) (lag : Nat) : Option Nat :=
  if lag ≤ s.job.stepVersion then some (s.job.stepVersion - lag) else none

/-- A descriptor with its version slot's address added, when VERSIONED is 1 (R292); SPLANE is an offset in the slot too
(log 22: DEDUCED). None when no slot holds the version (R208). -/
def resolve (s : State) (d : Desc) : Option Desc :=
  if d.versioned then
    match (lagVersion s d.lag).bind (slotOf s) with
    | some x => some { d with base := d.base + x.base, splane := d.splane + x.base }
    | none => none
  else some d

/-- What is wrong with a descriptor, if anything. -/
inductive DescErr where
  /-- R293: refused, or faults with E_SCHED -/
  | sched
  /-- R208: no slot holds the version -/
  | version
  deriving DecidableEq, Repr

/-- The checks of R293 that need no address: R37, R52, R55, R204, R221, R291. `tensorScale` says that the TSCALE field
is used (R52); conversions and optimizer steps ignore it (R149, R198). -/
def Desc.formOk (d : Desc) (tensorScale : Bool) : Bool :=
  decide (d.kind ≤ 1) && d.blk != 3 && decide (0 < d.dim1 ∧ 0 < d.dim2 ∧ 0 < d.dim3)
  && (d.kind == 1 || ((Format.ofCode d.format).isSome && (!tensorScale || !d.fmt.isScaled || w32Normal d.tscale)))
  && decide (d.lag ≤ 2) && (d.versioned || d.lag == 0) && decide (d.ident < 0xFFFFFFF0)

/-- The whole check of R293 on a descriptor as resolved: its span and its scale plane lie in the job's windows. -/
def descBad (s : State) (d : Desc) (tensorScale : Bool) : Option DescErr :=
  if !d.formOk tensorScale then some .sched
  else match resolve s d with
    | none => some .version
    | some r =>
      if covered s.job.windows r.base r.spanBytes && covered s.job.windows r.splane r.planeBytes then none
      else some .sched

/-- An operand: none when the slot holds 0xFFFF, else the descriptor, checked and resolved, or its error with the
descriptor's address. -/
def operand (s : State) (l : Core) (i : Nat) (tensorScale : Bool := true) : Except (DescErr × Nat) (Option Desc) :=
  if i = noDesc then .ok none
  else if i ≥ (s.job.tables.getD l.val (0, 0)).2 then .error (.sched, descAddr s l i)
  else
    let d := descAt s l i
    match descBad s d tensorScale with
    | some e => .error (e, descAddr s l i)
    | none => .ok (resolve s d)

/-- A required operand. -/
def operand! (s : State) (l : Core) (i : Nat) (tensorScale : Bool := true) : Except (DescErr × Nat) Desc :=
  match operand s l i tensorScale with
  | .ok (some d) => .ok d
  | .ok none => .error (.sched, descAddr s l i)
  | .error e => .error e

/-- A required destination: the status window is read-only (R327). -/
def dest! (s : State) (l : Core) (i : Nat) (tensorScale : Bool := true) : Except (DescErr × Nat) Desc :=
  match operand! s l i tensorScale with
  | .ok d => if windowOf d.base == .status || windowOf d.splane == .status then .error (.sched, descAddr s l i) else .ok d
  | .error e => .error e

/-- An optional destination (R327). -/
def destOpt (s : State) (l : Core) (i : Nat) (tensorScale : Bool := true) : Except (DescErr × Nat) (Option Desc) :=
  match operand s l i tensorScale with
  | .ok (some d) => if windowOf d.base == .status || windowOf d.splane == .status then .error (.sched, descAddr s l i) else .ok (some d)
  | r => r

/-- An operand error becomes the operation's fault at issue (R208, R293). -/
def descFault (s : State) (l : Core) (q : Queue) (idx : Nat) (e : DescErr × Nat) : State :=
  let s := if e.1 = .version then bump s Obj.versionFaults 1 else s
  opFault s l q idx 4 e.2 eSCHED 0x10

/-! ### Tensor elements (R42, R54) -/

/-- The code of element k of row i. -/
def elemCode (s : State) (d : Desc) (i k : Nat) : Nat :=
  let (a, b) := d.elemBit i k
  readLE s a 4 / 2 ^ b % 2 ^ d.fmt.bits

/-- The fine-scale byte of the block of element (i, k); `cross` says that the blocks run along the rows. -/
def fineByte (s : State) (d : Desc) (cross : Bool) (i k : Nat) : Nat :=
  (readByte s (if cross then d.crossAddr i k else d.scaleAddr i (k / blockSize d.blk))).toNat

/-- The zero point of a U4 block (R54). -/
def zeroPoint (s : State) (d : Desc) (i k : Nat) : Nat :=
  if d.fmt = .u4 then (readByte s (d.scaleAddr i (k / blockSize d.blk) + 1)).toNat % 16 else 0

/-- The exact value of element (i, k) of a tensor with its scales (R70); W16 and W32 have none. -/
def elemValue (s : State) (d : Desc) (i k : Nat) : Ext :=
  if d.fmt.isScaled then
    decode d.fmt (elemCode s d i k) (fineVal (fineByte s d false i k)) (tscaleVal d.tscale) (zeroPoint s d i k)
  else decode d.fmt (elemCode s d i k) (Dy.ofInt 1) (Dy.ofInt 1) 0

/-- A W32 element of a W32 tensor or of a region read row by row (`width` elements in a row). -/
def w32Elem (s : State) (d : Desc) (width i k : Nat) : W32 :=
  if d.kind = 1 then readW32 s (d.base + 4 * (i * width + k)) else readW32 s (d.rowAddr i + 4 * k)

/-- The address of that element. -/
def w32Addr (d : Desc) (width i k : Nat) : Nat :=
  if d.kind = 1 then d.base + 4 * (i * width + k) else d.rowAddr i + 4 * k

/-- Bits [lo, lo + n) of the little-endian byte string at an address replaced. -/
def writeBits (s : State) (a bit n v : Nat) : State :=
  let len := (bit + n + 7) / 8
  let old := readLE s a len
  let low := old % 2 ^ bit
  let high := old / 2 ^ (bit + n)
  writeLE s a len (low + (v % 2 ^ n) * 2 ^ bit + high * 2 ^ (bit + n))

/-- The code of element k of row i stored. -/
def putCode (s : State) (d : Desc) (i k v : Nat) : State :=
  let (a, b) := d.elemBit i k
  writeBits s a b d.fmt.bits v

/-- One bit of a bit map in memory, bit i mod 8 of byte i / 8, from the least significant on: row masks and zero maps (R99,
R102; log 112: DESIGN CHOICE). -/
def mapBit (s : State) (base i : Nat) : Bool := bitOf (readByte s (base + i / 8)).toNat (i % 8)

/-- One bit of a bit map stored. -/
def putBit (s : State) (base i : Nat) (v : Bool) : State := writeBits s (base + i / 8) (i % 8) 1 (if v then 1 else 0)

/-- A conclusion of an operation's checks turned into a next state. -/
def orFault (s : State) (l : Core) (q : Queue) (idx : Nat) (r : Except (DescErr × Nat) State) : State :=
  match r with
  | .ok t => t
  | .error e => descFault s l q idx e

end Sys2Proof.Machine
end

