-- ==== Sys2Proof/Machine/ReedSolomon.lean ====
section
/-!
DEFINITION. The codeword of module memory (R332 to R336): GF(2⁸), the check symbols over data and address symbols, and
the decoder that corrects up to two symbols, beside the erasures of a marked DQ.
-/
namespace Sys2Proof.Machine

/-- a × 2 in the field (R333). -/
def gfDouble (a : Byte) : Byte := if a &&& 0x80#8 = 0#8 then a <<< 1 else (a <<< 1) ^^^ 0x1D#8

/-- The product, over n bits of b. -/
def gfMulAux : Nat → Byte → Byte → Byte
  | 0, _, _ => 0#8
  | n + 1, a, b => (if b &&& 1#8 = 1#8 then a else 0#8) ^^^ gfMulAux n (gfDouble a) (b >>> 1)

def gfMul (a b : Byte) : Byte := gfMulAux 8 a b

def gfPow (a : Byte) : Nat → Byte
  | 0 => 1#8
  | n + 1 => gfMul a (gfPow a n)

/-- The inverse of a non-zero element, a^254. -/
def gfInv (a : Byte) : Byte := gfPow a 254

/-- α^n. -/
def gfAlpha (n : Nat) : Byte := gfPow 2#8 (n % 255)

/-- The value at x of the polynomial whose coefficients are listed from x^0 up. -/
def gfEval (x : Byte) : List Byte → Byte
  | [] => 0#8
  | c :: r => c ^^^ gfMul x (gfEval x r)

/-- The five address symbols of a device address (R333). -/
def addrSymbols (a : Nat) : List Byte :=
  let v := a / 64 % 2 ^ 34
  [BitVec.ofNat 8 v, BitVec.ofNat 8 (v / 2 ^ 8), BitVec.ofNat 8 (v / 2 ^ 16), BitVec.ofNat 8 (v / 2 ^ 24),
   BitVec.ofNat 8 (v / 2 ^ 32)]

/-- One step of the division by g(x): shift in the coefficient c, `rem` held from x^0 to x^7. -/
def rsStep (g : List Byte) (rem : List Byte) (c : Byte) : List Byte :=
  let f := rem.getD 7 0#8
  let sh := c :: rem.take 7
  List.zipWith (fun r k => r ^^^ gfMul f k) sh g

/-- (p)(x − a) with coefficients from x^0 up. -/
def polyMulRoot (p : List Byte) (a : Byte) : List Byte :=
  List.zipWith (· ^^^ ·) (0#8 :: p) (p.map (gfMul a) ++ [0#8])

/-- g(x) without its leading 1 (R333). -/
def rsGen : List Byte := ((List.range 8).foldl (fun p i => polyMulRoot p (gfAlpha i)) [1#8]).take 8

/-- The check symbols C0 to C7 of 64 data symbols at a device address (R333). -/
def rsChecks (addr : Nat) (data : List Byte) : List Byte :=
  let m := List.replicate 8 0#8 ++ data ++ addrSymbols addr
  m.reverse.foldl (rsStep rsGen) (List.replicate 8 0#8)

/-- The 77 coefficients from x^0: checks, data, address. -/
def rsWord (addr : Nat) (data checks : List Byte) : List Byte := checks ++ data ++ addrSymbols addr

/-- The eight syndromes of a received word. -/
def rsSyndromes (w : List Byte) : List Byte := (List.range 8).map (fun i => gfEval (gfAlpha i) w)

/-- Removing the component of locator X from a sequence of syndromes shortens it by one. -/
def rsRemove (x : Byte) : List Byte → List Byte
  | a :: b :: r => (b ^^^ gfMul x a) :: rsRemove x (b :: r)
  | _ => []

/-- The syndromes with the components of all positions removed. -/
def rsRemoveAll (ps : List Nat) (s : List Byte) : List Byte := ps.foldl (fun t p => rsRemove (gfAlpha p) t) s

/-- The error value at position p when the errors lie in ps (p among them) and nowhere else. -/
def rsValue (ps : List Nat) (s : List Byte) (p : Nat) : Byte :=
  let os := ps.filter (· != p)
  let den := os.foldl (fun d q => gfMul d (gfAlpha p ^^^ gfAlpha q)) 1#8
  gfMul ((rsRemoveAll os s).getD 0 0#8) (gfInv den)

/-- What the decoder finds in one codeword (R334). `corrected` lists the corrected positions, 0 to 71, counted as
coefficients: checks 0 to 7, data 8 to 71. -/
inductive RsOutcome where
  | clean
  | corrected (errs : List (Nat × Byte))
  | addressError
  | uncorrectable
  deriving DecidableEq, Repr

/-- The pairs p < q of a list. -/
def pairsOf : List Nat → List (Nat × Nat)
  | [] => []
  | p :: r => r.map (fun q => (p, q)) ++ pairsOf r

/-- The decoder: up to two errors beside the erased positions (R334, R336). -/
def rsDecode (erased : List Nat) (w : List Byte) : RsOutcome :=
  let s := rsSyndromes w
  let zero (l : List Byte) : Bool := l.all (· == 0#8)
  let t := rsRemoveAll erased s
  let fin (ps : List Nat) : RsOutcome :=
    let all := erased ++ ps
    let errs := (all.map (fun p => (p, rsValue all s p))).filter (fun e => e.2 != 0#8)
    if errs.any (fun e => decide (e.1 ≥ 72)) then .addressError
    else if errs.isEmpty then .clean else .corrected errs
  if zero s then .clean
  else if zero t then fin []
  else
    let cand := (List.range 77).filter (fun p => !erased.contains p)
    match cand.find? (fun p => zero (rsRemove (gfAlpha p) t)) with
    | some p => fin [p]
    | none =>
      match (pairsOf cand).find? (fun pq => zero (rsRemove (gfAlpha pq.2) (rsRemove (gfAlpha pq.1) t))) with
      | some pq => fin [pq.1, pq.2]
      | none => .uncorrectable

/-- The coefficient of stored symbol i (R332): data first, then the checks, which are stored complemented. -/
def coefOfStored (i : Nat) : Nat := if i < 64 then i + 8 else i - 64

/-- The stored symbol of a coefficient below 72. -/
def storedOfCoef (p : Nat) : Nat := if p < 8 then p + 64 else p - 8

/-- The three stored symbols of a DQ of a sub-channel (R332). -/
def dqSymbols (sub dq : Nat) : List Nat :=
  let b := 36 * (sub % 2) + 3 * (dq % 12)
  [b, b + 1, b + 2]

/-- The sub-channel and DQ on which a stored symbol travels (R332). -/
def symbolDq (i : Nat) : Nat × Nat := (i / 36, i % 36 / 3)

end Sys2Proof.Machine
end

