-- ==== Sys2Proof/Machine/Requests.lean ====
section
/-!
DEFINITION. Memory requests: the 64 slots of a core and their allocator (R303 to R306), the cache (R308, R309), the home
of a granule after retirements (R329, R348), and reads with the memory code and mirrors (R332 to R345).
-/
namespace Sys2Proof.Machine

/-! ### Homes (R329, R348) -/

/-- STATE of a channel (R354). -/
def chanState (s : State) (c : Nat) : Nat := reg s (Obj.memChanState + c) / 2 ^ 14 % 4

/-- ORDER of a channel (R354). -/
def chanOrder (s : State) (c : Nat) : Nat := reg s (Obj.memChanState + c) / 2 ^ 11 % 8

/-- The retired channels with their reserve parts, newest first (R348). -/
def retirements (s : State) : List (Nat × Nat) :=
  ((List.range 8).reverse).filterMap fun n =>
    ((List.range 128).find? fun c => chanState s c == 2 && chanOrder s c == n).map fun c => (n, c)

/-- Whether a granule lies in a reserve part of a reserve of R parts (R346). -/
def inReserve (r a : Nat) : Bool := decide (memEnd - r * 0x000200000000 ≤ a ∧ a < memEnd)

/-- The granules of reserve part n whose homes lie on channels in service, ascending (R348). -/
def partGranules (n : Nat) (gone : List Nat) : List Nat :=
  ((List.range (2 ^ 25)).map fun i => reservePart n + 256 * i).filter fun a => !gone.contains (homeOf true a).1

/-- The home of a granule after retirements, newest first (R329, R348): a granule whose home lies on the retired channel
takes the unused granule of the part that has its rank among those relocated. -/
def homeAfter (full : Nat → Bool) (r : Nat) : List (Nat × Nat) → Nat → Nat × Nat
  | [], a => homeOf (full a) a
  | (n, c) :: older, a =>
    let h := homeAfter full r older a
    if h.1 ≠ c || inReserve r a then h
    else
      let before := (((List.range (a / 256)).map (256 * ·)).filter fun x =>
        !inReserve r x && (homeAfter full r older x).1 == c).length
      match (partGranules n (c :: older.map Prod.snd))[before]? with
      | some g => homeOf true g
      | none => h

/-- The home of the granule at a device address (R329). -/
def homeAt (s : State) (a : Nat) : Nat × Nat :=
  homeAfter (groupFull s) (reg s Obj.retireReserve) (retirements s) (a / 256 * 256)

/-- The device address whose granule has a home (R329): the inverse of `homeAt`. -/
def granuleOf (s : State) (c i : Nat) : Nat :=
  let a := granuleAt (reg s (Obj.memInterleave + i / 2 ^ 21 % 16) == 0) c i
  if (retirements s).isEmpty || homeAt s a == (c, i) then a
  else (((List.range (2 ^ 32)).map (256 * ·)).find? fun x => homeAt s x == (c, i)).getD a

/-! ### The slot allocator (R303 to R305) -/

/-- The runs of a descriptor's elements, address and length: its rows. -/
def dataRuns (d : Desc) : List (Nat × Nat) :=
  if d.kind = 1 then [(d.base, d.dim0)] else (List.range d.rows).map fun i => (d.rowAddr i, d.rowBytes)

/-- The runs of a descriptor: its rows and its scale plane. -/
def descRuns (d : Desc) : List (Nat × Nat) := dataRuns d ++ (if d.planeBytes = 0 then [] else [(d.splane, d.planeBytes)])

/-- A list without repeats of neighbours. -/
def dropRepeats : List Nat → List Nat
  | a :: b :: r => if a = b then dropRepeats (b :: r) else a :: dropRepeats (b :: r)
  | l => l

/-- The requests of one operation on runs of bytes, one for each granule of module memory in their order (R303). -/
def runRequests (idx : Nat) (q : Queue) (write : Bool) (runs : List (Nat × Nat)) : List Request :=
  (dropRepeats ((runs.flatMap fun r => granulesOf r.1 r.2).filter fun a => decide (a < memEnd))).map fun a =>
    { op := idx, unit := q, addr := a, write := write }

/-- The requests of one operation on one descriptor. -/
def requestsOf (idx : Nat) (q : Queue) (write : Bool) (d : Desc) : List Request := runRequests idx q write (descRuns d)

/-- Slots of a core on a bank group (R305). -/
def onBank (s : State) (c : CoreState) (b : Nat) : Nat :=
  (c.slots.filter fun x => let h := homeAt s x.req.addr; bgi h.1 h.2 == b).length

/-- The streams of a core in round-robin order after the unit granted last (R304). -/
def streamOrder (c : CoreState) : List Nat := (List.range 13).map fun i => (c.lastUnit + 1 + i) % 13

/-- The first request of a stream. -/
def firstOf (c : CoreState) (u : Nat) : Option Request := c.reqs.find? fun r => r.unit.num == u

/-- Whether a request's bank group has room for the core (R305). -/
def hasRoom (s : State) (c : CoreState) (r : Request) : Bool := let h := homeAt s r.addr; decide (onBank s c (bgi h.1 h.2) < 24)

/-- The first request of a unit marked as held. -/
def markHeld (u : Nat) : List Request → List Request
  | [] => []
  | r :: rs => if r.unit.num = u then { r with held := true } :: rs else r :: markHeld u rs

/-- Streams whose first request is held by the bank-group cap for the first time are counted in HOTSPOT (R305). -/
def countHeld (s : State) (l : Core) : State :=
  (List.range 13).foldl (fun t u =>
    let c := coreOf t l
    match firstOf c u with
    | some r =>
      if r.held || hasRoom t c r then t
      else bump (modCore t l fun c => { c with reqs := markHeld u c.reqs }) (Obj.hotspot + l.val) 1
    | none => t) s

/-- Slots granted, one stream after another, while a slot is free and some stream's first request has room (R304). -/
def grant (l : Core) : Nat → State → State
  | 0, s => s
  | n + 1, s =>
    let s := countHeld s l
    let c := coreOf s l
    if c.slots.length ≥ 64 then s
    else match ((streamOrder c).filterMap (firstOf c)).find? (hasRoom s c) with
      | none => s
      | some r => grant l n (modCore s l fun c =>
          { c with reqs := c.reqs.erase r, slots := c.slots ++ [{ req := r, since := s.clk }], lastUnit := r.unit.num })

/-- Requests handed to the allocator (R304). -/
def ask (s : State) (l : Core) (rs : List Request) : State :=
  grant l ((coreOf s l).reqs.length + rs.length) (modCore s l fun c => { c with reqs := c.reqs ++ rs })

/-- The requests of an operation on runs of bytes in module memory (R303). -/
def askRuns (s : State) (l : Core) (idx : Nat) (q : Queue) (write : Bool) (runs : List (Nat × Nat)) : State :=
  ask s l (runRequests idx q write runs)

/-! ### The cache (R308, R309) -/

/-- The lines of a set. -/
def setLines (ls : List (Nat × List Nat)) (i : Nat) : List Nat := ((ls.find? fun x => x.1 == i).map Prod.snd).getD []

/-- The lines of a set replaced. -/
def putLines (ls : List (Nat × List Nat)) (i : Nat) (v : List Nat) : List (Nat × List Nat) :=
  (i, v) :: (ls.filter fun x => x.1 != i)

/-- A line made the most recently used of its set, in 8 ways (R308). -/
def useLine (ls : List (Nat × List Nat)) (line : Nat) : List (Nat × List Nat) :=
  let i := line % 512
  putLines ls i ((line :: ((setLines ls i).filter (· != line))).take 8)

/-- One cached read of a 64-byte line: its hit or miss is counted, and a miss takes one slot for the 256 bytes around
it and fills their four lines (R308). -/
def cacheLine (s : State) (l : Core) (idx : Nat) (q : Queue) (line : Nat) : State :=
  let c := coreOf s l
  if (setLines c.lines (line % 512)).contains line then
    bump (modCore s l fun c => { c with lines := useLine c.lines line }) (Obj.cacheHits + l.val) 1
  else
    let g := line / 4 * 4
    let s := bump (modCore s l fun c => { c with
      lines := useLine ([g, g + 1, g + 2, g + 3].foldl useLine c.lines) line }) (Obj.cacheMisses + l.val) 1
    ask s l [{ op := idx, unit := q, addr := line * 64 / 256 * 256, write := false }]

/-- The lines of a span. -/
def linesOf (a n : Nat) : List Nat := if n = 0 then [] else (List.range ((a + n - 1) / 64 - a / 64 + 1)).map (a / 64 + ·)

/-- The reads of runs of a cached tensor (R308, R309): its span becomes a cache window; with no comparator free the reads
use slots directly. -/
def readCached (s : State) (l : Core) (idx : Nat) (q : Queue) (d : Desc) (runs : List (Nat × Nat)) : State :=
  let w := (d.base, d.spanBytes)
  let c := coreOf s l
  let known := c.windows.contains w
  if !known && comparators c ≥ 64 then askRuns s l idx q false runs
  else
    let s := if known then s else modCore s l fun c => { c with windows := c.windows ++ [w] }
    ((runs.filter fun r => decide (r.1 < memEnd)).flatMap fun r => linesOf r.1 r.2).foldl
      (fun t x => cacheLine t l idx q x) s

/-- The reads of runs of a descriptor: those of a CACHED tensor pass through the cache (R308). -/
def readRuns (s : State) (l : Core) (idx : Nat) (q : Queue) (d : Desc) (runs : List (Nat × Nat)) : State :=
  if d.cached && d.kind == 0 then readCached s l idx q d runs else askRuns s l idx q false runs

/-- An operation's reads and writes become requests of the core (R303, R308). -/
def traffic (s : State) (l : Core) (idx : Nat) (q : Queue) (reads writes : List Desc) : State :=
  let s := reads.foldl (fun t d => readRuns t l idx q d (descRuns d)) s
  ask s l (writes.flatMap (requestsOf idx q true))

/-- The cache emptied and its windows released (R309). -/
def invalidateCache (s : State) (l : Core) : State := modCore s l fun c => { c with lines := [], windows := [] }

/-! ### Codewords (R332 to R336) -/

/-- The device address under which the home of a granule was last written (R328): its own, or the address that the
other mode gives the home. -/
def writtenAs (s : State) (g : Nat) : Nat :=
  let full := groupFull s g
  let own := if full then !s.ras.localMode.contains g else s.ras.localMode.contains g
  if own && !s.ras.clobbered.contains g then g
  else let h := homeOf full g; granuleAt (!full) h.1 h.2

/-- Positions erased by the marked DQ of a channel (R336). -/
def erasures (s : State) (c : Nat) : List Nat :=
  if chanState s c = 1 then
    let v := reg s (Obj.memChanState + c)
    (dqSymbols (v / 2 ^ 10 % 2) (v / 2 ^ 6 % 16)).map coefOfStored
  else []

/-- An error value added at a position. -/
def addAt (l : List Byte) (i : Nat) (e : Byte) : List Byte := l.modify i (· ^^^ e)

/-- The word that a read of codeword k of a granule receives: the stored symbols with their errors, and the address
symbols of the request (R333). -/
def received (s : State) (g k : Nat) (errs : List SymErr) : List Byte :=
  let src := writtenAs s g + 64 * k
  let data := readBytes s src 64
  let stored := ((s.ras.bad.find? fun x => x.1 == g + 64 * k).map Prod.snd).getD []
  let coefs := rsChecks src data ++ data
  let coefs := stored.foldl (fun w e => addAt w (coefOfStored e.1) e.2) coefs
  let coefs := (errs.filter fun e => e.1.val == k).foldl (fun w e => addAt w (coefOfStored e.2.1.val) e.2.2) coefs
  coefs ++ addrSymbols (g + 64 * k)

/-- The data that the decoder gives for a word and an outcome. -/
def decoded (w : List Byte) : RsOutcome → List Byte
  | .corrected errs => ((errs.foldl (fun v e => addAt v e.1 e.2) w).drop 8).take 64
  | _ => (w.drop 8).take 64

/-! ### The memory error log (R337, R338) -/

/-- An entry of the memory error log. -/
def memLog (s : State) (a : Nat) (h : Nat × Nat) (outcome sym0 sym1 req : Nat) : State :=
  let entry := leBytes 8 (ptpNow s) ++ leBytes 8 (a / 64 * 64) ++ leBytes 1 h.1 ++ leBytes 1 (rankOf h.2)
    ++ leBytes 1 (bankGroupOf h.2 * 4 + bankOf h.2) ++ leBytes 1 outcome ++ leBytes 4 (rowOf h.2)
    ++ leBytes 1 sym0 ++ leBytes 1 sym1 ++ leBytes 2 req ++ leBytes 4 0
  let i := reg s Obj.memErrHead
  setReg (setReg s (Obj.memErrLog + i % 64) (ofLE entry)) Obj.memErrHead ((i + 1) % 64)

/-- A count kept by a key, advanced. -/
def tally (l : List (Nat × Nat)) (k : Nat) : List (Nat × Nat) :=
  match l.find? fun x => x.1 == k with
  | some x => (k, x.2 + 1) :: (l.filter fun y => y.1 != k)
  | none => (k, 1) :: l

/-- The DQ on which every corrected symbol lies, when there is one (R336). -/
def oneDq (syms : List Nat) : Option Nat :=
  match syms.map fun i => 12 * (symbolDq i).1 + (symbolDq i).2 with
  | [] => none
  | d :: r => if r.all (· == d) then some d else none

/-- A channel declared failed (R347). -/
def declareFailed (s : State) (c : Nat) : State :=
  if s.ras.failing.contains c || chanState s c == 2 then s
  else { s with ras := { s.ras with failing := s.ras.failing ++ [c] } }

/-- A DQ that reached DQ_MARK_LIMIT within the pass (R336): the first of a channel is marked, a second declares the
channel failed. -/
def markDq (s : State) (c dq : Nat) : State :=
  let v := reg s (Obj.memChanState + c)
  match chanState s c with
  | 0 => { setReg s (Obj.memChanState + c) (2 ^ 14 + (dq / 12) * 2 ^ 10 + (dq % 12) * 2 ^ 6) with
           recov := { s.recov with storeDue := true } }
  | 1 => if v / 2 ^ 10 % 2 * 12 + v / 2 ^ 6 % 16 = dq then s else declareFailed s c
  | _ => s

/-- A corrected codeword counted (R334, R336, R341): MEM_CE, the pass, the one-DQ corrections of the pass. -/
def countCorrected (s : State) (c : Nat) (syms : List Nat) : State :=
  let s := bump s (Obj.memCe + c) 1
  let s := { s with ras := { s.ras with passCe := tally s.ras.passCe c } }
  match oneDq syms with
  | none => s
  | some d =>
    let n := ((s.ras.dqHits.find? fun x => x.1 == c && x.2.1 == d).map fun x => x.2.2).getD 0 + 1
    let s := { s with ras := { s.ras with
      dqHits := (c, d, n) :: (s.ras.dqHits.filter fun x => !(x.1 == c && x.2.1 == d)) } }
    if reg s Obj.dqMarkLimit ≤ n then markDq s c d else s

/-- An uncorrectable granule remembered for R347: 8 at distinct addresses within 100 µs declare the channel failed. -/
def noteUncorrectable (s : State) (c g : Nat) : State :=
  let recent := (s.ras.ues.filter fun x => !elapsed s x.2.2 100001 && !(x.1 == c && x.2.1 == g)) ++ [(c, g, s.clk)]
  let s := { s with ras := { s.ras with ues := recent } }
  if (recent.filter fun x => x.1 == c).length ≥ 8 then declareFailed s c else s

/-- Symbols of a codeword that are in error (R334). -/
def errorCount (s : State) (g k : Nat) (errs : List SymErr) : Nat :=
  let src := writtenAs s g + 64 * k
  let data := readBytes s src 64
  (((received s g k errs).zip (rsChecks src data ++ data ++ addrSymbols src)).filter fun p => p.1 != p.2).length

/-- An uncorrectable error stays in memory until the granule is written (R337, log 130: DEDUCED). -/
def keepError (s : State) (a : Nat) (errs : List (Nat × Byte)) : State :=
  let old := ((s.ras.bad.find? fun x => x.1 == a).map Prod.snd).getD []
  if errs.isEmpty then s
  else { s with ras := { s.ras with bad := (a, old ++ errs) :: s.ras.bad.filter fun x => x.1 != a } }

/-- One codeword of a granule read (R334): the counters and the log of what is not clean, the decoded data, and whether
it is in error. A miscorrected one moves no counter (R334, R335, log 131: DEDUCED). -/
def readCodeword (s : State) (g k : Nat) (errs : List SymErr) (req : Nat) : State × List Byte × Bool :=
  let h := homeAt s g
  let w := received s g k errs
  let o := rsDecode (erasures s h.1) w
  let a := g + 64 * k
  match o with
  | .clean => (s, decoded w o, false)
  | .corrected es =>
    let syms := es.map fun e => storedOfCoef e.1
    let s := if errorCount s g k errs ≥ 7 then s else countCorrected s h.1 syms
    let s := memLog s a h (if es.length = 1 then 0 else 1) (syms.getD 0 0xFF) (syms.getD 1 0xFF) req
    (reportFault s 0x01 0 a 0 (h.1 / 32) h.1, decoded w o, false)
  | .addressError => (memLog (bump s (Obj.memAddrErr + h.1) 1) a h 3 0xFF 0xFF req, [], true)
  | .uncorrectable =>
    let s := keepError s a ((errs.filter fun e => e.1.val == k).map fun e => (e.2.1.val, e.2.2))
    (noteUncorrectable (memLog (bump s (Obj.memUe + h.1) 1) a h 2 0xFF 0xFF req) h.1 g, [], true)

/-- One granule read from one copy (R334, R337, R344, R349): its data, or none for an error response. -/
def readCopy (s : State) (g : Nat) (errs : List SymErr) (req : Nat) : State × Option (List Byte) :=
  if s.ras.lost.contains g then (memLog s g (homeAt s g) 6 0xFF 0xFF req, none)
  else if s.ras.suspect.contains g then (s, none)
  else
    let r := (List.range 4).foldl (fun (acc : State × List Byte × Bool) k =>
      let x := readCodeword acc.1 g k errs req
      (x.1, acc.2.1 ++ x.2.1, acc.2.2 || x.2.2)) (s, [], false)
    (r.1, if r.2.2 then none else some r.2.1)

/-- Two decodable copies that differ (R344): the granule is suspect and E_DIVERGE is an unmasked fault. -/
def diverge (s : State) (g req : Nat) : State :=
  let s := { s with ras := { s.ras with suspect := if s.ras.suspect.contains g then s.ras.suspect else g :: s.ras.suspect } }
  let s := bump s Obj.mirrorDiverge 1
  let h := homeAt s g
  let s := memLog s g h 5 0xFF 0xFF req
  reportFault s 0x0D 1 g eDIVERGE (h.1 / 32) h.1

/-- A read served by the mirror, and the primary rewritten with its data (R344). -/
def repairPrimary (s : State) (g : Nat) (data : List Byte) (req : Nat) : State :=
  let h := homeAt s g
  let s := freshGranule { s with mem := memWrite s.mem g data } g 256 g
  let s := bump s Obj.mirrorRepair 1
  let s := memLog s g h 4 0xFF 0xFF req
  reportFault s 0x02 0 g 0 (h.1 / 32) h.1

/-- Whether the retirement of a channel relocated a granule (R348): its home lay on the channel after the retirements
before. -/
def relocatedBy (s : State) (c g : Nat) : Bool :=
  let older := ((retirements s).dropWhile fun x => x.2 != c).tail
  (homeAfter (groupFull s) (reg s Obj.retireReserve) older (g / 256 * 256)).1 == c

/-- Whether a granule's new home waits for its rebuild (R349). -/
def awaitsRebuild (s : State) (g : Nat) : Bool := s.ras.rebuilding.any fun c => relocatedBy s c g

/-- A granule read (R334, R344, R345, R349): from the primary, from the mirror when it errs or waits for its rebuild, and
from both in verify mode. None is an error response. -/
def readGranule (s : State) (g : Nat) (errs mErrs : List SymErr) (req : Nat) : State × Option (List Byte) :=
  if !isMirrored s g || s.ras.suspect.contains g then readCopy s g errs req
  else
    let m := mirrorOf (groupFull s g) g
    if awaitsRebuild s g then readCopy s m mErrs req
    else
      let (s1, p) := readCopy s g errs req
      match p with
      | some d =>
        if reg s Obj.mirrorVerify = 0 || awaitsRebuild s m then (s1, some d)
        else match readCopy s1 m mErrs req with
          | (s2, some e) => if d = e then (s2, some d) else (diverge s2 g req, none)
          | (s2, none) => (s2, some d)
      | none =>
        match readCopy s1 m mErrs req with
          | (s2, some e) => (repairPrimary s2 g e req, some e)
          | (s2, none) => (s2, none)

/-! ### Responses, acknowledgements and timeouts -/

/-- A slot freed, and the streams that waited served (R304, R305). -/
def freeSlot (s : State) (l : Core) (i : Nat) : State :=
  let n := (coreOf s l).reqs.length
  grant l n (modCore s l fun c => { c with slots := c.slots.eraseIdx i })

/-- An operation that faulted makes no further request and holds no slot; the streams that waited are served (R304). -/
def dropRequests (s : State) (l : Core) (idx : Nat) : State :=
  grant l (coreOf s l).reqs.length (modCore s l fun c =>
    { c with reqs := c.reqs.filter fun r => r.op != idx, slots := c.slots.filter fun x => x.req.op != idx })

/-- MEM_READ_RESPONSE (R334, R307): the read in slot i of a core returns. `errs` and `mErrs` are the symbol errors that
the transfer of the granule and of its mirror meets. An error response faults the operation with E_UNCORR. -/
def execMemReadResponse (l : Core) (i : Nat) (errs mErrs : List SymErr) (s : State) :
    Host.Outcome State Fault Refusal :=
  match (coreOf s l).slots[i]? with
  | none => .next s
  | some x =>
    if x.req.write then .next s
    else
      let r := readGranule s x.req.addr errs mErrs l.val
      match r.2 with
      | some _ => .next (freeSlot r.1 l i)
      | none => .next (opFault (dropRequests (freeSlot r.1 l i) l x.req.op) l x.req.unit x.req.op 0 x.req.addr eUNCORR 0x03)

/-- MEM_WRITE_ACK (R304, R343): the controller acknowledges the write in slot i, both copies of a mirrored granule, and
the slot is freed. -/
def execMemWriteAck (l : Core) (i : Nat) (s : State) : Host.Outcome State Fault Refusal :=
  match (coreOf s l).slots[i]? with
  | none => .next s
  | some x => if x.req.write then .next (freeSlot s l i) else .next s

/-- MEM_REQUEST_TIMEOUT (R306, R314): the request in slot i has waited 50 µs. `late` says that its answer registers in
the same cycle: it is accepted and counted; otherwise the operation faults with E_TIMEOUT. -/
def execMemRequestTimeout (l : Core) (i : Nat) (late : Bool) (s : State) : Host.Outcome State Fault Refusal :=
  match (coreOf s l).slots[i]? with
  | none => .next s
  | some x =>
    if !elapsed s x.since 50000 then .next s
    else if late then
      let s := lateAccept s 1
      if x.req.write then execMemWriteAck l i s else execMemReadResponse l i [] [] s
    else .next (opFault (dropRequests s l x.req.op) l x.req.unit x.req.op 0 x.req.addr eTIMEOUT 0x10)

end Sys2Proof.Machine
end

