-- ==== Sys2Proof/Machine/Phases.lean ====
section
/-!
DEFINITION. Phases in time and their stretches (R316, R382, R383, R412 to R424), micro-batch marks (R205) and the step
close (R28).
-/
namespace Sys2Proof.Machine

/-! ### The rank map (R384) -/

/-- Entry 2 × rank + path of the rank map as stored bytes' number. -/
def rankEntry (s : State) (rank path : Nat) : Nat := reg s (Obj.rankMap + 2 * rank + path)

/-- LOST of a rank (R381, R384). -/
def rankLost (s : State) (rank : Nat) : Bool := bitOf (rankEntry s rank 0 / 2 ^ 200 % 256) 1

/-- The rank that the module holds. -/
def ownRank (s : State) : Nat := reg s Obj.ownRank

/-! ### Times of phases (R412, R414) -/

/-- START of a phase. -/
def phaseAt (s : State) (ph : Nat) : PhaseEntry := s.job.phases.getD ph { start := 0, base := 0, reserve := 0 }

/-- T of R414 for a step and a phase with q quanta applied before it. -/
def phaseTime (s : State) (step ph q : Nat) : Nat :=
  reg s Obj.jobT0 + (step - reg s Obj.jobS0) * reg s Obj.stepPeriod + (phaseAt s ph).start + 10000 * q

/-- The quanta of the applied sum of a phase: the largest of the sums per origin (R419). -/
def appliedQuanta (s : State) (step ph : Nat) : Nat :=
  ((s.job.sums.filter fun x => x.step == step && x.phase == ph).map StretchSum.quanta).foldl max 0

/-- The sum of one origin for a phase (R419). -/
def originSum (s : State) (step ph origin : Nat) : Nat :=
  ((s.job.sums.find? fun x => x.step == step && x.phase == ph && x.origin == origin).map StretchSum.quanta).getD 0

/-- The current start of a phase of the running step (R414). -/
def currentStart (s : State) (ph : Nat) : Nat := phaseTime s s.job.step ph (s.job.shifts.getD ph 0)

/-- The current start of phase 0 of the next step (R414). -/
def nextStepStart (s : State) : Nat := phaseTime s (s.job.step + 1) 0 s.job.nextShift

/-- The current slot end of a phase of the running step (R412, R419). -/
def slotEnd (s : State) (ph : Nat) : Nat :=
  currentStart s ph + (phaseAt s ph).base + (phaseAt s ph).reserve + 10000 * appliedQuanta s s.job.step ph

/-- The current start of the phase after ph: phase 0 of the next step after the last (R418). -/
def followingStart (s : State) (ph : Nat) : Nat :=
  if ph + 1 < s.job.phases.length then currentStart s (ph + 1) else nextStepStart s

/-! ### Stretches (R418 to R423) -/

/-- Quanta added to an origin's sum of a phase. -/
def addSum (s : State) (step ph origin q : Nat) : State :=
  { s with job := { s.job with sums :=
      { step := step, phase := ph, origin := origin, quanta := originSum s step ph origin + q } ::
      (s.job.sums.filter fun x => !(x.step == step && x.phase == ph && x.origin == origin)) } }

/-- The shifts of the running step's phases after n more quanta in a phase of a step (R419): phases after it in the
running step, or every phase when the step is the one before, that have not opened; and every later step. A step still
to come is shifted when it begins. -/
def applyShift (s : State) (step ph n : Nat) : State :=
  if step > s.job.step then s
  else
    let after := fun i => step < s.job.step || decide (ph < i)
    let hit := (List.range s.job.phases.length).filter fun i => after i && !s.job.opened.contains i
    let pre := if step = s.job.step then
        ((List.range s.job.phases.length).filter fun i => decide (ph < i) && s.job.opened.contains i).length
      else 0
    let s := { s with job := { s.job with
      shifts := (s.job.shifts.zipIdx).map fun (q, i) => if hit.contains i then q + n else q
      nextShift := s.job.nextShift + n } }
    bumpIf s (pre != 0) Obj.stretchPreopened pre

/-- A request registered (R419, R423): discarded from a lost rank, for a step before the step before the current one or
a phase outside the table; otherwise its origin's sum grows and a raise of the applied quanta shifts phases. -/
def registerStretch (s : State) (step ph origin q : Nat) : State :=
  if rankLost s origin ∨ ph ≥ s.job.phases.length ∨ step + 1 < s.job.step then bump s Obj.stretchDiscard 1
  else
    let a := appliedQuanta s step ph
    let s := addSum s step ph origin q
    let n := appliedQuanta s step ph - a
    if n = 0 then s
    else
      let s := bump (bump s Obj.stretchApplied 1) Obj.shiftTotal n
      applyShift { s with job := { s.job with stepQuanta := s.job.stepQuanta + n } } step ph n

/-- The ranks that an origin's packet goes to (R383). -/
def originTargets (s : State) : List Nat :=
  let n := reg s Obj.jobModules
  let offs := ((List.range 128).map fun d1 => 256 * (d1 + 1)) ++ ((List.range 255).map fun d0 => d0 + 1)
  (offs.filter fun o => decide (o < n)).map fun o => (ownRank s + o) % n

/-- One request of at most 255 quanta sent to the job and to the module's own rank (R418). -/
def sendOne (s : State) (step ph q : Nat) (emerg : Bool) : State :=
  let m : StretchMsg := { origin := ownRank s, emerg := emerg, quanta := q, reqId := s.net.stretchId, step := step, phase := ph }
  let s := { s with net := { s.net with stretchId := (s.net.stretchId + 1) % 2 ^ 32 } }
  let s := send s (.stretch (originTargets s) m)
  let s := bumpIf (bump s Obj.stretchSent 1) emerg Obj.stretchEmerg 1
  registerStretch s step ph (ownRank s) q

/-- A request of q quanta in pieces of at most 255 (R418). -/
def sendPieces (step ph : Nat) (emerg : Bool) : Nat → Nat → State → State
  | 0, _, s => s
  | n + 1, q, s => if q = 0 then s else sendPieces step ph emerg n (q - 255) (sendOne s step ph (min q 255) emerg)

/-- A request for n quanta more in a phase (R418): q = A + n − O, and none when that is not positive. -/
def requestStretch (s : State) (step ph n : Nat) (emerg : Bool) : State :=
  let q := appliedQuanta s step ph + n - originSum s step ph (ownRank s)
  sendPieces step ph emerg (q / 255 + 1) q s

/-- Quanta of 10 µs that cover a time (R418). -/
def quantaFor (ns : Nat) : Nat := (ns + 9999) / 10000

/-- R418 for a projected end of a phase of the running step: a normal request while the lead time remains, an emergency
request later. -/
def projectPhase (s : State) (ph e : Nat) : State :=
  let z := slotEnd s ph
  if e ≤ z then s
  else
    let lead := reg s Obj.stretchLead
    if ptpNow s + lead ≤ followingStart s ph then requestStretch s s.job.step ph (quantaFor (e - z)) false
    else requestStretch s s.job.step ph (quantaFor (e - z + lead)) true

/-- The projection of a core after a delay (R108, R418). `e` is the PTP time at which the core projects its phase to
end, when its scheduler projects one. -/
def projectEnd (s : State) (l : Core) (e : Option Nat) : State :=
  match e, (coreOf s l).openPhase with
  | some t, some ph => projectPhase s ph t
  | _, _ => s

/-- The emergency request of a late arrival of phase ph (R420): for the phase before it, or the last phase of the
previous step; none for phase 0 of step JOB_S0. -/
def lateRequest (s : State) (ph late : Nat) : State :=
  let n := quantaFor (late + reg s Obj.stretchLead)
  if ph ≠ 0 then requestStretch s s.job.step (ph - 1) n true
  else if s.job.step = reg s Obj.jobS0 then s
  else requestStretch s (s.job.step - 1) (s.job.phases.length - 1) n true

/-- The shifts with which a step begins (R419): those of every later step, and after each phase the quanta already
requested for it. -/
def beginShifts (s : State) (step : Nat) : State :=
  let own := (List.range s.job.phases.length).map fun i => appliedQuanta s step i
  let starts := (List.range s.job.phases.length).map fun i => s.job.nextShift + (own.take i).foldl (· + ·) 0
  { s with job := { s.job with
      shifts := starts, nextShift := s.job.nextShift + own.foldl (· + ·) 0, opened := [], stepQuanta := 0
      sums := s.job.sums.filter fun x => decide (step ≤ x.step + 1) } }

/-- A received stretch request (R382, R383, R419): one that is no duplicate is applied and, by a module at d0 = 0 with
d1 ≥ 1, forwarded to the offsets after it. -/
def takeStretch (m : StretchMsg) (s : State) : State :=
  if !inJob s || s.net.seenStretch.contains (m.origin, m.reqId) then s
  else
    let n := reg s Obj.jobModules
    let o := (ownRank s + n - m.origin % max n 1) % max n 1
    let s := { s with net := { s.net with seenStretch := (m.origin, m.reqId) :: s.net.seenStretch } }
    let s := if !m.forwarded ∧ o / 256 ≥ 1 ∧ o % 256 = 0 then
        let targets := (((List.range 255).map fun d => o + d + 1).filter fun x => decide (x < n)).map fun x => (m.origin + x) % n
        send s (.stretch targets { m with forwarded := true })
      else s
    if executing s then registerStretch s m.step m.phase m.origin m.quanta else s

/-- HELD_BOUNDARY_STRETCH (R421): while a pause or the data fetch holds the boundary, phase 0 of the next step comes
within STRETCH_LEAD and an emergency request of 255 quanta for the last phase is sent. -/
def execHeldBoundaryStretch (s : State) : Host.Outcome State Fault Refusal :=
  if s.job.held && decide (nextStepStart s ≤ ptpNow s + reg s Obj.stretchLead) then
    .next (sendOne s s.job.step (s.job.phases.length - 1) 255 true)
  else .next s

/-! ### Phase marks (R316) -/

/-- A phase mark issues and completes in the ac of issue (R296): its tokens are set. -/
def markIssue (s : State) (l : Core) (idx : Nat) (w : BitVec 256) : State :=
  setTokens (issue s l idx w .pmark false) l (opSets w)

/-- A phase mark of a kind that can issue now, as its word. -/
def markReady (s : State) (l : Core) (idx kind : Nat) : Option (BitVec 256) :=
  match streamWord s l idx with
  | none => none
  | some w => if canIssue s l idx w .pmark && opImm w 3 0 == kind then some w else none

/-- The phase that a mark names (R286). -/
def markPhase (w : BitVec 256) : Nat := opImm w 31 16

/-- Whether a phase may open now (R316, R414, R416): a TIMED phase waits for its current start, and the first open of
step JOB_S0 for PTP_STATE LOCKED. -/
def phaseMayOpen (s : State) (ph : Nat) : Bool :=
  (!(phaseAt s ph).timed || decide (currentStart s ph ≤ ptpNow s))
  && (!(s.job.step == reg s Obj.jobS0 && s.job.opened.isEmpty)
      || (reg s Obj.ptpState == 2 && decide (reg s Obj.jobT0 ≤ ptpNow s)))

/-- PHASE_OPEN (R316, R414 to R420): a phase-open mark issues no earlier than the phase's current start; later, it is a
late arrival. -/
def execPhaseOpen (l : Core) (idx : Nat) (s : State) : Host.Outcome State Fault Refusal :=
  match markReady s l idx 0 with
  | none => .next s
  | some w =>
    let ph := markPhase w
    if !phaseMayOpen s ph then .next s
    else
      let late := ptpNow s - currentStart s ph
      let isLate := (phaseAt s ph).timed && decide (late > 0)
      let s := modCore (markIssue s l idx w) l fun c => { c with openPhase := some ph }
      let s := { s with job := { s.job with
        opened := if s.job.opened.contains ph then s.job.opened else ph :: s.job.opened } }
      .next (if isLate then lateRequest (bump s Obj.lateOpens 1) ph late else s)

/-- A request for a phase whose projected end lies d after its slot end (R418): normal while the lead time remains before `next`, an
emergency later. Where d is 0 it asks for one quantum, once (log 135: DESIGN CHOICE). -/
def requestBy (s : State) (step ph d next : Nat) : State :=
  let lead := reg s Obj.stretchLead
  if d = 0 ∧ originSum s step ph (ownRank s) ≠ 0 then s
  else if ptpNow s + lead ≤ next then requestStretch s step ph (max 1 (quantaFor d)) false
  else requestStretch s step ph (max 1 (quantaFor (d + lead))) true

/-- The stretch of the phase after a data-fetch phase whose shards are not on the module when it closes (R30): that phase is phase
0 of the next step after the last. `e` is the end of that phase as the service projects it; without one, or with one inside the
slot, d is 0 (log 135: DESIGN CHOICE). -/
def stretchFetch (s : State) (ph : Nat) (e : Option Nat) : State :=
  if ph + 1 < s.job.phases.length then
    requestBy s s.job.step (ph + 1) (e.getD 0 - slotEnd s (ph + 1)) (followingStart s (ph + 1))
  else
    let t := s.job.step + 1
    let q := appliedQuanta s t 0
    let z := nextStepStart s + (phaseAt s 0).base + (phaseAt s 0).reserve + 10000 * q
    let next := if 1 < s.job.phases.length then phaseTime s t 1 (s.job.nextShift + q) else phaseTime s (t + 1) 0 (s.job.nextShift + q)
    requestBy s t 0 (e.getD 0 - z) next

/-- Condition 4 of R28, when a data-fetch phase closes (R30): the shards are fetched, and every entry of one counts as written. -/
def shardsLogged (s : State) : Bool := s.net.fetchDone && (s.recov.waiting ++ s.recov.log).all fun x => x.kind != 1 || x.acked

/-- PHASE_CLOSE (R299, R316, R30, R397): issues after every earlier operation completes. The close of the admission
phase ends admission to the next step; the close of a data-fetch phase before the shards are fetched and their entries written
stretches the next phase, in hardware mode. -/
def execPhaseClose (l : Core) (idx : Nat) (e : Option Nat) (s : State) : Host.Outcome State Fault Refusal :=
  match markReady s l idx 1 with
  | none => .next s
  | some w =>
    let ph := markPhase w
    let k := (phaseAt s ph).kind
    let s := modCore (markIssue s l idx w) l fun c => { c with openPhase := none }
    let s := if k = 5 then { s with net := { s.net with admitClosed := true } } else s
    if k = 2 ∧ !shardsLogged s ∧ reg s Obj.fetchMode = 0 then .next (stretchFetch s ph e)
    else .next s

/-- The index of the slot that a lag selects (R203, R204). -/
def lagSlot (s : State) (lag : Nat) : Option Nat :=
  (lagVersion s lag).bind fun v => s.num.slots.findIdx? fun x => x.version == v && (x.state == .current || x.state == .held)

/-- A version slot changed. -/
def modSlot (s : State) (i : Nat) (f : VSlot → VSlot) : State :=
  { s with num := { s.num with slots := s.num.slots.modify i f } }

/-- A mark whose lag selects a version that no slot holds (R208). -/
def markVersionFault (s : State) (l : Core) (idx : Nat) : State :=
  opFault (bump s Obj.versionFaults 1) l .sched idx 0 0 eSCHED 0x10

/-- MICROBATCH_OPEN (R205): REFS of the slot that the mark's lag selects is incremented. -/
def execMicrobatchOpen (l : Core) (idx : Nat) (s : State) : Host.Outcome State Fault Refusal :=
  match markReady s l idx 2 with
  | none => .next s
  | some w =>
    match lagSlot s (opImm w 5 4) with
    | none => .next (markVersionFault s l idx)
    | some i => .next (modSlot (markIssue s l idx w) i fun x => { x with refs := x.refs + 1 })

/-- A reference released (R203, R205): a HELD slot becomes FREE when its REFS reaches 0. -/
def VSlot.release (x : VSlot) : VSlot :=
  { x with refs := x.refs - 1, state := if x.state = .held ∧ x.refs ≤ 1 then .free else x.state }

/-- MICROBATCH_CLOSE (R205): REFS of the slot is decremented, or the mark faults with E_SCHED when it is 0. -/
def execMicrobatchClose (l : Core) (idx : Nat) (s : State) : Host.Outcome State Fault Refusal :=
  match markReady s l idx 3 with
  | none => .next s
  | some w =>
    match lagSlot s (opImm w 5 4) with
    | none => .next (markVersionFault s l idx)
    | some i =>
      if (s.num.slots.getD i {}).refs = 0 then .next (opFault (bump s Obj.versionFaults 1) l .sched idx 3 idx eSCHED 0x10)
      else .next (modSlot (markIssue s l idx w) i VSlot.release)

/-- STEP_CLOSE (R28, R316): the closing mark of the step retires on a core. -/
def execStepClose (l : Core) (idx : Nat) (s : State) : Host.Outcome State Fault Refusal :=
  match markReady s l idx 4 with
  | none => .next s
  | some w => .next (modCore (markIssue s l idx w) l fun c => { c with closed := true, openPhase := none })

end Sys2Proof.Machine
end

