-- ==== Sys2Proof/Machine/Cores.lean ====
section
/-!
DEFINITION. Physical and logical cores: placement, retirement and the move of a logical core (R20 to R23, R107, R429).
-/
namespace Sys2Proof.Machine

/-- Physical cores of a die, ascending (R16, R20). -/
def dieCores (d : Nat) : List Nat := (List.range 34).map fun i => 34 * d + i

/-- Logical cores that a physical core hosts, ascending. -/
def hosted (s : State) (p : Nat) : List Core := allCores.filter fun l => reg s (Obj.logicalCoreMap + l.val) == p

/-- ACTIVE_PHYS_COUNT (R22): physical cores that run at least one logical core. -/
def activePhysCount (s : State) : Nat :=
  ((List.range 136).filter fun p => !(hosted s p).isEmpty).length

/-- Where a logical core of die d moves from physical core p (R21): a spare of the die, the one of lower index
when two remain (log 118: DESIGN CHOICE), else the active core of the die with the lowest index that hosts one logical core. -/
def moveTarget (s : State) (d p : Nat) : Option Nat :=
  match (dieCores d).find? fun q => q != p && reg s (Obj.physCoreState + q) == 1 with
  | some q => some q
  | none => (dieCores d).find? fun q =>
      q != p && reg s (Obj.physCoreState + q) == 0 && (hosted s q).length == 1

/-- One logical core bound to a physical core (R21); the target becomes ACTIVE. -/
def bindCore (s : State) (l : Core) (q : Nat) : State :=
  setReg (setReg s (Obj.physCoreState + q) 0) (Obj.logicalCoreMap + l.val) q

/-- A store write is needed within 200 ms (R499). -/
def needStore (s : State) : State := { s with recov := { s.recov with storeDue := true } }

/-- Cache, cache windows and prefetch guards released, as for a switch (R411, R429). -/
def releaseGuards (s : State) (l : Core) : State :=
  modCore s l fun c => { c with windows := [], lines := [], guards := [] }

/-- A hard core fault of the physical core that runs l (R107, R429): the core is RETIRED, every logical core on it moves
under R21, and the fault is reported; it is unmasked when a logical core finds no target. -/
def retireCore (s : State) (l : Core) : State :=
  let p := reg s (Obj.logicalCoreMap + l.val)
  let movers := hosted s p
  let s := needStore (setReg s (Obj.physCoreState + p) 2)
  let r := movers.foldl (fun (acc : State × Bool) x =>
    match moveTarget acc.1 x.die.val p with
    | some q => (releaseGuards (modCore (bindCore acc.1 x q) x fun c => { c with moving := true }) x, acc.2)
    | none => (modCore acc.1 x fun c => { c with moving := true, halted := true }, true)) (s, false)
  reportFault r.1 0x06 (if r.2 then 1 else 0) 0 0 l.die.val p

end Sys2Proof.Machine
end

