-- ==== Sys2Proof/Machine/Arrays.lean ====
section
/-!
DEFINITION. The arithmetic of a group (R58 to R68, R118), shared by Reed, Hip, Slate and Quince.
-/
namespace Sys2Proof.Machine

/-- One operand element of a product: its value as the multiplier takes it, and the fine scale that R61 still applies. -/
structure Factor where
  val : Ext
  fine : Dy
  deriving DecidableEq, Repr

/-- An element that is not there: a zero code (R55). -/
def Factor.absent : Factor := { val := .fin false Dy.zero, fine := Dy.ofInt 1 }

/-- A product of two elements: NaN, an infinity, or an exact value before block scales (R65, R66). -/
inductive Prod where
  | nan
  | inf (neg : Bool)
  | fin (v : Dy)
  deriving DecidableEq, Repr

/-- 2^128 − 2^103: the bound of R65 and R67. -/
def infBound : Dy := ⟨2 ^ 25 - 1, 103⟩

/-- The product of two elements with its special value decided (R65, R66). A zero is a finite element whose value with
its block scale is zero. -/
def prodOf (a b : Factor) : Prod :=
  match a.val, b.val with
  | .nan, _ => .nan
  | _, .nan => .nan
  | .inf s, .inf t => .inf (s != t)
  | .inf s, .fin t v => if (v.mul b.fine).isZero then .nan else .inf (s != t)
  | .fin s v, .inf t => if (v.mul a.fine).isZero then .nan else .inf (s != t)
  | .fin _ u, .fin _ v =>
    let p := u.mul v
    let full := p.mul (a.fine.mul b.fine)
    if infBound.le full.abs then .inf p.isNeg else .fin p

/-- A partial sum with the special products it has met (R66, R89). -/
structure Partial where
  acc : W32 := 0#32
  nan : Bool := false
  pinf : Bool := false
  ninf : Bool := false
  /-- roundings that flushed (R63) -/
  under : Nat := 0
  deriving DecidableEq, Repr

/-- A starting value; a NaN or an infinity counts as such a product (R89). -/
def Partial.start (x : W32) : Partial :=
  match w32Val x with
  | .nan => { acc := x, nan := true }
  | .inf s => { acc := x, pinf := !s, ninf := s }
  | .fin _ _ => { acc := x }

/-- A product's special value recorded (R66). -/
def Partial.meet (p : Partial) : Prod → Partial
  | .nan => { p with nan := true }
  | .inf false => { p with pinf := true }
  | .inf true => { p with ninf := true }
  | .fin _ => p

/-- The exact finite value of a product; special products take no part in the sum. -/
def Prod.dy : Prod → Dy
  | .fin v => v
  | _ => Dy.zero

/-- Position of the highest bit of |v|, for v ≠ 0. -/
def Dy.top (v : Dy) : Int := v.e + (v.m.natAbs.log2 : Int)

/-- The largest top among non-zero products. -/
def topOf : List Dy → Option Int
  | [] => none
  | v :: r =>
    if v.isZero then topOf r
    else match topOf r with
      | none => some v.top
      | some t => some (max v.top t)

/-- |v| in units of 2^base truncated, with the sign, and whether bits were lost. -/
def alignTo (base : Int) (v : Dy) : Int × Bool :=
  if v.isZero then (0, false)
  else if v.e ≥ base then (v.m * 2 ^ (v.e - base).toNat, false)
  else
    let k := 2 ^ (base - v.e).toNat
    let q := v.m.natAbs / k
    ((if v.m < 0 then -(q : Int) else (q : Int)), v.m.natAbs % k != 0)

/-- The group value of R60: a 48-bit window below the highest product bit, one sticky bit, an exact sum. -/
def groupFloat (ps : List Dy) : Dy :=
  match topOf ps with
  | none => Dy.zero
  | some top =>
    let base := top - 47
    let al := ps.map (alignTo base)
    let s := al.foldl (fun acc p => acc + p.1) 0
    let st := al.any fun p => p.2
    if s = 0 then Dy.zero
    else ⟨2 * s + (if st then (if s < 0 then -1 else 1) else 0), base - 1⟩

/-- The group value of R59: integer products summed exactly. -/
def groupInt (ps : List Dy) : Dy := ps.foldl Dy.add Dy.zero

/-- One rounding of the accumulation (R61, R63, R67): `x` is added exactly and rounded. An accumulator that is not
finite stays. -/
def Partial.addExact (p : Partial) (x : Dy) : Partial :=
  match w32Val p.acc with
  | .fin _ a =>
    let y := a.add x
    { p with acc := roundDy y, under := p.under + (if flushes y then 1 else 0) }
  | _ => p

/-- FINAL (R62, R64, R66): the special values, and × P on the last tile of the reduction. -/
def Partial.final (p : Partial) (last : Bool) (scale : W32) : W32 × Nat :=
  if p.nan || (p.pinf && p.ninf) then (w32Nan, 0)
  else if p.pinf then (w32Inf false, 0)
  else if p.ninf then (w32Inf true, 0)
  else if last then
    match w32Val p.acc with
    | .fin _ a =>
      (w32Mul p.acc scale, p.under + (if flushes (a.mul (tscaleVal scale)) then 1 else 0))
    | _ => (p.acc, p.under)
  else (p.acc, p.under)

/-- One block of a dot product: the pairs of its lanes, the block scales that R61 applies, whether the group is an
integer group (R59) and the exact Hip value with Hip's products for the special values (R86). -/
structure Group where
  pairs : List (Factor × Factor)
  fa : Dy
  fw : Dy
  integer : Bool
  hip : List (Factor × Factor) := []
  deriving DecidableEq, Repr

/-- The group value V[j] (R59, R60). -/
def Group.value (g : Group) : Dy :=
  let ps := g.pairs.map fun p => (prodOf p.1 p.2).dy
  if g.integer then groupInt ps else groupFloat ps

/-- The Hip group value H[j] (R95). -/
def Group.hipValue (g : Group) : Dy := groupFloat (g.hip.map fun p => (prodOf p.1 p.2).dy)

/-- A block taken into the accumulation (R61, R86). -/
def Partial.take (p : Partial) (g : Group) : Partial :=
  let p := g.pairs.foldl (fun q x => q.meet (prodOf x.1 x.2)) p
  let p := g.hip.foldl (fun q x => q.meet (prodOf x.1 x.2)) p
  p.addExact (((g.value).mul (g.fa.mul g.fw)).add g.hipValue)

/-- A whole dot product over its blocks in ascending order (R61, R86). -/
def dotProduct (start : W32) (groups : List Group) (last : Bool) (scale : W32) : W32 × Nat :=
  (groups.foldl Partial.take (Partial.start start)).final last scale

/-- P = ta × tw in W32 (R62). -/
def scaleProduct (ta tw : W32) : W32 := w32Mul ta tw

/-- Whether P is a finite normal W32 value (R62). -/
def scaleOk (p : W32) : Bool := w32FinNormal p

/-- The first special values of a tile's split over its elements in raster order (R68, R132). -/
def flagsOf : List ((Nat × Nat) × W32) → Option (Nat × Nat) × Option (Nat × Nat) →
    Option (Nat × Nat) × Option (Nat × Nat)
  | [], r => r
  | ((i, j), x) :: rest, (a, b) =>
    flagsOf rest
      ((match a with | some p => some p | none => if w32IsNan x then some (i, j) else none),
       (match b with | some p => some p | none => if w32IsInf x then some (i, j) else none))

/-- The 64-bit tile status word (R132). -/
def statusWord (slate : Bool) (split : Nat) (nan inf : Option (Nat × Nat)) : Nat :=
  (if nan.isSome then 2 ^ 63 else 0) + (if inf.isSome then 2 ^ 62 else 0) + (if slate then 2 ^ 61 else 0)
  + split * 2 ^ 59
  + (match nan with | some (r, c) => r * 2 ^ 27 + c * 2 ^ 19 | none => 0)
  + (match inf with | some (r, c) => r * 2 ^ 8 + c | none => 0)

end Sys2Proof.Machine
end

