-- ==== Sys2Proof/Machine/Sloe.lean ====
section
/-!
DEFINITION. Sloe's block function, keys, counters and element places (R219 to R230): every random bit is a function
of a key and a counter, and nothing advances as bits are drawn.
-/
namespace Sys2Proof.Machine

/-- Four 32-bit words, word 0 least significant (R219). -/
structure Quad where
  w0 : Word
  w1 : Word
  w2 : Word
  w3 : Word
  deriving DecidableEq, Repr

def Quad.get (q : Quad) : Nat → Word
  | 0 => q.w0
  | 1 => q.w1
  | 2 => q.w2
  | _ => q.w3

/-- The 128-bit number of four words. -/
def Quad.toNat (q : Quad) : Nat :=
  q.w0.toNat + 2 ^ 32 * (q.w1.toNat + 2 ^ 32 * (q.w2.toNat + 2 ^ 32 * q.w3.toNat))

/-- The four words of a 128-bit number. -/
def Quad.ofNat (n : Nat) : Quad :=
  ⟨BitVec.ofNat 32 n, BitVec.ofNat 32 (n / 2 ^ 32), BitVec.ofNat 32 (n / 2 ^ 64), BitVec.ofNat 32 (n / 2 ^ 96)⟩

def sloeRA : List Nat := [13, 7, 19, 25, 9, 13, 7, 19, 25, 9]
def sloeRB : List Nat := [22, 29, 11, 5, 17, 22, 29, 11, 5, 17]

/-- The five key-schedule words (R223). -/
def sloeKs (k : Quad) (i : Nat) : Word :=
  if i % 5 = 4 then k.w0 ^^^ k.w1 ^^^ k.w2 ^^^ k.w3 ^^^ 0x9E61C3A5#32 else k.get (i % 5)

/-- Round r of the block function (R223). -/
def sloeRound (k : Quad) (r : Nat) (x : Quad) : Quad :=
  let x0 := x.w0 + x.w1
  let x1 := x.w1.rotateLeft (sloeRA.getD r 0) ^^^ x0
  let x2 := x.w2 + x.w3
  let x3 := x.w3.rotateLeft (sloeRB.getD r 0) ^^^ x2
  if r % 2 = 1 then
    let j := (r + 1) / 2
    ⟨x0 + sloeKs k j, x3 + sloeKs k (j + 1), x2 + sloeKs k (j + 2), x1 + sloeKs k (j + 3) + BitVec.ofNat 32 j⟩
  else ⟨x0, x3, x2, x1⟩

/-- The ten rounds, the first n done. -/
def sloeRounds (k : Quad) : Nat → Quad → Quad
  | 0, x => x
  | n + 1, x => sloeRound k n (sloeRounds k n x)

/-- One evaluation x = sloe_block(k, c) (R219, R223). -/
def sloeBlock (k c : Quad) : Quad :=
  sloeRounds k 10 ⟨c.w0 + k.w0, c.w1 + k.w1, c.w2 + k.w2, c.w3 + k.w3⟩

/-- The key of a tensor of identity t under the job seed (R220). -/
def sloeKey (seed t : Nat) : Quad :=
  sloeBlock ⟨BitVec.ofNat 32 seed, BitVec.ofNat 32 (seed / 2 ^ 32), 0x736C6F65#32, 0x6B657900#32⟩
    ⟨BitVec.ofNat 32 t, 0#32, 0#32, 0#32⟩

/-- The counter of R222. -/
def sloeCounter (step purpose draw base q : Nat) : Quad :=
  Quad.ofNat ((step % 2 ^ 48) * 2 ^ 80 + (purpose % 16) * 2 ^ 76 + (draw % 4096) * 2 ^ 64 + (base + q) % 2 ^ 64)

/-- Everything a draw names beside the element index: seed, identity, step, purpose, draw number and base counter. -/
structure Draw where
  seed : Nat
  ident : Nat
  step : Nat
  purpose : Nat
  draw : Nat
  base : Nat
  deriving DecidableEq, Repr

/-- Evaluation q of a draw. -/
def Draw.eval (d : Draw) (q : Nat) : Quad :=
  sloeBlock (sloeKey d.seed d.ident) (sloeCounter d.step d.purpose d.draw d.base q)

/-- The n-bit number of element i under purpose SR (R225). -/
def Draw.srBits (d : Draw) (n i : Nat) : Nat :=
  (d.eval (i / 8)).toNat / 2 ^ (16 * (i % 8)) % 2 ^ n

/-- The word of element i (DROPOUT, SHADOW, and uniform or table fills; R225). -/
def Draw.word (d : Draw) (i : Nat) : Word := (d.eval (i / 4)).get (i % 4)

/-- The pair of words of element i in the transform method (R225). -/
def Draw.pair (d : Draw) (i : Nat) : Word × Word :=
  let x := d.eval (i / 4)
  if i % 4 < 2 then (x.w0, x.w1) else (x.w2, x.w3)

/-- The uniform value of a word (R227). -/
def sloeUniform (a : Word) : Dy := ⟨2 * (a.toNat / 512) + 1, -24⟩

end Sys2Proof.Machine
end

