-- ==== Sys2Proof/Machine/Funcs.lean ====
section
/-!
DEFINITION. The functions whose results the manual bounds in units in the last place: exp and ln (R252), expm1 of
DERIV (R129), the normal variates of the transform unit (R229), and the table of normal quantiles, which is exact to
the nearest W32 (R230). Each is computed in fixed point with 320 binary places; where a bound leaves several W32 values
open, an opaque choice of `Config` picks among the ones inside the bound.
-/
namespace Sys2Proof.Machine

/-- Binary places of the fixed-point values of this file. -/
def fxS : Nat := 320
def fxOne : Int := 2 ^ fxS
def fxMul (a b : Int) : Int := a * b / 2 ^ fxS
def fxOfQ (q : Q) : Int := q.n * 2 ^ fxS / (q.d : Int)
def fxToQ (a : Int) : Q := ⟨a, 2 ^ fxS⟩

/-- Σ y^k/k! from term k on, `term` being y^(k−1)/(k−1)!. -/
def fxExpSum : Nat → Int → Nat → Int → Int
  | 0, _, _, _ => 0
  | n + 1, y, k, term =>
    let t := fxMul term y / (k : Int)
    t + fxExpSum n y (k + 1) t

/-- k squarings. -/
def fxSquare : Nat → Int → Int
  | 0, a => a
  | n + 1, a => fxSquare n (fxMul a a)

/-- e^a for a ≥ 0 in fixed point: the argument is divided by 2^16, then the result squared 16 times. -/
def fxExp (a : Int) : Int :=
  fxSquare 16 (fxOne + fxExpSum 40 (a / 2 ^ 16) 1 fxOne)

/-- Σ z^(2k+1)/(2k+1), `p` being z^(2k+1) and z2 = z². With `alt` the signs alternate (arctan). -/
def fxAtanSum (alt : Bool) (z2 : Int) : Nat → Nat → Int → Int
  | 0, _, _ => 0
  | n + 1, k, p =>
    let t := p / ((2 * k + 1 : Nat) : Int)
    t + fxAtanSum alt z2 n (k + 1) (if alt then -fxMul p z2 else fxMul p z2)

/-- artanh z for |z| ≤ 1/3. -/
def fxAtanh (z : Int) : Int := fxAtanSum false (fxMul z z) 110 0 z

def fxLn2 : Int := 2 * fxAtanh (fxOne / 3)

/-- π by Machin's formula. -/
def fxPi : Int :=
  let a := fxOne / 5
  let b := fxOne / 239
  16 * fxAtanSum true (fxMul a a) 80 0 a - 4 * fxAtanSum true (fxMul b b) 30 0 b

/-- ln q for q > 0. -/
def fxLn (q : Q) : Int :=
  let k := q.log2
  let m := fxOfQ (q.scale2 (-k))
  k * fxLn2 + 2 * fxAtanh ((m - fxOne) * fxOne / (m + fxOne))

/-- Σ (−1)^k t^(2k)/(2k)! (cosine, first = 0) or t^(2k+1)/(2k+1)! (sine, first = 1). -/
def fxTrigSum (t2 : Int) : Nat → Nat → Int → Int
  | 0, _, _ => 0
  | n + 1, k, term => term + fxTrigSum t2 n (k + 2) (-(fxMul term t2) / (((k + 1) * (k + 2) : Nat) : Int))

def fxCos (t : Int) : Int := fxTrigSum (fxMul t t) 90 0 fxOne
def fxSin (t : Int) : Int := fxTrigSum (fxMul t t) 90 1 t

/-- √a in fixed point. -/
def fxSqrt (a : Int) : Int := (isqrt (a.natAbs * 2 ^ fxS) : Int)

/-- The magnitude code of the largest W32 magnitude not above q ≥ 0. -/
def w32FloorCode (q : Q) : Nat :=
  if q.n = 0 then 0
  else
    let k := fmtW32.quantum q
    let s := q.scale2 (-k)
    (k + 149).toNat * 2 ^ 23 + s.n.natAbs / s.d

/-- The W32 word of a magnitude code with a sign. -/
def w32OfCode (neg : Bool) (c : Nat) : W32 :=
  if c > 0x7F7FFFFF then w32Inf neg else BitVec.ofNat 32 (c + (if neg then 2 ^ 31 else 0))

/-- e^x as a ratio, for a finite x. -/
def expQ (x : Dy) : Q :=
  let e := fxExp (fxOfQ x.abs.toQ)
  if x.isNeg then ⟨fxOne, e.natAbs⟩ else fxToQ e

/-- The exp unit (R252): within 1 ulp; exp(±0) = 1.0, exp(−∞) = +0, a result below 2^−149 is +0. -/
def expUnit (x : W32) : W32 :=
  match w32Val x with
  | .nan => w32Nan
  | .inf s => if s then 0#32 else w32Inf false
  | .fin _ v =>
    if v.isZero then w32One
    else if v.lt (Dy.ofInt (-110)) then 0#32
    else if (Dy.ofInt 100).lt v then w32Inf false
    else
      let q := expQ v
      if q.lt ⟨1, 2 ^ 149⟩ then 0#32
      else w32OfCode false (w32FloorCode q + (if Config.expPick x then 1 else 0))

/-- The ln unit (R252): within 1 ulp; ln 1 = +0, ln(±0) = −∞. -/
def lnUnit (x : W32) : W32 :=
  match w32Val x with
  | .nan => w32Nan
  | .inf s => if s then w32Nan else w32Inf false
  | .fin s v =>
    if v.isZero then w32Inf true
    else if s then w32Nan
    else if x = w32One then 0#32
    else
      let l := fxToQ (fxLn v.toQ)
      w32OfCode l.isNeg (w32FloorCode l.abs + (if Config.lnPick x then 1 else 0))

/-- The candidate number p, 0 to 3, of the W32 magnitudes within 2 ulp of q, in ascending order. -/
def within2 (neg : Bool) (q : Q) (p : Fin 4) : W32 :=
  w32OfCode neg ((w32FloorCode q.abs + p.val) - 1)

/-- −expm1(−y) for y ≥ 0 (R129, code 5). -/
def negExpm1Neg (y : W32) : W32 :=
  match w32Val y with
  | .fin s v =>
    if v.isZero then w32Zero s
    else if (Dy.ofInt 110).lt v then w32One
    else
      let e := fxExp (fxOfQ v.toQ)
      within2 false ⟨e - fxOne, e.natAbs⟩ (Config.expm1Pick y)
  | _ => w32Nan

/-- The two variates of the transform unit (R229): `second` selects z₁. -/
def transformNormal (a b : Word) (second : Bool) : W32 :=
  let u1 := sloeUniform a
  let u2 := sloeUniform b
  let r := fxSqrt (-2 * fxLn u1.toQ)
  let t := fxMul (2 * fxPi) (fxOfQ u2.toQ)
  let z := fxMul r (if second then fxSin t else fxCos t)
  within2 (decide (z < 0)) (fxToQ z) (Config.normalPick a b second)

/-- Σ z^(2k+1)/(1·3·…·(2k+1)). -/
def fxPhiSum (z2 : Int) : Nat → Nat → Int → Int
  | 0, _, _ => 0
  | n + 1, k, term => term + fxPhiSum z2 n (k + 1) (fxMul term z2 / ((2 * k + 3 : Nat) : Int))

/-- Φ(z) for z ≥ 0; beyond 8 it is 1 to far more places than T[j] of R230 needs. -/
def fxPhi (z : Int) : Int :=
  if z > 8 * fxOne then fxOne else
  let z2 := fxMul z z
  let dens := fxOne * fxOne / fxMul (fxExp (z2 / 2)) (fxSqrt (2 * fxPi))
  fxOne / 2 + fxMul dens (fxPhiSum z2 160 0 z)

/-- The largest W32 magnitude code at most hi whose Φ is at most p, bit by bit. -/
def quantileCode (p : Int) : Nat → Nat → Nat
  | 0, c => c
  | b + 1, c =>
    let t := c + 2 ^ b
    if fxPhi (fxOfQ (fmtW32.mag t).toQ) ≤ p then quantileCode p b t else quantileCode p b c

/-- T[j] of R230: the W32 value nearest Φ⁻¹((j + 0.5)/4,096). -/
def normalTable (j : Nat) : W32 :=
  let neg := decide (j < 2048)
  let i := if neg then 4095 - j else j
  let p := fxOfQ ⟨2 * i + 1, 8192⟩
  let c := quantileCode p 31 0
  let mid := ((fmtW32.mag c).add (fmtW32.mag (c + 1))).mul (Dy.pow2 (-1))
  w32OfCode neg (if fxPhi (fxOfQ mid.toQ) ≤ p then c + 1 else c)

/-- The table method's variate of a word (R230). -/
def tableNormal (a : Word) : W32 :=
  let q : Int := (a.toNat : Int) - 0x80000
  if q < 0 then normalTable 0
  else
    let j := q.toNat / 2 ^ 20
    if j ≥ 4095 then normalTable 4095
    else
      let f : Dy := ⟨2 * (q.toNat % 2 ^ 20 : Nat) + 1, -21⟩
      let t := (w32Val (normalTable j)).dy
      let u := (w32Val (normalTable (j + 1))).dy
      roundDy (t.add (f.mul (u.sub t)))

end Sys2Proof.Machine
end

