-- ==== Sys2Proof/Machine/Products.lean ====
section
/-!
DEFINITION. One tile of a matrix product on Reed or Slate: its operands in memory, its Hip entries, its dot products,
the derivative stage and its results (R78 to R104, R114 to R131).
-/
namespace Sys2Proof.Machine

/-- The descriptors of one split, checked and resolved (R288, R293). -/
structure SplitDesc where
  a : Desc
  w : Option Desc
  start : Option Desc
  acc0 : Desc
  acc1 : Desc
  zeroMap : Option Desc
  mask : Option Desc
  hip : Option Desc
  wide : Option Desc
  saved : Option Desc
  deriving DecidableEq, Repr

/-- The descriptors that a split entry names, or the first that breaks R293. -/
def loadSplit (s : State) (l : Core) (e : SplitArgs) (needW : Bool) : Except (DescErr × Nat) SplitDesc := do
  let a ← operand! s l e.streamed
  let w ← if needW then (operand! s l e.stationary).map some else operand s l e.stationary
  let start ← operand s l e.start
  let acc0 ← dest! s l e.acc0
  let acc1 ← dest! s l e.acc1
  let zeroMap ← operand s l e.zeroMap
  let mask ← operand s l e.mask
  let hip ← operand s l e.hip
  let wide ← operand s l e.wide
  let saved ← operand s l e.saved
  .ok { a := a, w := w, start := start, acc0 := acc0, acc1 := acc1, zeroMap := zeroMap, mask := mask, hip := hip,
        wide := wide, saved := saved }

/-- The split descriptors of a block; in BP256 entry 1 names no stationary operand (R288). -/
def loadSplits (s : State) (l : Core) (b : ProdBlock) : Except (DescErr × Nat) (List SplitDesc) :=
  (b.splits.zipIdx).mapM fun (e, i) => loadSplit s l e (!(b.shape == 10 && i == 1))

/-- What a split reads and what it writes, for its requests (R303). -/
def SplitDesc.reads (d : SplitDesc) : List Desc :=
  d.a :: (d.w.toList ++ d.start.toList ++ d.zeroMap.toList ++ d.mask.toList ++ d.hip.toList ++ d.wide.toList ++ d.saved.toList)

/-- The accumulator regions of a split (R87). -/
def SplitDesc.writes (d : SplitDesc) : List Desc := [d.acc0, d.acc1]

/-- The requests of a product (R303). -/
def productTraffic (s : State) (l : Core) (idx : Nat) (q : Queue) (ds : List SplitDesc) : State :=
  traffic s l idx q (ds.flatMap SplitDesc.reads) (ds.flatMap SplitDesc.writes)

/-- The product block of an operation word (R285, R288). -/
def prodBlock (s : State) (l : Core) (w : BitVec 256) : ProdBlock :=
  parseProd (readBytes s (sramAddr l + opBlock w) prodBytes)

/-- Where one tile of one split stands: its operands, the rows, reduction range and columns it covers, how the
stationary operand lies (R116: rows along the reduction when `wRed`), cross-scaling (R118), and its results' regions. -/
structure TileGeom where
  a : Desc
  w : Desc
  crossA : Bool := false
  crossW : Bool := false
  wRed : Bool := false
  /-- the stationary operand is the W16 conversion of the tensor's elements (R161 rung 4, R172) -/
  wConv : Bool := false
  row0 : Nat := 0
  rows : Nat
  k0 : Nat
  len : Nat
  col0 : Nat
  cols : Nat
  /-- bit map of masked rows, by row of the operation (R99) -/
  mask : Option Desc := none
  /-- bit map of gated reduction positions: masked rows of the paired input-gradient split (R140) -/
  gate : Option Desc := none
  /-- starting values, if any: region and its width -/
  start : Option Desc := none
  /-- result region -/
  out : Desc
  /-- columns of a row of the start and result regions -/
  width : Nat
  /-- × P and DERIV apply (R86, R128) -/
  last : Bool := false
  scale : W32 := w32One
  deriv : Nat := 0
  alpha : W32 := 0#32
  saved : Option Desc := none
  table : Option Desc := none
  /-- memory as the load of the stationary operand read it (R80, R82) -/
  bank : Option Mem := none
  /-- groups that are skipped: the zero map with the memory that holds the prediction, and the map's blocks per row
  (R103) -/
  skipped : Option (Desc × Mem × Nat) := none
  deriving DecidableEq, Repr

/-- The state in which a bank's operand is read: memory as the load read it (R82). -/
def bankView (s : State) (g : TileGeom) : State :=
  match g.bank with
  | some m => { s with mem := m }
  | none => s

/-- One operand element (R58, R118): `rowRed` says that the tensor's rows run along the reduction. -/
def factorAt (s : State) (d : Desc) (rowRed cross : Bool) (red other : Nat) : Factor :=
  let i := if rowRed then red else other
  let k := if rowRed then other else red
  let c := elemCode s d i k
  if d.fmt.isScaled then
    let f := fineVal (fineByte s d (rowRed != cross) i k)
    if cross then { val := decode d.fmt c f (Dy.ofInt 1) 0, fine := Dy.ofInt 1 }
    else { val := decode d.fmt c (Dy.ofInt 1) (Dy.ofInt 1) (zeroPoint s d i k), fine := f }
  else { val := decode d.fmt c (Dy.ofInt 1) (Dy.ofInt 1) 0, fine := Dy.ofInt 1 }

/-- The W16 value that Eaves makes of an element (R161, R172). -/
def asW16 (e : Ext) : Ext := decode .w16 (encode .w16 e (Dy.ofInt 1) .near 0 false false).code (Dy.ofInt 1) (Dy.ofInt 1) 0

/-- One stationary element of a tile, from the active bank: as loaded, or converted to W16. -/
def stationaryAt (s : State) (g : TileGeom) (red col : Nat) : Factor :=
  if g.wConv then
    { val := asW16 (elemValue (bankView s g) g.w (if g.wRed then red else col) (if g.wRed then col else red))
      fine := Dy.ofInt 1 }
  else factorAt (bankView s g) g.w g.wRed g.crossW red col

/-- What Eaves counts as it converts a tile's stationary operand to W16 (R76, R77): saturations and flushes. -/
def convCounts (s : State) (g : TileGeom) : Nat × Nat :=
  if !g.wConv then (0, 0)
  else
    let es := (List.range g.len).flatMap fun k => (List.range g.cols).map fun c =>
      let red := g.k0 + k
      let col := g.col0 + c
      encode .w16 (elemValue (bankView s g) g.w (if g.wRed then red else col) (if g.wRed then col else red)) (Dy.ofInt 1)
        .near 0 false false
    ((es.filter Enc.ovf).length, (es.filter Enc.under).length)

/-- A factor with its block scale multiplied in, for Hip (R95). -/
def Factor.scaled (f : Factor) : Factor :=
  match f.val with
  | .fin n v => { val := .fin n (v.mul f.fine), fine := Dy.ofInt 1 }
  | x => { val := x, fine := Dy.ofInt 1 }

/-- A Hip entry of a tile row: reduction position and wide value already scaled (R95). -/
structure HipEntry where
  row : Nat
  red : Nat
  val : Ext
  deriving DecidableEq, Repr

/-- The words of a value-mode pair list (log 24: DESIGN CHOICE): up to `n` words, ending before a word of all ones. -/
def pairWords (s : State) (a : Nat) : Nat → List Nat
  | 0 => []
  | n + 1 => let w := readLE s a 4; if w = 0xFFFFFFFF then [] else w :: pairWords s (a + 4) n

/-- The lanes of a channel list (log 24: DESIGN CHOICE): up to `n` lanes, ending before 0xFFFF. -/
def laneWords (s : State) (a : Nat) : Nat → List Nat
  | 0 => []
  | n + 1 => let w := readLE s a 2; if w = 0xFFFF then [] else w :: laneWords s (a + 2) n

/-- Whether naturals rise strictly. -/
def rising : List Nat → Bool
  | [] => true
  | [_] => true
  | a :: b :: r => decide (a < b) && rising (b :: r)

/-- The list area of reduction tile kt: the region is divided evenly among the tiles of a chain (log 24: DESIGN CHOICE). -/
def hipArea (d : Desc) (nkt kt : Nat) : Nat × Nat :=
  let n := d.dim0 / nkt
  (d.base + kt * n, n)

/-- Whether a split's Hip list keeps R96. -/
def hipListOk (s : State) (b : ProdBlock) (d : SplitDesc) (split kt : Nat) : Bool :=
  let lo := splitBase b.shape split
  let n := shapeLanes b.shape
  match d.hip, d.wide with
  | some h, none =>
    let (a, len) := hipArea h b.nkt kt
    let ws := pairWords s a (len / 4)
    decide (ws.length ≤ 256) && rising (ws.map fun w => w / 256 % 2048 * 256 + w % 256)
    && ws.all fun w => decide (w / 256 % 2048 < b.m ∧ lo ≤ w % 256 ∧ w % 256 < lo + n)
  | some h, some _ =>
    let (a, len) := hipArea h b.nkt kt
    let ls := laneWords s a (len / 2)
    decide (ls.length ≤ n / 16) && rising ls && ls.all fun x => decide (lo ≤ x ∧ x < lo + n)
  | none, _ => true

/-- The Hip entries of a tile of one split (R95, R96). A pair's K8 value takes the fine scale of its block; a W16 wide
value takes none. In channel mode, entry c of row r stands at column kt × (lanes/16) + c of the wide tensor (log 24: DESIGN CHOICE). -/
def hipEntries (s : State) (b : ProdBlock) (d : SplitDesc) (split kt : Nat) : List HipEntry :=
  let lo := splitBase b.shape split
  let n := shapeLanes b.shape
  let fa := fun row red => fineVal (fineByte s d.a false row red)
  match d.hip, d.wide with
  | some h, none =>
    let (a, len) := hipArea h b.nkt kt
    (pairWords s a (len / 4)).map fun w =>
      let row := w / 256 % 2048
      let red := kt * n + (w % 256 - lo)
      { row := row, red := red, val := decode .k8 (w / 2 ^ 24) (fa row red) (Dy.ofInt 1) 0 }
  | some h, some wt =>
    let (a, len) := hipArea h b.nkt kt
    let ls := laneWords s a (len / 2)
    (List.range b.m).flatMap fun row =>
      (ls.zipIdx).map fun (x, c) =>
        let red := kt * n + (x - lo)
        let code := elemCode s wt row (kt * (n / 16) + c)
        { row := row, red := red
          val := if wt.fmt = .w16 then decode .w16 code (Dy.ofInt 1) (Dy.ofInt 1) 0
                 else decode .k8 code (fa row red) (Dy.ofInt 1) 0 }
  | none, _ => []

/-- The blocks of a reduction range: ascending block numbers with the positions each holds. -/
def blocksOf (k0 len size : Nat) : List (List Nat) :=
  if len = 0 then []
  else (List.range ((k0 + len - 1) / size - k0 / size + 1)).map fun j =>
    let b := k0 / size + j
    (List.range size).filterMap fun i =>
      let k := b * size + i
      if k0 ≤ k ∧ k < k0 + len then some k else none

/-- Whether the zero map predicts the group of a block zero, so that it is skipped (R102, R103). -/
def groupSkipped (g : TileGeom) (row k : Nat) : Bool :=
  match g.skipped with
  | some (z, m, n) => bitOf (memGet m (z.base + (row * n + k / blockSize g.a.blk) / 8)).toNat
      ((row * n + k / blockSize g.a.blk) % 8)
  | none => false

/-- The group of one block for output (row, column) (R58 to R61, R86). A skipped group's codes are not read, and its value
is 0 (R103); a NaN that such a block would meet takes no part then, and makes the result NaN where the group is fed (log
113: DEDUCED). -/
def groupAt (s : State) (g : TileGeom) (hip : List HipEntry) (row col : Nat) (ks : List Nat) : Group :=
  let live := if groupSkipped g row (ks.headD 0) then []
    else ks.filter fun k => match g.gate with | some m => !mapBit s m.base k | none => true
  let pairs := live.map fun k => (factorAt s g.a false g.crossA k row, stationaryAt s g k col)
  let k := ks.headD 0
  let fine := fun (d : Desc) (red : Bool) (cross : Bool) (other : Nat) =>
    if cross || !d.fmt.isScaled then Dy.ofInt 1
    else fineVal (if red then fineByte s d true k other else fineByte s d false other k)
  { pairs := pairs
    fa := fine g.a false g.crossA row
    fw := if g.wConv then Dy.ofInt 1 else fine g.w g.wRed g.crossW col
    integer := g.a.fmt.isNarrow && g.w.fmt.isNarrow && !g.wConv
    hip := (hip.filter fun h => h.row == row && ks.contains h.red).map fun h =>
      ({ val := h.val, fine := Dy.ofInt 1 }, (stationaryAt s g h.red col).scaled) }

/-! ### The derivative stage (R128 to R131) -/

/-- The table derivative of R131: the header at `base`, z in W32. -/
def tableDeriv (s : State) (base : Nat) (z : W32) : W32 :=
  let lo := readW32 s base
  let hi := readW32 s (base + 4)
  let c := readW32 s (base + 8)
  let dAt := fun i => readW32 s (base + 16 + 4 * i)
  if !w32IsFin z then w32Nan
  else if w32Lt z lo then dAt 0
  else if w32Lt hi z then dAt 1024
  else
    let u := (w32Val (w32Mul (w32Sub z lo) c)).dy
    let i := min (u.toQ.floor.toNat) 1023
    let r := u.sub (Dy.ofInt i)
    let d0 := (w32Val (dAt i)).dy
    let d1 := (w32Val (dAt (i + 1))).dy
    roundDy (d0.add (r.mul (d1.sub d0)))

/-- Whether a derivative table may be used (R131). -/
def tableOk (s : State) (base : Nat) : Bool :=
  let lo := readW32 s base
  let hi := readW32 s (base + 4)
  w32IsFin lo && w32IsFin hi && w32Lt lo hi && w32IsFin (readW32 s (base + 8))
  && (List.range 1025).all fun i => w32IsFin (readW32 s (base + 16 + 4 * i))

/-- The derivative factor d of R129 and whether a softplus saved output was below 0. -/
def derivFactor (s : State) (code : Nat) (alpha : W32) (table : Option Desc) (y : W32) : W32 × Bool :=
  let v := (w32Val y).dy
  let pos := !v.isZero && !v.isNeg
  if !w32IsFin y then (w32Nan, false)
  else match code with
    | 1 => (if pos then w32One else 0#32, false)
    | 2 => (if pos then w32One else alpha, false)
    | 3 => (roundDy (v.sub (v.mul v)), false)
    | 4 => (roundDy ((Dy.ofInt 1).sub (v.mul v)), false)
    | 5 => if v.isNeg then (0#32, true) else (negExpm1Neg y, false)
    | 6 => (if pos then w32One else roundDy (v.add (w32Val alpha).dy), false)
    | 7 => (match table with | some t => tableDeriv s t.base y | none => w32One, false)
    | _ => (w32One, false)

/-- A finite value's rounding to W32 (R70, R557); the special values keep their meaning. -/
def extW32 (e : Ext) : W32 :=
  match e with
  | .nan => w32Nan
  | .inf n => w32Inf n
  | .fin n v => roundDy v n

/-- A saved element as DERIV takes it: its exact value rounded once to W32 (R70, R129). -/
def elemW32 (s : State) (d : Desc) (i k : Nat) : W32 :=
  if d.fmt = .m8 then roundQ (decodeM8 (elemCode s d i k) (fineVal (fineByte s d false i k)) (tscaleVal d.tscale))
  else extW32 (elemValue s d i k)

/-- DERIV on one output element (R129): the result, whether the domain counter moves, and whether the final rounding
flushed. -/
def derivApply (s : State) (g : TileGeom) (row col : Nat) (x : W32) : W32 × Bool × Nat :=
  if !g.last || g.deriv == 0 then (x, false, 0)
  else
    let y := match g.saved with | some d => elemW32 s d row col | none => 0#32
    let (d, dom) := derivFactor s g.deriv g.alpha g.table y
    let fl := match w32Val x, w32Val d with
      | .fin _ a, .fin _ b => flushes (a.mul b)
      | _, _ => false
    (w32Mul x d, dom, if fl then 1 else 0)

/-! ### A tile -/

/-- What a tile of one split gives: its rows' results in row order (masked rows absent), with counts. -/
structure TileOut where
  rows : List (Nat × List W32) := []
  under : Nat := 0
  domain : Nat := 0
  deriving DecidableEq, Repr

/-- The rows of a tile that are not masked (R99). -/
def liveRows (s : State) (g : TileGeom) : List Nat :=
  (List.range g.rows).filter fun r => match g.mask with | some m => !mapBit s m.base (g.row0 + r) | none => true

/-- One output element of a tile (R86, R120, R129). -/
def tileElem (s : State) (g : TileGeom) (hip : List HipEntry) (blocks : List (List Nat)) (row col : Nat) :
    W32 × Bool × Nat :=
  let st := match g.start with | some d => w32Elem s d g.width row col | none => 0#32
  let (x, u) := dotProduct st (blocks.map (groupAt s g hip row col)) g.last g.scale
  let (y, dom, v) := derivApply s g row col x
  (y, dom, u + v)

/-- All outputs of a tile of one split. -/
def tileOut (s : State) (g : TileGeom) (hip : List HipEntry) : TileOut :=
  let blocks := blocksOf g.k0 g.len (blockSize g.a.blk)
  (liveRows s g).foldl (fun o r =>
    let xs := (List.range g.cols).map fun c => tileElem s g hip blocks (g.row0 + r) (g.col0 + c)
    { rows := o.rows ++ [(r, xs.map fun x => x.1)]
      under := o.under + xs.foldl (fun n x => n + x.2.2) 0
      domain := o.domain + (xs.filter fun x => x.2.1).length }) {}

/-- A tile's rows stored to its result region (R87). -/
def storeTile (s : State) (g : TileGeom) (o : TileOut) : State :=
  o.rows.foldl (fun t r =>
    writeBytes t (w32Addr g.out g.width (g.row0 + r.1) g.col0) (r.2.flatMap fun x => leBytes 4 x.toNat)) s

/-- The flag register of a tile's split (R68, R132). -/
def tileFlags (o : TileOut) : FlagReg :=
  let es := o.rows.flatMap fun r => (r.2.zipIdx).map fun (x, c) => ((r.1, c), x)
  let (a, b) := flagsOf es (none, none)
  { nan := a, inf := b }

/-- Ac for which one row of a tile holds MUL: 4 in W16 on Slate, else 1 (R119, R122). -/
def rowAc (g : TileGeom) : Nat := if g.a.fmt = .w16 then 4 else 1

/-- The chain position of tile number t: column block and reduction tile (R288). -/
def tilePlace (b : ProdBlock) (t : Nat) : Nat × Nat :=
  if b.orderOuter then (t % b.ncb, t / b.ncb) else (t / b.nkt, t % b.nkt)

/-- The accepted conversion tile that a streamed tile reads, if Spar has accepted one there (R146, R163). -/
def acceptedAt (s : State) (base row k : Nat) : Option AccTile :=
  s.num.accepted.find? fun t =>
    t.base == base && decide (t.row0 ≤ row ∧ row < t.row0 + t.rowN ∧ t.lane0 ≤ k ∧ k < t.lane0 + t.laneN)

/-- The streamed operand of a tile in the format and scale of the conversion tile it reads (log 23: DEDUCED). -/
def streamedAs (s : State) (d : Desc) (row k : Nat) : Desc :=
  match acceptedAt s d.base row k with
  | some t => { d with format := t.format, tscale := t.tscale }
  | none => d

/-- The tensor scale of an operand; formats without scales take 1 (R62). -/
def scaleOf (d : Desc) : W32 := if d.fmt.isScaled then d.tscale else w32One

/-- The geometry of one split of tile t of a single-product operation: Reed's shapes, B512 and BT (R87, R91, R123). -/
def splitGeom (b : ProdBlock) (d : SplitDesc) (t : Nat) (a w : Desc) : TileGeom :=
  let (cb, kt) := tilePlace b t
  let lanes := shapeLanes b.shape
  let k0 := kt * lanes
  { a := a, w := w, crossA := b.crossA, crossW := b.crossW, wRed := b.laneOrder
    rows := b.m, k0 := k0, len := min lanes (b.klen - k0)
    col0 := cb * 256, cols := min 256 (b.n - cb * 256)
    mask := d.mask
    start := if kt = 0 then (if b.startFlag then d.start else none)
             else some (if (kt - 1) % 2 = 0 then d.acc0 else d.acc1)
    out := if kt % 2 = 0 then d.acc0 else d.acc1
    width := b.n
    last := b.final && kt + 1 == b.nkt
    scale := scaleProduct (scaleOf a) (scaleOf w)
    deriv := b.deriv, alpha := b.alpha
    saved := if b.deriv = 7 then d.wide else d.saved
    table := if b.deriv = 7 then d.saved else none }

/-- Tiles of a single-product operation. -/
def ProdBlock.tiles (b : ProdBlock) : Nat := b.ncb * b.nkt

end Sys2Proof.Machine
end

