-- ==== Sys2Proof/Machine/TrackerTables.lean ====
section
/-!
DEFINITION. Scale trackers as they are stored: records, block planes and channel planes in Thatch (R148, R150, R178, R180).
-/
namespace Sys2Proof.Machine

/-! ### Trackers as stored (R150) -/

/-- A block-plane entry (R150). -/
def Blk.word (b : Blk) : Nat :=
  let bit := fun (c : Bool) n => if c then 2 ^ n else 0
  b.pred * 256 + bit b.sat 7 + bit b.busy 6 + bit b.seen 5 + bit b.nan 4 + bit b.inf 3 + b.quiet % 8

/-- The block that a block-plane entry spells. -/
def parseBlk (w : Nat) : Blk :=
  { pred := w / 256 % 256, sat := bitOf w 7, busy := bitOf w 6, seen := bitOf w 5, nan := bitOf w 4, inf := bitOf w 3, quiet := w % 8 }

/-- The 192-byte record (R150). -/
def Tracker.record (t : Tracker) : List Byte :=
  let h := ((t.hist ++ List.replicate 8 ({} : Hist)).take 8).flatMap fun e : Hist =>
    leBytes 4 e.step ++ leBytes 4 e.ovf ++ leBytes 4 e.spill ++ leBytes 2 e.doubled ++ leBytes 2 e.halved
  leBytes 4 t.tscale.toNat ++ leBytes 1 t.format ++ leBytes 1 t.omode ++ leBytes 2 t.cap ++ leBytes 2 t.capMax
    ++ leBytes 2 t.blocks.length ++ leBytes 1 (if t.valid then 1 else 0) ++ leBytes 1 t.head ++ leBytes 1 t.capQuiet
    ++ leBytes 1 0 ++ leBytes 4 t.stepOvf ++ leBytes 4 t.stepUnder ++ leBytes 4 t.stepSpill ++ leBytes 4 t.stepNan
    ++ leBytes 4 t.stepCandMax ++ leBytes 4 t.chanPlane ++ leBytes 4 t.blockPlane ++ List.replicate 20 0#8 ++ h

/-- The record with its block plane and channel plane (R179). -/
def Tracker.bytes (t : Tracker) : List Byte :=
  t.record ++ (t.blocks.flatMap fun b => leBytes 2 b.word)
    ++ (if t.omode % 4 = 2 then t.chans.flatMap (leBytes 2) else [])

/-- The tracker with the contents that a record and its planes spell; what stands outside them stays. -/
def Tracker.load (t : Tracker) (b : List Byte) : Tracker :=
  { t with
    tscale := w32At b 0, format := byteAt b 4, omode := byteAt b 5, cap := fieldLE b 6 2, capMax := fieldLE b 8 2
    valid := byteAt b 0x0C == 1, head := byteAt b 0x0D % 8, capQuiet := byteAt b 0x0E
    stepOvf := fieldLE b 0x10 4, stepUnder := fieldLE b 0x14 4, stepSpill := fieldLE b 0x18 4, stepNan := fieldLE b 0x1C 4
    stepCandMax := fieldLE b 0x20 4, chanPlane := fieldLE b 0x24 4, blockPlane := fieldLE b 0x28 4
    hist := (List.range 8).map fun i =>
      let o := 0x40 + 16 * i
      { step := fieldLE b o 4, ovf := fieldLE b (o + 4) 4, spill := fieldLE b (o + 8) 4, doubled := fieldLE b (o + 12) 2, halved := fieldLE b (o + 14) 2 }
    blocks := (List.range t.blocks.length).map fun j =>
      { parseBlk (fieldLE b (192 + 2 * j) 2) with measured := (t.blocks.getD j {}).measured }
    chans := if t.omode % 4 = 2 then (List.range t.chans.length).map fun k => fieldLE b (192 + 2 * t.blocks.length + 2 * k) 2
      else t.chans }

/-- Whether a record keeps the limits of R52, R150, R156 and R160, with the number of blocks that the tracker has. -/
def recordOk (t : Tracker) (b : List Byte) : Bool :=
  let om := byteAt b 5 % 4
  let fm := Format.ofCode (byteAt b 4)
  w32Normal (w32At b 0) && (fm.map Format.isScaled).getD false && om != 3
    && (om == 0 || (fm.map Format.isGrid).getD false) && decide (byteAt b 5 < 8) && fieldLE b 0x0A 2 == t.blocks.length
    && decide (fieldLE b 6 2 ≤ fieldLE b 8 2) && decide (byteAt b 0x0C ≤ 1) && decide (byteAt b 0x0D < 8)
    && decide (byteAt b 0x0E < 8) && (om == 0 || (if om == 1 then decide (fieldLE b 8 2 ≤ 256) else decide (fieldLE b 8 2 ≤ t.tileLanes / 16)))
    && (List.range t.blocks.length).all fun j => byteAt b (193 + 2 * j) != 0

/-- A tracker restored from a record and its planes: nothing of the aborted step stays (R178). -/
def Tracker.restored (t : Tracker) (b : List Byte) : Tracker :=
  let y := t.load b
  { y with used := false, ceilMeas := false, overSpilled := false, blocks := y.blocks.map fun b => { b with measured := 0 } }

/-! ### The tracker tables in Thatch (R148) -/

/-- Thatch of the die of a converter cluster 4d + c. -/
def clusterThatch (c : Nat) : Nat := thatchBase + c / 4 * thatchStride

/-- The device address of the record of tracker i of a cluster, once an image has placed the cluster's table (R148). -/
def trackerPlace (s : State) (c i : Nat) : Option Nat := (s.num.trackerTables[c]?).map fun o => clusterThatch c + o + 192 * i

/-- Tracker i of a cluster: its record and planes as Thatch holds them (R148, R150; the planes' offsets count from the start
of the die's Thatch, log 8: DEDUCED), with what stands outside them. -/
def trackerAt (s : State) (c i : Nat) : Option Tracker :=
  ((s.num.trackers.getD c [])[i]?).map fun t =>
    match trackerPlace s c i with
    | none => t
    | some a =>
      t.load (readBytes s a 192 ++ readBytes s (clusterThatch c + readLE s (a + 0x28) 4) (2 * t.blocks.length)
        ++ readBytes s (clusterThatch c + readLE s (a + 0x24) 4) (2 * t.chans.length))

/-- A tracker's record and planes stored in Thatch. -/
def storeTracker (s : State) (c i : Nat) (t : Tracker) : State :=
  match trackerPlace s c i with
  | none => s
  | some a =>
    let s := writeBytes (writeBytes s a t.record) (clusterThatch c + t.blockPlane) (t.blocks.flatMap fun b => leBytes 2 b.word)
    if t.omode % 4 = 2 then writeBytes s (clusterThatch c + t.chanPlane) (t.chans.flatMap (leBytes 2)) else s

/-- A tracker changed. -/
def modTracker (s : State) (c i : Nat) (f : Tracker → Tracker) : State :=
  match trackerAt s c i with
  | none => s
  | some t =>
    storeTracker { s with num := { s.num with trackers := s.num.trackers.modify c fun l => l.modify i fun _ => f t } } c i (f t)

/-- Cluster and index of every tracker, in the order of R179. -/
def trackerIds (s : State) : List (Nat × Nat) :=
  (s.num.trackers.zipIdx).flatMap fun (l, c) => (List.range l.length).map fun i => (c, i)

/-- Every tracker with its cluster and index, in the order of R179. -/
def allTrackers (s : State) : List (Nat × Nat × Tracker) :=
  (trackerIds s).filterMap fun x => (trackerAt s x.1 x.2).map fun t => (x.1, x.2, t)

/-- Every tracker replaced by a function of it. -/
def mapTrackers (s : State) (f : Nat → Nat → Tracker → Tracker) : State :=
  (trackerIds s).foldl (fun u x => modTracker u x.1 x.2 (f x.1 x.2)) s

/-- Every tracker's record and planes put in their places in Thatch, as a load, a swap and a restore leave them (R180). -/
def storeTrackers (s : State) : State :=
  (s.num.trackers.zipIdx).foldl (fun u (l, c) => (l.zipIdx).foldl (fun v (t, i) => storeTracker v c i t) u) s

end Sys2Proof.Machine
end

