-- ==== Sys2Proof/Machine/Eaves.lean ====
section
/-!
DEFINITION. The converter clusters: one pass over a conversion tile (R69, R145 to R160), and the ladder's bookkeeping
that starts a tile (R161, R166).
-/
namespace Sys2Proof.Machine

/-! ### Layers and draws -/

/-- A layer changed. -/
def modLayer (s : State) (i : Nat) (f : Layer → Layer) : State :=
  { s with num := { s.num with layers := s.num.layers.modify i f } }

/-- The draw of a purpose with the job seed, the running step and the purpose's base counter (R220 to R224). -/
def drawOf (s : State) (purpose ident draw step : Nat) : Draw :=
  { seed := s.job.seed, ident := ident, step := step, purpose := purpose, draw := draw
    base := reg s (Obj.sloeBase + purpose) }

/-- The index in the whole tensor of element n of the tensor that operation idx of a core draws for (R225). -/
def drawIndex (s : State) (l : Core) (idx n : Nat) : Nat :=
  match s.job.slices.find? fun x => x.core == l.val && x.idx == idx with
  | some x => x.index n
  | none => n

/-- Evaluations counted since start (R241). -/
def countEvals (s : State) (n : Nat) : State := bump s Obj.sloeEvals n

/-- What a unit other than Eaves counts of the elements that flush as it encodes: the UNDERFLOW counter of the core's cluster
(R76, log 127: DESIGN CHOICE). -/
def countFlush (s : State) (l : Core) (n : Nat) : State := bumpIf s (n != 0) (Obj.eavesUnderflow + l.cluster.val) n

/-- The evaluation that derives the key of a drawing operation, counted (R220). -/
def countKey (s : State) : State := countEvals s 1

/-! ### A conversion -/

/-- What a conversion operation names (R286), with its operands resolved. -/
structure ConvSpec where
  src : Desc
  dst : Desc
  mask : Option Desc := none
  list : Option Desc := none
  wide : Option Desc := none
  tracker : Nat := 0
  stoch : Bool := false
  bits : Nat := 8
  zp : Nat := 0
  draw : Nat := 0
  factor : W32 := w32One
  cluster : Nat := 0
  /-- the core and stream index of the operation, for its draws (R225) -/
  core : Core := 0
  idx : Nat := 0
  deriving DecidableEq, Repr

/-- The specification of the conversion at a stream index from its word (R286). -/
def convSpec (s : State) (l : Core) (idx : Nat) (w : BitVec 256) : Except (DescErr × Nat) ConvSpec := do
  let src ← operand! s l (opArg w 0)
  let dst ← dest! s l (opArg w 1) false
  let mask ← operand s l (opArg w 2)
  let list ← destOpt s l (opArg w 3)
  let wide ← destOpt s l (opArg w 4)
  .ok { src := src, dst := dst, mask := mask, list := list, wide := wide
        tracker := opImm w 11 0, stoch := bitOf (opFlags w) 0, bits := opImm w 15 12 + 8, zp := opImm w 19 16
        draw := opImm w 31 20, factor := BitVec.ofNat 32 (opImm w 63 32), cluster := l.cluster.val, core := l, idx := idx }

/-- The source value of element (row, k): the W32 value, times the dropout factor where a mask is named (R228). -/
def convSource (s : State) (c : ConvSpec) (row k : Nat) : Ext :=
  let v := w32Val (w32Elem s c.src c.dst.dim0 row k)
  match c.mask with
  | none => v
  | some m =>
    if !mapBit s m.base (row * c.dst.dim0 + k) then .fin false Dy.zero
    else match v, w32Val c.factor with
      | .fin n a, .fin p b => .fin (n != p) (a.mul b)
      | .nan, _ => .nan
      | _, .nan => .nan
      | .inf n, .fin p b => if b.isZero then .nan else .inf (n != p)
      | .fin n a, .inf p => if a.isZero then .nan else .inf (n != p)
      | .inf n, .inf p => .inf (n != p)

/-- The rounding of element i of a conversion (R72, R73, R225). -/
def convRound (s : State) (c : ConvSpec) (i : Nat) : Rounding :=
  if c.stoch then
    .stoch c.bits ((drawOf s 0 c.dst.ident c.draw s.job.step).srBits c.bits (drawIndex s c.core c.idx i))
  else .near

/-- The format of a rung of the ladder for a base format (R161). -/
def rungFormat (base : Format) (rung : Nat) : Format :=
  match rung with
  | 0 => .b2
  | 1 => .b3
  | 2 => if base == .s4 || base == .u4 then base else .b4
  | 3 => .k8
  | _ => .w16

/-- The area of a conversion tile: rows row0 … and lanes lane0 … of the output. -/
structure ConvArea where
  row0 : Nat
  rowN : Nat
  lane0 : Nat
  laneN : Nat
  deriving DecidableEq, Repr

/-- What one pass counted (R76, R157, R162). -/
structure PassCount where
  ovf : Nat := 0
  under : Nat := 0
  spill : Nat := 0
  lifts : Nat := 0
  nans : Nat := 0
  cands : Nat := 0
  deriving DecidableEq, Repr

/-- How one element of a pass goes: lifted, spilled, or encoded. -/
inductive Fate where
  | plain | lifted | spilled
  deriving DecidableEq, Repr

/-- One element of a pass: its place, value, tracked block, candidacy and fate. -/
structure PassElem where
  row : Nat
  lane : Nat
  val : Ext
  cand : Bool
  fate : Fate
  deriving DecidableEq, Repr

/-- The fates of a tile's elements in (row, lane) order (R156 to R158): in value mode the first CAP candidates are lifted;
in channel mode every element of a listed lane is; other candidates spill. With no outlier mode nothing is lifted and
nothing spills. -/
def fates (omode cap : Nat) (listed : List Nat) : Nat → List (Nat × Nat × Ext × Bool) → List PassElem
  | _, [] => []
  | used, (r, k, v, cand) :: rest =>
    if omode = 2 ∧ listed.contains k then
      { row := r, lane := k, val := v, cand := cand, fate := .lifted } :: fates omode cap listed used rest
    else if !cand || omode = 0 then { row := r, lane := k, val := v, cand := cand, fate := .plain } :: fates omode cap listed used rest
    else if omode = 1 ∧ used < cap then
      { row := r, lane := k, val := v, cand := true, fate := .lifted } :: fates omode cap listed (used + 1) rest
    else { row := r, lane := k, val := v, cand := true, fate := .spilled } :: fates omode cap listed used rest

/-- Whether a finite value saturates the grid under a block scale: |y| > 1 (R151, R156). -/
def saturates (v : Ext) (scale : Dy) : Bool :=
  match v with
  | .fin _ d => !scale.isZero && scale.lt d.abs
  | _ => false

/-- Largest finite magnitude of a list. -/
def maxMag (l : List Ext) : Dy :=
  l.foldl (fun m v => match v with | .fin _ d => if m.lt d.abs then d.abs else m | _ => m) Dy.zero

/-- The fine-scale code that a measured encoding of a block takes (R152): 0x00 is for zeros alone. -/
def measuredScale (t rch : Dy) (vs : List Ext) : Nat :=
  let f := (measureCode t rch (maxMag vs)).1
  if f = 0 ∧ vs.any (!·.isFin) then 1 else f

/-- The K8 code of a lifted value: v/(f × t) by R69 (R157, R158). A wide tensor has its own overflow mode (R291); the
pairs of a list have none and saturate (log 123: DEDUCED). -/
def wideK8 (v : Ext) (scale : Dy) (ovfInf : Bool) : Enc := encode .k8 v scale .near 0 ovfInf false

/-- The wide W16 code of a lifted value: v/t by R69 (R158). -/
def wideW16 (v : Ext) (ts : Dy) (ovfInf : Bool) : Enc :=
  match v with
  | .fin n d => encodeQ .w16 (d.div ts) n .near 0 ovfInf
  | v => encode .w16 v (Dy.ofInt 1) .near 0 ovfInf false

/-- Whether a code is a zero code of its format, of either sign (R47, R149). -/
def isZeroCode (fm : Format) (zp code : Nat) : Bool := code == zeroCode fm false zp || code == zeroCode fm true zp

/-- The code of an element of a scaled pass (R69): under a scale of 0x00 every finite value is zero. -/
def passCode (fm : Format) (v : Ext) (scale : Dy) (rm : Rounding) (zp : Nat) (ovfInf lifted : Bool) : Enc :=
  if scale.isZero then encode fm (match v with | .fin n _ => .fin n Dy.zero | v => v) (Dy.ofInt 1) rm zp ovfInf false
  else encode fm v scale rm zp ovfInf lifted

/-- Whether an element of a predicted pass is an outlier candidate (R151, R156): its finite y saturates, on a grid by |y| > 1, in another
format as it is encoded. -/
def outlierCand (fm : Format) (v : Ext) (scale : Dy) (rm : Rounding) (zp : Nat) : Bool :=
  if fm.isGrid then saturates v scale else v.isFin && (passCode fm v scale rm zp false false).ovf

/-- Bit pairs ORed into a block-plane entry (R152, R153). -/
def Blk.merge (b : Blk) (sat busy seen nan inf : Bool) : Blk :=
  { b with sat := b.sat || sat, busy := b.busy || busy, seen := b.seen || seen, nan := b.nan || nan, inf := b.inf || inf }

/-- One pass of a scaled conversion over an area (R149 to R158): the output codes, scale plane, list and wide tensor are
written in place, the cluster counters move, and a predicted pass moves the tracker. `fm` is the rung's format; `out` is
the destination (the output tensor, or the staging tensor of R164). A tracker with an outlier mode lifts also when the
operation names no list or wide tensor, or one too small: the lifted codes stand and the values that find no place are
lost (log 120: DESIGN CHOICE). -/
def scaledPass (s : State) (c : ConvSpec) (t : Tracker) (fm : Format) (out : Desc) (a : ConvArea) (measured : Bool) :
    State × PassCount :=
  let size := blockSize c.dst.blk
  let ts := tscaleVal t.tscale
  let rows := (List.range a.rowN).map (a.row0 + ·)
  let lanes := (List.range a.laneN).map (a.lane0 + ·)
  let blocks := blocksOf a.lane0 a.laneN size
  let value := fun r k => convSource s c r k
  -- the code of each tracked block (R149, R152)
  let codes : List (Nat × Nat × Bool) := blocks.map fun ks =>
    let j := ks.headD 0 / size
    if measured then
      let vs := rows.flatMap fun r => ks.map fun k => value r k
      let (f, pinned) := measureCode ts (Dy.ofInt (reach fm c.zp)) (maxMag vs)
      -- 0x00 is for zeros alone (R69, R152)
      (j, if f == 0 && vs.any (!·.isFin) then 1 else f, pinned)
    else (j, (t.blocks.getD j {}).pred, false)
  let codeOf := fun j => ((codes.find? fun x => x.1 == j).map fun x => x.2.1).getD 0
  let omode := if measured || !fm.isGrid then 0 else t.omode % 4
  let nk := (c.dst.dim0 + t.tileLanes - 1) / t.tileLanes
  let kt := a.lane0 / t.tileLanes
  let listed := if omode = 2 then
      (t.chanList.filter fun k => decide (a.lane0 ≤ k ∧ k < a.lane0 + a.laneN)).take t.cap
    else []
  let elems := fates omode t.cap listed 0 (rows.flatMap fun r => lanes.map fun k =>
    let v := value r k
    (r, k, v, !measured && outlierCand fm v ((fineVal (codeOf (k / size))).mul ts) (convRound s c (r * c.dst.dim0 + k)) c.zp))
  -- encode
  let enc : List (PassElem × Enc) := elems.map fun e =>
    let scale := (fineVal (codeOf (e.lane / size))).mul ts
    let rm := convRound s c (e.row * c.dst.dim0 + e.lane)
    (e, passCode fm e.val scale rm c.zp c.dst.ovfInf (e.fate == .lifted))
  let inW16 := omode = 2 ∧ bitOf t.omode 2
  let wides := (enc.filter fun p => p.1.fate == .lifted).map fun p =>
    let inf := omode = 2 ∧ (c.wide.map Desc.ovfInf).getD false
    (p.1, if inW16 then wideW16 p.1.val ts inf else wideK8 p.1.val ((fineVal (codeOf (p.1.lane / size))).mul ts) inf)
  let count : PassCount :=
    { ovf := (enc.filter fun p => p.2.ovf && p.1.fate == .plain).length
        + (wides.filter fun p => p.2.ovf).length
      under := (enc.filter fun p => p.2.under).length + (wides.filter fun p => p.2.under).length
      spill := (enc.filter fun p => p.1.fate == .spilled).length
      lifts := wides.length
      nans := (enc.filter fun p => match p.1.val with | .nan => true | _ => false).length
      cands := (elems.filter fun e => e.cand).length }
  -- store codes, row by row
  let dst := { out with format := fm.code }
  let s := rows.foldl (fun st r =>
    let cs := (enc.filter fun p => p.1.row == r).map fun p => p.2.code
    let n := cs.foldr (fun x acc => x % 2 ^ fm.bits + acc * 2 ^ fm.bits) 0
    let (ad, bit) := dst.elemBit r a.lane0
    writeBits st ad bit (fm.bits * cs.length) n) s
  -- scale plane (R149)
  let s := rows.foldl (fun st r =>
    blocks.foldl (fun st ks =>
      let j := ks.headD 0 / size
      let row := enc.filter fun p => p.1.row == r && p.1.lane / size == j
      let empty := row.all fun p => isZeroCode fm c.zp p.2.code && p.1.fate != .lifted
      let st := writeLE st (dst.scaleAddr r j) 1 (if empty then 0 else codeOf j)
      if fm == .u4 then writeLE st (dst.scaleAddr r j + 1) 1 c.zp else st) st) s
  -- pair or channel list and wide values (R157, R158); a measured pass leaves an empty list
  let laneNo := fun k => t.laneBase + (k - a.lane0)
  let nrow := (c.dst.rows + t.tileRows - 1) / t.tileRows
  let s := match c.list with
    | none => s
    | some h =>
      let (ad, len) := hipArea h (nk * nrow) ((a.row0 / t.tileRows) * nk + kt)
      if t.omode % 4 = 2 then
        let ls := listed.map laneNo
        writeBytes s ad (((ls.flatMap fun x => leBytes 2 x) ++ leBytes 2 0xFFFF).take len)
      else
        let ps := wides.map fun p => p.2.code * 2 ^ 24 + (p.1.row - a.row0) * 256 + laneNo p.1.lane
        writeBytes s ad (((ps.flatMap fun x => leBytes 4 x) ++ leBytes 4 0xFFFFFFFF).take len)
  let s := match c.wide with
    | some wt =>
      if omode = 2 then
        wides.foldl (fun st p =>
          let ci := kt * (t.tileLanes / 16) + (listed.filter (· < p.1.lane)).length
          putCode st { wt with format := if inW16 then Format.code .w16 else Format.code .k8 } p.1.row ci p.2.code) s
      else s
    | none => s
  -- cluster counters move on every pass (R152)
  let s := bumpIf s (count.ovf != 0) (Obj.eavesScaleOvf + c.cluster) count.ovf
  let s := bumpIf s (count.under != 0) (Obj.eavesUnderflow + c.cluster) count.under
  let s := bumpIf s (count.spill != 0) (Obj.eavesOutlierSpill + c.cluster) count.spill
  let s := bumpIf s (count.lifts != 0) (Obj.eavesLifts + c.cluster) count.lifts
  -- the tracker
  let s := modTracker s c.cluster c.tracker fun t =>
    let t := { t with used := true }
    if measured then
      { t with
        ceilMeas := t.ceilMeas || codes.any fun x => x.2.2
        blocks := (t.blocks.zipIdx).map fun (b, j) =>
          match codes.find? fun x => x.1 == j with
          | some x => { b with measured := max b.measured x.2.1 }
          | none => b }
    else
      { t with
        stepOvf := (t.stepOvf + count.ovf) % 2 ^ 32
        stepUnder := (t.stepUnder + count.under) % 2 ^ 32
        stepSpill := (t.stepSpill + count.spill) % 2 ^ 32
        stepNan := (t.stepNan + count.nans) % 2 ^ 32
        stepCandMax := max t.stepCandMax count.cands
        overSpilled := t.overSpilled || decide (count.spill > reg s Obj.sparSpillLimit)
        chans := if t.omode % 4 = 2 then
            (t.chans.zipIdx).map fun (n, k) =>
              min 0xFFFF (n + (elems.filter fun e => e.cand && e.lane == k).length)
          else t.chans
        blocks := (t.blocks.zipIdx).map fun (b, j) =>
          let mine := enc.filter fun p => p.1.lane / size == j
          let scale := (fineVal b.pred).mul ts
          let quarter := (scale.mul (Dy.ofInt (reach fm c.zp))).mul (Dy.pow2 (-2))
          let crowded := rows.any fun r =>
            decide ((mine.filter fun p => p.1.row == r && p.1.cand).length > size / 8)
          if mine.isEmpty then b
          else b.merge
            ((mine.any fun p => p.1.fate != .lifted && p.2.ovf) || crowded
              || wides.any fun p => p.1.lane / size == j && p.2.ovf)
            (mine.any fun p => match p.1.val with | .fin _ d => quarter.le d.abs | _ => false)
            (mine.any fun p => match p.1.val with | .fin _ d => !d.isZero | _ => false)
            (mine.any fun p => match p.1.val with | .nan => true | _ => false)
            (mine.any fun p => match p.1.val with | .inf _ => true | _ => false) }
  let s := if c.stoch then countEvals s ((a.rowN * a.laneN + 7) / 8) else s
  (s, count)

/-- What a predicted pass to W16 at rung 4 leaves in the tracker: its STEP fields, and the NAN and INF bits of its blocks
by the results (R76, R152, R153); with no block scale it judges no SEEN, BUSY or SAT (log 122: DEDUCED). -/
def topRungPass (t : Tracker) (c : ConvSpec) (ovf under nans : Nat) (marks : List (Nat × Bool × Bool)) : Tracker :=
  let size := blockSize c.dst.blk
  { t with
    stepOvf := (t.stepOvf + ovf) % 2 ^ 32, stepUnder := (t.stepUnder + under) % 2 ^ 32, stepNan := (t.stepNan + nans) % 2 ^ 32
    blocks := (t.blocks.zipIdx).map fun (b, j) =>
      let mine := marks.filter fun m => m.1 / size == j
      b.merge false false false (mine.any fun m => m.2.1) (mine.any fun m => m.2.2) }

/-- A conversion to W16 or W32, which has no scales (R148). `predicted` names the tracker of a first pass at rung 4. -/
def plainPass (s : State) (c : ConvSpec) (out : Desc) (a : ConvArea) (predicted : Bool) : State × PassCount :=
  let fm := out.fmt
  let rows := (List.range a.rowN).map (a.row0 + ·)
  let lanes := (List.range a.laneN).map (a.lane0 + ·)
  let enc := rows.flatMap fun r => lanes.map fun k =>
    let v := convSource s c r k
    (r, k, v, encode fm v (Dy.ofInt 1) (convRound s c (r * c.dst.dim0 + k)) c.zp c.dst.ovfInf false)
  let count : PassCount :=
    { ovf := (enc.filter fun p => p.2.2.2.ovf).length
      under := (enc.filter fun p => p.2.2.2.under).length
      nans := (enc.filter fun p => match p.2.2.1 with | .nan => true | _ => false).length }
  let s := rows.foldl (fun st r =>
    let cs := (enc.filter fun p => p.1 == r).map fun p => p.2.2.2.code
    let n := cs.foldr (fun x acc => x % 2 ^ fm.bits + acc * 2 ^ fm.bits) 0
    let (ad, bit) := out.elemBit r a.lane0
    writeBits st ad bit (fm.bits * cs.length) n) s
  let s := bumpIf s (count.ovf != 0) (Obj.eavesScaleOvf + c.cluster) count.ovf
  let s := bumpIf s (count.under != 0) (Obj.eavesUnderflow + c.cluster) count.under
  let nan := fun (p : Nat × Nat × Ext × Enc) => match p.2.2.1 with | .nan => true | _ => false
  let inf := fun (p : Nat × Nat × Ext × Enc) => match decode fm p.2.2.2.code (Dy.ofInt 1) (Dy.ofInt 1) 0 with | .inf _ => true | _ => false
  let s := if predicted then
      modTracker s c.cluster c.tracker fun t =>
        topRungPass t c count.ovf count.under count.nans (enc.map fun p => (p.2.1, nan p, inf p))
    else s
  let s := if c.stoch then countEvals s ((a.rowN * a.laneN + 7) / 8) else s
  (s, count)

/-! ### The ladder's counts (R166) -/

/-- The rung counter of a core, layer and micro-batch. -/
def rungCount (s : State) (core layer mb : Nat) : RungCount :=
  (s.num.rungs.find? fun r => r.core == core && r.layer == layer && r.mb == mb).getD
    { core := core, layer := layer, mb := mb }

/-- A rung counter stored. -/
def putRung (s : State) (r : RungCount) : State :=
  { s with num := { s.num with rungs := r :: (s.num.rungs.filter fun x =>
      !(x.core == r.core && x.layer == r.layer && x.mb == r.mb)) } }

/-- A repeat climbs from one rung to another (R166): steps are counted, the health word and SPAR_FALLBACKS count one,
and reaching SPAR_ESCALATE escalates the layer and micro-batch on this core. -/
def climb (s : State) (l : Core) (layer mb lo hi : Nat) : State :=
  let r := rungCount s l.val layer mb
  let steps := r.steps + (hi - lo)
  let esc := decide (steps ≥ reg s Obj.sparEscalate)
  let s := putRung s { r with steps := steps, highest := max r.highest hi, escalated := r.escalated || esc }
  let s := bumpIf s (esc && !r.escalated) (Obj.sparEscalations + l.val) 1
  let s := bump s (Obj.sparFallbacks + l.val) 1
  modLayer s layer fun y => { y with fallbacks := y.fallbacks + 1, rungMax := max y.rungMax hi }

/-- An escalated start above the rung it would have had (R166). -/
def escalatedStart (s : State) (l : Core) (layer rung : Nat) : State :=
  let s := bump s (Obj.sparFallbacks + l.val) 1
  modLayer s layer fun y => { y with fallbacks := y.fallbacks + 1, rungMax := max y.rungMax rung }

/-- The ladder entry of an operation, when the image names one (R161). -/
def opInfoAt (s : State) (l : Core) (idx : Nat) : Option OpInfo :=
  s.job.opInfo.find? fun o => o.core == l.val && o.idx == idx

/-- Start rung of a layer in the step (R161). -/
def startRung (s : State) (layer : Nat) : Nat := ((s.num.layers[layer]?).map Layer.startRung).getD 2

/-- A tile's trigger recorded in its layer (R162, R169, R175). -/
def fired (s : State) (layer mb : Nat) (ovf spill nonfinite : Bool) : State :=
  modLayer s layer fun y =>
    { y with trgOvf := y.trgOvf || ovf, trgSpill := y.trgSpill || spill, trgNonfinite := y.trgNonfinite || nonfinite
             firedIn := if y.firedIn.contains mb then y.firedIn else mb :: y.firedIn }

/-- Spar accepts a conversion tile (R163): consumers read it at this rung. -/
def acceptTile (s : State) (base : Nat) (a : ConvArea) (rung : Nat) (fm : Format) (ts : W32) : State :=
  { s with num := { s.num with accepted :=
      { base := base, row0 := a.row0, rowN := a.rowN, lane0 := a.lane0, laneN := a.laneN, rung := rung
        format := fm.code, tscale := ts } ::
      (s.num.accepted.filter fun t => !(t.base == base && t.row0 == a.row0 && t.lane0 == a.lane0)) } }

/-- One pass of a conversion tile at a rung (R152, R163): scaled formats through the tracker, W16 at rung 4 without block
scales. -/
def tilePass (s : State) (c : ConvSpec) (fm : Format) (out : Desc) (a : ConvArea) (measured : Bool) :
    State × PassCount :=
  if fm.isScaled then
    match trackerAt s c.cluster c.tracker with
    | some t => scaledPass s c t fm out a measured
    | none => (s, {})
  else
    let on := (trackerAt s c.cluster c.tracker).isSome
    let s := if on then modTracker s c.cluster c.tracker fun t => { t with used := true } else s
    plainPass s c { out with format := fm.code } a (on && !measured)

/-- The conversion tiles of an output (R146): rows outer, lanes inner, at the sizes the tracker's consumer has. -/
def convAreas (d : Desc) (tileRows tileLanes : Nat) : List ConvArea :=
  let tr := max tileRows 1
  let tl := max tileLanes 1
  (List.range ((d.rows + tr - 1) / tr)).flatMap fun i =>
    (List.range ((d.dim0 + tl - 1) / tl)).map fun j =>
      { row0 := i * tr, rowN := min tr (d.rows - i * tr), lane0 := j * tl, laneN := min tl (d.dim0 - j * tl) }

end Sys2Proof.Machine
end

