-- ==== Sys2Proof/Machine/Reed.lean ====
section
/-!
DEFINITION. The forward array: issue of a forward product, its tiles, zero-group skipping, residue verdicts, bank swaps
and the non-finite repeat (R78 to R107, R132, R164 to R166).
-/
namespace Sys2Proof.Machine

/-- Reed's run of a core changed. -/
def modReed (s : State) (l : Core) (f : TileRun → TileRun) : State :=
  modCore s l fun c => { c with reed := c.reed.map f }

/-- The ladder entry of one split of an operation. -/
def opInfoSplit (s : State) (l : Core) (idx split : Nat) : Option OpInfo :=
  s.job.opInfo.find? fun o => o.core == l.val && o.idx == idx && o.split == split

/-- Whether every row of every split of an operation's tiles is masked (R100). -/
def allMasked (s : State) (b : ProdBlock) (ds : List SplitDesc) : Bool :=
  ds.all fun d => (List.range b.m).all fun r => match d.mask with | some m => mapBit s m.base r | none => false

/-- The base format that a streamed operand's rungs carry (R161). -/
def baseFormat (s : State) (i : Option OpInfo) (d : Desc) : Format :=
  match i with
  | some o => ((trackerAt s o.cluster o.tracker).bind fun t => Format.ofCode t.format).getD d.fmt
  | none => d.fmt

/-- The streamed and stationary operands of a tile at a rung (R161, R164): the conversion tile as Spar accepted it, or
the rows in the staging region; from rung 3 the K8 copy. -/
def rungOperands (s : State) (i : Option OpInfo) (d : SplitDesc) (row k rung : Nat) (staged : Bool) : Desc × Desc :=
  let w := d.w.getD d.a
  match i with
  | none => (streamedAs s d.a row k, w)
  | some o =>
    let k8 := (resolve s o.k8).getD o.k8
    if staged then
      let ts := ((trackerAt s o.cluster o.tracker).map Tracker.tscale).getD d.a.tscale
      ({ o.staging with format := (rungFormat (baseFormat s i d.a) rung).code, tscale := ts },
       if rung ≥ 3 then k8 else w)
    else
      let a := streamedAs s d.a row k
      (a, if a.fmt == .k8 || a.fmt == .w16 then k8 else w)

/-- Blocks of a tile row whose fine scale is zero (R101). -/
def zeroBlock (s : State) (g : TileGeom) (row block : Nat) : Bool :=
  g.a.fmt.isScaled && (readByte s (g.a.scaleAddr row block)).toNat == 0

/-- Blocks of a row of the streamed operand, which the zero map counts by (R102). -/
def mapBlocks (b : ProdBlock) (blk : Nat) : Nat := (b.klen + blockSize blk - 1) / blockSize blk

/-- The bit of (row, block) in a zero map (R102). The bits stand row by row, each row's blocks in ascending order, from
the least significant bit of each byte on (log 112: DESIGN CHOICE). -/
def zeroMapIndex (b : ProdBlock) (blk row block : Nat) : Nat := row * mapBlocks b blk + block

/-- The blocks of the tile's reduction range. -/
def tileBlocks (g : TileGeom) : List Nat :=
  (blocksOf g.k0 g.len (blockSize g.a.blk)).map fun ks => ks.headD 0 / blockSize g.a.blk

/-- Whether the prediction of a split is used (R102, R104, R113): skipping was on when the tile issued and is not off for
it, and the map is valid. -/
def predicts (s : State) (l : Core) (r : TileRun) (d : SplitDesc) : Bool :=
  r.skip &&
  match d.zeroMap with
  | some z => (coreOf s l).zeroMaps.contains z.base
  | none => false

/-- The bit of a zero map as it stood when the tile issued (R102, R106). -/
def predictedZero (r : TileRun) (z : Desc) (i : Nat) : Bool := bitOf (memGet r.maps (z.base + i / 8)).toNat (i % 8)

/-- The geometry of a split of Reed's tile before its bank and its prediction are looked at (R87, R91, R161). -/
def reedPlace (s : State) (l : Core) (b : ProdBlock) (r : TileRun) (d : SplitDesc) (split : Nat) : TileGeom :=
  let (_, kt) := tilePlace b r.tile
  let k0 := kt * shapeLanes b.shape
  let i := opInfoSplit s l r.idx split
  let (a, w) := rungOperands s i d 0 k0 r.rung r.staged
  let g := splitGeom b d r.tile a w
  if r.rung ≥ 4 then { g with wConv := true, scale := w32One } else g

/-- The memory of the active bank, when it holds the stationary operand of this tile and split (R82). -/
def activeBank (s : State) (l : Core) (r : TileRun) (split : Nat) (w : Desc) : Option Mem :=
  match (coreOf s l).reedActive with
  | some k => if k.idx = r.idx ∧ k.tile = r.tile ∧ k.ops[split]? = some w then some k.mem else none
  | none => none

/-- The geometry of a split of Reed's tile (R82, R87, R91, R103, R161). -/
def reedGeom (s : State) (l : Core) (b : ProdBlock) (r : TileRun) (d : SplitDesc) (split : Nat) : TileGeom :=
  let g := reedPlace s l b r d split
  { g with bank := activeBank s l r split g.w
           skipped := if predicts s l r d then d.zeroMap.map fun z => (z, r.maps, mapBlocks b g.a.blk) else none }

/-- The first unmasked (row, block) predicted zero whose fine scale is not (R104). -/
def missOf (s : State) (l : Core) (b : ProdBlock) (r : TileRun) (d : SplitDesc) (g : TileGeom) : Option (Nat × Nat) :=
  if !predicts s l r d then none
  else match d.zeroMap with
    | none => none
    | some z =>
      ((liveRows s g).flatMap fun row => (tileBlocks g).map fun j => (row, j)).find? fun (row, j) =>
        predictedZero r z (zeroMapIndex b g.a.blk row j) && !zeroBlock s g row j

/-- The unmasked rows that the feed leaves out: every group predicted zero and no Hip products (R103). -/
def removedRows (s : State) (l : Core) (b : ProdBlock) (r : TileRun) (d : SplitDesc) (g : TileGeom)
    (hip : List HipEntry) : List Nat :=
  if !predicts s l r d || b.shape == 2 then []
  else match d.zeroMap with
    | none => []
    | some z => (liveRows s g).filter fun row =>
        (tileBlocks g).all (fun j => predictedZero r z (zeroMapIndex b g.a.blk row j)) && !(hip.any fun h => h.row == row)

/-- The zero map overwritten with the actual state of the tile's blocks (R102). -/
def recordZeros (s : State) (b : ProdBlock) (d : SplitDesc) (g : TileGeom) : State :=
  match d.zeroMap with
  | none => s
  | some z => (liveRows s g).foldl (fun t row => (tileBlocks g).foldl (fun t j =>
      putBit t z.base (zeroMapIndex b g.a.blk row j) (zeroBlock t g row j)) t) s

/-- Lifted codes met in a tile's stationary load (R84). -/
def statLifts (s : State) (g : TileGeom) : Nat :=
  if !g.w.fmt.isGrid || g.wConv then 0
  else ((List.range g.cols).map fun c =>
    ((List.range g.len).filter fun k => elemCode s g.w (if g.wRed then g.k0 + k else g.col0 + c)
      (if g.wRed then g.col0 + c else g.k0 + k) == liftedCode g.w.fmt).length).foldl (· + ·) 0

/-- The stationary operand of Reed's tile loaded into a bank (R80, R81): each lifted code that is met counts (R84). -/
def loadReedBank (s : State) (l : Core) (b : ProdBlock) (ds : List SplitDesc) (r : TileRun) : State × CellBank :=
  let gs := (ds.zipIdx).map fun (d, i) => reedPlace s l b r d i
  let lifts := (gs.map fun g => statLifts s g).foldl (· + ·) 0
  (bumpIf s (lifts != 0) (Obj.reedStatLift + l.val) lifts,
    { idx := r.idx, tile := r.tile, ops := gs.map TileGeom.w, mem := s.mem })

/-- The operands that a tile's cells must hold. -/
def bankOps (s : State) (l : Core) (b : ProdBlock) (ds : List SplitDesc) (r : TileRun) : List Desc :=
  (ds.zipIdx).map fun (d, i) => (reedPlace s l b r d i).w

/-- Whether a bank holds a tile's stationary operand. -/
def CellBank.holds (k : CellBank) (idx tile : Nat) (ops : List Desc) : Bool := k.idx == idx && k.tile == tile && k.ops == ops

/-- The active bank made to hold the tile's operand (R82, R164): the bank in use stays for a repeat, the shadow bank is
swapped in when it holds the operand, and else the operand is loaded. -/
def reedActivate (s : State) (l : Core) (b : ProdBlock) (ds : List SplitDesc) (r : TileRun) : State :=
  let ops := bankOps s l b ds r
  let c := coreOf s l
  if c.reedActive.any fun k => k.holds r.idx r.tile ops then s
  else match c.reedShadow with
    | some k =>
      if k.holds r.idx r.tile ops then modCore s l fun c => { c with reedActive := some k, reedShadow := none }
      else let (t, k) := loadReedBank s l b ds r; modCore t l fun c => { c with reedActive := some k }
    | none => let (t, k) := loadReedBank s l b ds r; modCore t l fun c => { c with reedActive := some k }

/-- The load of the next tile of the operation into the shadow bank, which starts with the swap (R83, log 116: DESIGN
CHOICE). -/
def reedPreload (s : State) (l : Core) (b : ProdBlock) (ds : List SplitDesc) (r : TileRun) : State :=
  if r.tile + 1 < b.tiles ∧ !((coreOf s l).reedShadow.any fun k => k.idx == r.idx && k.tile == r.tile + 1) then
    let (t, k) := loadReedBank s l b ds { idx := r.idx, word := r.word, tile := r.tile + 1 }
    modCore t l fun c => { c with reedShadow := some k }
  else s

/-- Whether the shadow bank holds a complete load for the tile that follows, when one does (R82). -/
def shadowReady (s : State) (l : Core) (r : TileRun) : Bool :=
  decide ((prodBlock s l r.word).tiles ≤ r.tile + 1) ||
  (coreOf s l).reedShadow.any fun k => k.idx == r.idx && k.tile == r.tile + 1

/-- A core's flushes by an array count in the UNDERFLOW counter of its cluster (R63, log 25: DEDUCED). They count in every
execution of a tile, also in one that is abandoned (log 115: DEDUCED). -/
def countUnder (s : State) (l : Core) (n : Nat) : State := bumpIf s (n != 0) (Obj.eavesUnderflow + l.cluster.val) n

/-- The streamed descriptor index of the first split whose P is not a finite normal W32 value; its descriptor's address is
the one logged (R62, log 114: DESIGN CHOICE). -/
def badScale (b : ProdBlock) (gs : List (Nat × TileGeom)) : Option Nat :=
  (gs.find? fun (_, g) => !scaleOk g.scale).map fun (i, _) => (b.splits.getD i {}).streamed

/-- One execution of Reed's tile under way (R82 to R104): P and the Hip lists are checked, a predicted block that is not
zero stops it as a miss, else every split's outputs are stored, the zero maps recorded and the flag registers set. -/
def reedExecute (s0 : State) (l : Core) (b : ProdBlock) (ds : List SplitDesc) (r : TileRun) : State :=
  let s := reedPreload (reedActivate s0 l b ds r) l b ds r
  let (_, kt) := tilePlace b r.tile
  let gs := (ds.zipIdx).map fun (d, i) => (d, i, reedGeom s l b r d i)
  match badScale b (gs.map fun (_, i, g) => (i, g)) with
  | some x => opFault (modCore s l fun c => { c with reed := none }) l .reed r.idx 4 (descAddr s l x) eSCHED 0x10
  | none =>
  match gs.find? fun (d, i, _) => !r.staged && !hipListOk s b d i kt with
  | some (d, _, _) =>
    let s := modCore s l fun c => { c with reed := none }
    opFault s l .reed r.idx 0 ((d.hip.map fun h => (hipArea h b.nkt kt).1).getD 0) eSCHED 0x10
  | none =>
    let hips := gs.map fun (d, i, g) => (d, i, g, if r.staged then [] else hipEntries s b d i kt)
    match gs.findSome? fun (d, _, g) => missOf s l b r d g with
    | some m => modCore s l fun c => { c with reed := some { r with miss := some m, lastRow := m.1, verdict := false } }
    | none =>
      let removed := (hips.map fun (d, _, g, h) => (removedRows s l b r d g h).length).foldl (· + ·) 0
      let fed := hips.flatMap fun (d, _, g, h) =>
        let gone := removedRows s l b r d g h
        (liveRows s g).filter fun x => !gone.contains x
      let outs := hips.map fun (d, _, g, h) => (d, g, tileOut s g h)
      let s1 := outs.foldl (fun t (_, g, o) => storeTile t g o) s
      let s2 := outs.foldl (fun t (d, g, _) => recordZeros t b d g) s1
      let s3 := outs.foldl (fun t (_, _, o) => countUnder t l o.under) s2
      modCore s3 l fun c => { c with reed := some { r with
        flags := outs.map fun (_, _, o) => tileFlags o
        miss := none, removed := removed, lastRow := fed.foldl max 0, verdict := fed.isEmpty } }

/-- A Reed tile handed to Slate as a fallback repeat (R136, R164). -/
def handToSlate (s : State) (l : Core) (r : TileRun) : State :=
  modCore s l fun c => { c with reed := some { r with verdict := false },
                                repeats := c.repeats ++ [{ r with borrowed := 1 }] }

/-- The conversion of the rows of a split into the staging region (R164): the conversion of its streamed operand with its
mask, factor and rounding, whose draws keep their operand's identity (R226). A measured pass makes no list (R156). -/
def stageSpec (s : State) (l : Core) (o : OpInfo) (d : SplitDesc) : Option ConvSpec :=
  match (streamWord s l o.conv).map fun w => convSpec s l o.conv w with
  | some (.ok c) =>
    some { c with dst := { o.staging with blk := d.a.blk, dim0 := d.a.dim0, tscale := d.a.tscale, ident := c.dst.ident }
                  list := none, wide := none }
  | _ => none

/-- The rows of a Reed tile converted again, measured, at a rung into the staging region (R164). -/
def stageRows (s : State) (l : Core) (b : ProdBlock) (r : TileRun) (ds : List SplitDesc) (rung : Nat) : State :=
  let (_, kt) := tilePlace b r.tile
  let lanes := shapeLanes b.shape
  (ds.zipIdx).foldl (fun t (d, i) =>
    match (opInfoSplit t l r.idx i).bind fun o => (stageSpec t l o d).map fun c => (o, c) with
    | none => t
    | some (o, c) =>
      let fm := rungFormat (baseFormat t (some o) d.a) rung
      (tilePass t c fm c.dst { row0 := 0, rowN := b.m, lane0 := kt * lanes, laneN := min lanes (b.klen - kt * lanes) }
        true).1) s

/-- A tile started at its rung (R161, R166): rung 4 goes to Slate, an escalated start above the rung of the rows it
streams is staged and counted. -/
def reedBegin (s : State) (l : Core) (b : ProdBlock) (ds : List SplitDesc) (r : TileRun) : State :=
  match opInfoSplit s l r.idx 0, ds.head? with
  | some o, some d =>
    let (_, kt) := tilePlace b r.tile
    let have_ := ((acceptedAt s d.a.base 0 (kt * shapeLanes b.shape)).map AccTile.rung).getD (startRung s o.layer)
    let rc := rungCount s l.val o.layer o.mb
    let want := if rc.escalated then max rc.highest have_ else have_
    let s := modLayer s o.layer fun y => { y with rungMax := max y.rungMax want }
    if want > have_ then
      let s := escalatedStart (stageRows s l b r ds want) l o.layer want
      let r := { r with rung := want, staged := true }
      if want ≥ 4 then handToSlate s l r else reedExecute s l b ds r
    else if want ≥ 4 then handToSlate s l { r with rung := 4 }
    else reedExecute s l b ds { r with rung := want }
  | _, _ => reedExecute s l b ds r

/-- The next tile of the operation, or its end (R83, R100): a wholly masked operation runs no tile. A tile takes
REED_ZERO_SKIP and the zero maps as they stand when it issues (R102, R113). -/
def reedNext (s : State) (l : Core) (r : TileRun) (t : Nat) : State :=
  let b := prodBlock s l r.word
  match loadSplits s l b with
  | .error e => descFault (modCore s l fun c => { c with reed := none }) l .reed r.idx e
  | .ok ds =>
    if t ≥ b.tiles ∨ allMasked s b ds then
      let maps := ds.filterMap fun d => d.zeroMap.map Desc.base
      markDone (modCore s l fun c => { c with
        reed := none, reedActive := none, reedShadow := none, zeroMaps := maps ++ (c.zeroMaps.filter fun z => !maps.contains z) }) l r.idx
    else reedBegin s l b ds { idx := r.idx, word := r.word, tile := t, words := r.words, maps := s.mem
                              skip := reg s Obj.reedZeroSkip == 1 }

/-- The splits of every tile of a forward product as they stand at issue, for the check of P (R62). -/
def fwdPlaces (s : State) (l : Core) (idx : Nat) (w : BitVec 256) (b : ProdBlock) (ds : List SplitDesc) :
    List (Nat × TileGeom) :=
  (List.range b.tiles).flatMap fun t => (ds.zipIdx).map fun (d, i) => (i, reedPlace s l b { idx := idx, word := w, tile := t } d i)

/-- A forward product whose operands are known issues, unless some P of it is bad (R62, R91). -/
def fwdIssue (s : State) (l : Core) (idx : Nat) (w : BitVec 256) (b : ProdBlock) (ds : List SplitDesc) : State :=
  match badScale b (fwdPlaces s l idx w b ds) with
  | some x => opFault s l .reed idx 4 (descAddr s l x) eSCHED 0x10
  | none => reedNext (productTraffic (issue s l idx w .fwd true) l idx .reed ds) l { idx := idx, word := w } 0

/-- FWD (R91): a forward matrix product issues on Reed and its first tile runs. -/
def execFwd (l : Core) (idx : Nat) (s : State) : Host.Outcome State Fault Refusal :=
  match streamWord s l idx with
  | none => .next s
  | some w =>
    if !canIssue s l idx w .fwd || (coreOf s l).reed.isSome then .next s
    else
      let b := prodBlock s l w
      match loadSplits s l b with
      | .error e => .next (descFault s l .reed idx e)
      | .ok ds => .next (fwdIssue s l idx w b ds)

/-- SKIP_MISS (R104): the tile whose prediction missed is abandoned, both counters move, and it is fed again with
skipping off. `e` is the core's projected end (R108). -/
def execSkipMiss (l : Core) (e : Option Nat) (s : State) : Host.Outcome State Fault Refusal :=
  match (coreOf s l).reed with
  | none => .next s
  | some r =>
    if r.miss.isNone then .next s
    else
      let s := bump (bump s (Obj.reedSkipMiss + l.val) 1) (Obj.reedTileRepeat + l.val) 1
      let b := prodBlock s l r.word
      match loadSplits s l b with
      | .error x => .next (descFault (modCore s l fun c => { c with reed := none }) l .reed r.idx x)
      | .ok ds => .next (projectEnd (reedExecute s l b ds { r with skip := false, miss := none }) l e)

/-- REED_VERDICT (R105 to R107): a row's verdict returns. A pass of the last fed row lets the banks swap; a failure
abandons the tile and repeats it with skipping as it was, also while a miss of a later row waits; a second failure is a
hard core fault, and the tile waits for the move. `e` is the core's projected end (R108). -/
def execReedVerdict (l : Core) (row : Nat) (ok : Bool) (e : Option Nat) (s : State) : Host.Outcome State Fault Refusal :=
  match (coreOf s l).reed with
  | none => .next s
  | some r =>
    if r.verdict ∨ r.rung ≥ 4 ∨ row > r.lastRow ∨ (coreOf s l).moving then .next s
    else if ok then
      .next (if row = r.lastRow ∧ r.miss.isNone then modReed s l fun r => { r with verdict := true } else s)
    else
      let s := bump s (Obj.reedResidueErr + l.val) 1
      if r.fails ≥ 1 then .next (projectEnd (retireCore s l) l e)
      else
        let s := bump s (Obj.reedTileRepeat + l.val) 1
        let s := reportFault s 0x04 0 0 0 l.die.val l.val
        let b := prodBlock s l r.word
        match loadSplits s l b with
        | .error e => .next (descFault (modCore s l fun c => { c with reed := none }) l .reed r.idx e)
        | .ok ds => .next (projectEnd (reedExecute s l b ds { r with fails := 1, miss := none }) l e)

/-- The tile status words written at a swap, one per split (R132). -/
def writeStatus (s : State) (l : Core) (b : ProdBlock) (r : TileRun) (slate : Bool) : State :=
  match operand s l b.status with
  | .ok (some d) =>
    ((r.flags.zipIdx)).foldl (fun t (f, i) =>
      writeLE t (d.base + 8 * (r.words + i)) 8 (statusWord slate i f.nan f.inf)) s
  | _ => s

/-- A non-finite flag in any split. -/
def nonfinite (r : TileRun) : Bool := r.flags.any fun f => f.nan.isSome || f.inf.isSome

/-- The place of sample i in the shadow region of its core (R172, log 121: DESIGN CHOICE). -/
def shadowPlace (s : State) (x : Sample) (i : Nat) : Option Nat :=
  (s.num.shadowAreas[x.core]?).map fun a => a + i * s.num.shadowSlot

/-- The narrow result of a drawn band captured in the core's shadow region, when its chain's result is complete and before any
conversion reads it (R172). Each split is a chain per column block. -/
def captureNarrow (s : State) (l : Core) (b : ProdBlock) (r : TileRun) (ds : List SplitDesc) : State :=
  let (cb, kt) := tilePlace b r.tile
  if kt + 1 ≠ b.nkt then s
  else (ds.zipIdx).foldl (fun s (d, i) =>
    match opInfoSplit s l r.idx i with
    | none => s
    | some o =>
      let out := if kt % 2 = 0 then d.acc0 else d.acc1
      let grab := fun (x : Sample) =>
        (List.range (min 64 (b.m - x.band * 64))).flatMap fun i =>
          (List.range (min 256 (b.n - cb * 256))).map fun c => w32Elem s out b.n (x.band * 64 + i) (cb * 256 + c)
      (s.num.samples.zipIdx).foldl (fun t (x, k) =>
        if x.core == l.val && x.layer == o.layer && x.mb == o.mb && x.chain == o.chain + cb && x.step == s.job.step
            && x.narrow.isNone then
          let v := grab x
          let t := match shadowPlace t x k with
            | some a => writeBytes t (a + t.num.shadowSlot / 2) (v.flatMap fun (w : W32) => leBytes 4 w.toNat)
            | none => t
          { t with num := { t.num with samples := t.num.samples.modify k fun x => { x with narrow := some v } } }
        else t) s) s

/-- A completed Reed tile (R82, R132, R164, R165): its status words are written and counted; a non-finite flag below
rung 4 repeats it at the next rung from the staging region; otherwise the next tile starts. -/
def reedFinish (s : State) (l : Core) (r : TileRun) (slate : Bool) : State :=
  let b := prodBlock s l r.word
  match loadSplits s l b with
  | .error e => descFault (modCore s l fun c => { c with reed := none }) l .reed r.idx e
  | .ok ds =>
    let s := writeStatus s l b r slate
    let s := if slate then s else bump s (Obj.reedTiles + l.val) 1
    let s := bumpIf s (r.removed != 0) (Obj.reedRowsSkipped + l.val) r.removed
    match opInfoSplit s l r.idx 0 with
    | some o =>
      if nonfinite r ∧ r.rung < 4 then
        let next := r.rung + 1
        let s := fired s o.layer o.mb false false true
        let s := climb s l o.layer o.mb r.rung next
        let s := bump s (Obj.reedTileRepeat + l.val) 1
        let s := stageRows s l b r ds next
        let r' := { r with rung := next, staged := true, fails := 0, verdict := false, removed := 0 }
        if next ≥ 4 then handToSlate s l r' else reedExecute s l b ds r'
      else
        let s := if nonfinite r then bump (fired s o.layer o.mb false false true) Obj.sparTopRung 1 else s
        reedNext (captureNarrow s l b r ds) l { r with words := r.words + ds.length } (r.tile + 1)
    | none => reedNext s l { r with words := r.words + ds.length } (r.tile + 1)

/-- A delay that Spar causes (R168): the core's projected end, and the stretch requests that it causes, which count in
SPAR_STRETCH_REQ. -/
def sparDelay (s : State) (l : Core) (e : Option Nat) : State :=
  let u := projectEnd s l e
  let sent := (reg u Obj.stretchSent + 2 ^ 32 - reg s Obj.stretchSent) % 2 ^ 32
  bumpIf u (sent != 0) Obj.sparStretchReq sent

/-- Whether a tile has a Hip list in some split (R96). -/
def hasHip (s : State) (l : Core) (w : BitVec 256) : Bool :=
  (prodBlock s l w).splits.any fun e => e.hip != noDesc

/-- REED_BANK_SWAP (R82): the shadow bank holds a complete load and the last verdict has returned. `held` is the ac for
which the tile's feed was held for Hip (R98), `l.ending` the core's projected end when Hip, a load, a repeat or a wait for
operands delayed the tile (R108); a repeat or an escalated start in the staging region is a delay of Spar's (R168). -/
def execReedBankSwap (l : Foreseen Core) (held : Nat) (s : State) : Host.Outcome State Fault Refusal :=
  match (coreOf s l.on).reed with
  | none => .next s
  | some r =>
    if r.verdict ∧ r.miss.isNone ∧ r.rung < 4 ∧ ¬ (coreOf s l.on).moving ∧ shadowReady s l.on r then
      let u := reedFinish (bumpIf s (held != 0 && hasHip s l.on r.word) (Obj.reedHipStall + l.on.val) held) l.on r false
      .next (if r.staged || (coreOf u l.on).reed.any TileRun.staged then sparDelay u l.on l.ending else projectEnd u l.on l.ending)
    else .next s

end Sys2Proof.Machine
end

