-- ==== Sys2Proof/Machine/Slate.lean ====
section
/-!
DEFINITION. The backward array: single products, the alternating pair BP256, transposed streams, tied sums, verdicts,
bank swaps and borrowed slots (R114 to R142, R172).
-/
namespace Sys2Proof.Machine

/-- Slate's run of a core changed. -/
def modSlate (s : State) (l : Core) (f : TileRun → TileRun) : State :=
  modCore s l fun c => { c with slate := c.slate.map f }

/-- m-blocks of a BP256 operation (R124, R288). -/
def mBlocks (b : ProdBlock) : Nat := (b.m + 255) / 256

/-- Pairs of a BP256 operation: p = (i × NKT + c) × NCB + j (R288). -/
def pairCount (b : ProdBlock) : Nat := mBlocks b * b.nkt * b.ncb

/-- i, c and j of a pair (R288). -/
def pairPlace (b : ProdBlock) (p : Nat) : Nat × Nat × Nat := (p / (b.nkt * b.ncb), p / b.ncb % b.nkt, p % b.ncb)

/-- The input-gradient tile of a pair (R124): it streams the rows of D of m-block i, block-scaled, against the Wᵀ block
of n-block j and k-block c loaded in lane order, and adds into dX. KLEN is K and N is N (log 26: DEDUCED). -/
def igGeom (b : ProdBlock) (d : SplitDesc) (p : Nat) : TileGeom :=
  let (i, c, j) := pairPlace b p
  { a := d.a, w := d.w.getD d.a, crossW := b.crossW, wRed := true
    row0 := i * 256, rows := min 256 (b.m - i * 256), k0 := j * 256, len := min 256 (b.n - j * 256)
    col0 := c * 256, cols := min 256 (b.klen - c * 256)
    mask := d.mask
    start := if j = 0 then (if b.startFlag then d.start else none)
             else some (if (j - 1) % 2 = 0 then d.acc0 else d.acc1)
    out := if j % 2 = 0 then d.acc0 else d.acc1
    width := b.klen
    last := b.final && j + 1 == b.ncb
    scale := scaleProduct (scaleOf d.a) (scaleOf (d.w.getD d.a))
    deriv := b.deriv, alpha := b.alpha
    saved := if b.deriv = 7 then d.wide else d.saved
    table := if b.deriv = 7 then d.saved else none }

/-- The weight-gradient tile of a pair (R124): it streams rows of Xᵀ, cross-scaled, against the captured D block,
cross-scaled, and adds into dW; lanes of masked rows of D are gated (R140). -/
def wgGeom (b : ProdBlock) (d0 d1 : SplitDesc) (p : Nat) : TileGeom :=
  let (i, c, j) := pairPlace b p
  { a := d1.a, w := d0.a, crossA := true, crossW := true, wRed := true
    row0 := c * 256, rows := min 256 (b.klen - c * 256), k0 := i * 256, len := min 256 (b.m - i * 256)
    col0 := j * 256, cols := min 256 (b.n - j * 256)
    mask := d1.mask, gate := d0.mask
    start := if i = 0 then (if b.startFlag then d1.start else none)
             else some (if (i - 1) % 2 = 0 then d1.acc0 else d1.acc1)
    out := if i % 2 = 0 then d1.acc0 else d1.acc1
    width := b.n
    last := b.final && i + 1 == mBlocks b
    scale := scaleProduct (scaleOf d1.a) (scaleOf d0.a) }

/-- The tiles of period or tile t of an operation, with the split each runs on (R123, R124). -/
def slatePlaces (b : ProdBlock) (ds : List SplitDesc) (t : Nat) : List (Nat × TileGeom) :=
  match ds with
  | [d] => [(0, splitGeom b d t d.a (d.w.getD d.a))]
  | [d0, d1] =>
    let ig := if t < pairCount b then [(t % 2, igGeom b d0 t)] else []
    let wg := if 0 < t ∧ t ≤ pairCount b then [((t - 1) % 2, wgGeom b d0 d1 (t - 1))] else []
    if t % 2 = 0 then ig ++ wg else wg ++ ig
  | _ => []

/-- The tiles that run in a period: one whose tile rows are all masked is skipped (R100, R140). -/
def slateGeoms (s : State) (b : ProdBlock) (ds : List SplitDesc) (t : Nat) : List (Nat × TileGeom) :=
  (slatePlaces b ds t).filter fun (_, g) => !(liveRows s g).isEmpty

/-- The bank that a load of period t leaves (R116): the stationary blocks in their order, or the captured rows of D (R124),
as memory holds them when the load starts. -/
def slateLoad (s : State) (b : ProdBlock) (ds : List SplitDesc) (idx t : Nat) : CellBank :=
  { idx := idx, tile := t, ops := (slatePlaces b ds t).map fun (_, g) => g.w, mem := s.mem }

/-- The banks as period t begins (R82, R83, R117): the shadow bank with its load is swapped in, or the operand is loaded,
and the load of the next period starts (log 116: DESIGN CHOICE). A repeat finds its operand in the active bank. -/
def slateBanks (s : State) (l : Core) (b : ProdBlock) (ds : List SplitDesc) (idx t n : Nat) : State :=
  let ops := (slatePlaces b ds t).map fun (_, g) => g.w
  let c := coreOf s l
  if c.slateActive.any fun k => k.holds idx t ops then s
  else
    let k := match c.slateShadow with
      | some k => if k.holds idx t ops then k else slateLoad s b ds idx t
      | none => slateLoad s b ds idx t
    modCore s l fun c => { c with slateActive := some k
                                  slateShadow := if t + 1 < n then some (slateLoad s b ds idx (t + 1)) else none }

/-- The tiles of a period with the active bank as their stationary operand (R82). -/
def slateBanked (s : State) (l : Core) (idx t : Nat) (gs : List (Nat × TileGeom)) : List (Nat × TileGeom) :=
  match (coreOf s l).slateActive with
  | some k => if k.idx = idx ∧ k.tile = t then gs.map fun (h, g) => (h, { g with bank := some k.mem }) else gs
  | none => gs

/-- Tiles or periods of a Slate operation. -/
def slatePeriods (b : ProdBlock) : Nat := if b.shape = 10 then pairCount b + 1 else b.tiles

/-- One execution of the tiles of a period (R120, R124, R129). -/
def slateExecute (s0 : State) (l : Core) (b : ProdBlock) (ds : List SplitDesc) (r : TileRun) : State :=
  let s := slateBanks s0 l b ds r.idx r.tile (slatePeriods b)
  let gs := slateBanked s l r.idx r.tile (slateGeoms s b ds r.tile)
  let outs := gs.map fun (h, g) => (h, g, tileOut s g [])
  let s := outs.foldl (fun t (_, g, o) => storeTile t g o) s
  let s := outs.foldl (fun t (_, _, o) => countUnder t l o.under) s
  let dom := (outs.map fun (_, _, o) => o.domain).foldl (· + ·) 0
  let s := bumpIf s (dom != 0) (Obj.slateDerivDomain + l.val) dom
  let fed := gs.flatMap fun (_, g) => liveRows s g
  modCore s l fun c => { c with slate := some { r with
    flags := outs.map fun (_, _, o) => tileFlags o
    halves := outs.map fun (h, _, _) => h
    waiting := false, lastRow := fed.foldl max 0, verdict := fed.isEmpty } }

/-- Rows of the first tile that a BT operation must find staged (R126). -/
def stagedRows (s : State) (l : Core) (b : ProdBlock) : Nat :=
  match operand s l b.stage with
  | .ok (some d) => (((coreOf s l).published.find? fun p => p.1 == d.base).map fun p => p.2).getD 0
  | _ => 0

/-- The first period from t on, of at most n, in which a tile is not skipped (R100, R140). -/
def slatePeriodFrom (s : State) (b : ProdBlock) (ds : List SplitDesc) (t : Nat) : Nat → Nat
  | 0 => t
  | n + 1 => if (slateGeoms s b ds t).isEmpty then slatePeriodFrom s b ds (t + 1) n else t

/-- Ac of feed that the staged rows allow, and that the whole tile needs, of a BT operation's first tile (R126). -/
def stagedAc (s : State) (l : Core) (b : ProdBlock) (r : TileRun) : Nat := r.perRow * min b.m (stagedRows s l b)

/-- The next tile or period of an own operation, or its end. The first tile of a BT operation is fed as its rows are
staged (R126). -/
def slateNext (s : State) (l : Core) (r : TileRun) (t0 : Nat) : State :=
  let b := prodBlock s l r.word
  match loadSplits s l b with
  | .error e => descFault (modCore s l fun c => { c with slate := none }) l .slate r.idx e
  | .ok ds =>
    let t := slatePeriodFrom s b ds t0 (slatePeriods b - t0)
    if t ≥ slatePeriods b then
      markDone (modCore s l fun c => { c with slate := none, slateActive := none, slateShadow := none }) l r.idx
    else
      let per := ((slatePlaces b ds t).map fun (_, g) => rowAc g).headD 1
      let r : TileRun := { idx := r.idx, word := r.word, tile := t, words := r.words, fedAc := r.fedAc, perRow := per }
      if b.shape = 9 ∧ t = 0 ∧ stagedRows s l b < b.m then
        modCore s l fun c => { c with slate := some { r with waiting := true } }
      else slateExecute s l b ds r

/-- A tile of each product of an operation with the entry that names its streamed operand, for the check of P (R62). -/
def slateScales (b : ProdBlock) (ds : List SplitDesc) : List (Nat × TileGeom) :=
  match ds with
  | [d0, d1] => [(0, igGeom b d0 0), (1, wgGeom b d0 d1 0)]
  | _ => ds.zipIdx.map fun (d, i) => (i, splitGeom b d 0 d.a (d.w.getD d.a))

/-- A backward product whose operands are known issues and its first tile runs, unless some P of it is bad (R62) or its
derivative table is (R131). -/
def slateBegin (s : State) (op : Opcode) (l : Core) (idx : Nat) (w : BitVec 256) (b : ProdBlock) (ds : List SplitDesc) : State :=
  match badScale b (slateScales b ds) with
  | some x => opFault s l .slate idx 4 (descAddr s l x) eSCHED 0x10
  | none =>
    let table := if b.deriv = 7 then (ds.head?.bind fun d => d.saved).map Desc.base else none
    match table.filter fun t => !tableOk s t with
    | some t => opFault s l .slate idx 0 t eSCHED 0x10
    | none => slateNext (productTraffic (issue s l idx w op true) l idx .slate ds) l { idx := idx, word := w } 0

/-- A product issues on Slate: descriptors, P and a derivative table are checked (R62, R131, R293). -/
def slateIssue (op : Opcode) (l : Core) (idx : Nat) (s : State) : State :=
  match streamWord s l idx with
  | none => s
  | some w =>
    if !canIssue s l idx w op || !slateFree s l then s
    else
      let b := prodBlock s l w
      match loadSplits s l b with
      | .error e => descFault s l .slate idx e
      | .ok ds => slateBegin s op l idx w b ds

/-- BWD (R123): a backward product on B512 or BT issues on Slate. -/
def execBwd (l : Core) (idx : Nat) (s : State) : Host.Outcome State Fault Refusal := .next (slateIssue .bwd l idx s)

/-- BPAIR (R124): a BP256 pair operation issues on Slate. -/
def execBpair (l : Core) (idx : Nat) (s : State) : Host.Outcome State Fault Refusal := .next (slateIssue .bpair l idx s)

/-- The tied sum of one element over the uses in ascending order (R135). -/
def tiedSum (xs : List W32) : W32 :=
  match xs with
  | [] => 0#32
  | x :: r => r.foldl w32Add x

/-- The operands of a tied sum: the result and the use regions that the list names (R286). -/
def tiedOperands (s : State) (l : Core) (w : BitVec 256) : Except (DescErr × Nat) (Desc × List Desc) := do
  let out ← dest! s l (opArg w 0)
  let list ← operand! s l (opArg w 1)
  let uses ← ((List.range (opImm w 4 0)).map fun u => readLE s (list.base + 2 * u) 2).mapM fun i => operand! s l i
  .ok (out, uses)

/-- W32 values that a tensor or region holds in one run per row. -/
def w32Count (d : Desc) : Nat := if d.kind = 1 then d.dim0 / 4 else d.dim0

/-- TIEDSUM (R135): the use gradients are added in ascending use order on the accumulator port. `l.ending` is the core's projected
end (R139). -/
def execTiedsum (l : Foreseen Core) (idx : Nat) (s : State) : Host.Outcome State Fault Refusal :=
  match streamWord s l.on idx with
  | none => .next s
  | some w =>
    if !canIssue s l.on idx w .tiedsum || !slateFree s l.on then .next s
    else .next (orFault s l.on .slate idx (do
      let (out, uses) ← tiedOperands s l.on w
      let rows := if out.kind = 1 then 1 else out.rows
      let t := (List.range rows).foldl (fun t i =>
        let xs := (List.range (w32Count out)).map fun k => tiedSum (uses.map fun u => w32Elem s u (w32Count out) i k)
        writeBytes t (w32Addr out (w32Count out) i 0) (xs.flatMap fun x => leBytes 4 x.toNat))
          (traffic (issue s l.on idx w .tiedsum true) l.on idx .slate uses [out])
      .ok (projectEnd (markDone t l.on idx) l.on l.ending)))

/-! ### Shadow-check tiles (R172) -/

/-- A W16 code's exact value. -/
def w16Ext (c : Nat) : Ext := decode .w16 c (Dy.ofInt 1) (Dy.ofInt 1) 0

/-- The product block of an operation that the image names for the ladder, when it is a forward product. -/
def infoBlock (s : State) (o : OpInfo) : Option (Core × ProdBlock) :=
  if h : o.core < 128 then
    match streamWord s ⟨o.core, h⟩ o.idx with
    | some w => if opcodeOf w == some .fwd then some (⟨o.core, h⟩, prodBlock s ⟨o.core, h⟩ w) else none
    | none => none
  else none

/-- The operation and split of a sample's chain, when the image names it (R171, R172): each split has one chain per column
block. -/
def sampleOp (s : State) (x : Sample) : Option OpInfo :=
  s.job.opInfo.find? fun o => o.core == x.core && o.layer == x.layer && o.mb == x.mb && decide (o.chain ≤ x.chain)
    && (infoBlock s o).any fun p => decide (x.chain < o.chain + p.2.ncb)

/-- The block and split of a sample's operation. -/
def sampleBlock (s : State) (_ : Sample) (o : OpInfo) : Option (Core × ProdBlock × SplitDesc) :=
  match infoBlock s o with
  | none => none
  | some (l, b) =>
    match loadSplits s l b with
    | .ok ds => (ds[o.split]?).map fun d => (l, b, d)
    | _ => none

/-- The geometry of the stationary operand of a shadow-check tile: the W16 conversion of the K8 copy (R172). -/
def shadowGeom (s : State) (x : Sample) (o : OpInfo) (b : ProdBlock) (d : SplitDesc) (t : Nat) : TileGeom :=
  let cb := x.chain - o.chain
  { a := d.a, w := (resolve s o.k8).getD o.k8, wConv := true, wRed := b.laneOrder, rows := 0, k0 := t * 512
    len := min 512 (b.klen - t * 512), col0 := cb * 256, cols := min 256 (b.n - cb * 256), out := d.acc0, width := b.n }

/-- One shadow-check tile: the results of a band's rows over 512 of the reduction in W16, chained from the results so far,
with the flushes of each (R63, R87, R136, R172). -/
def shadowTile (s : State) (x : Sample) (o : OpInfo) (b : ProdBlock) (d : SplitDesc) (t : Nat) : List (List (W32 × Nat)) :=
  let cb := x.chain - o.chain
  let g := shadowGeom s x o b d t
  let last := b.final && decide ((t + 1) * 512 ≥ b.klen)
  let prev := x.shadow.getD []
  ((x.rows.getD []).zipIdx).map fun (cs, i) =>
    (List.range g.cols).map fun c =>
      let st := if t = 0 then
          (match (if b.startFlag then d.start else none) with
            | some q => w32Elem s q b.n (x.band * 64 + i) (cb * 256 + c)
            | none => 0#32)
        else prev.getD (i * g.cols + c) 0#32
      let groups := (blocksOf g.k0 g.len (blockSize d.a.blk)).map fun ks : List Nat =>
        ({ pairs := ks.map fun k => ({ val := w16Ext (cs.getD k 0), fine := Dy.ofInt 1 }, stationaryAt s g k (cb * 256 + c))
           fa := Dy.ofInt 1, fw := Dy.ofInt 1, integer := false } : Group)
      dotProduct st groups last w32One

/-- A sample changed by its number. -/
def modSample (s : State) (i : Nat) (f : Sample → Sample) : State :=
  { s with num := { s.num with samples := s.num.samples.modify i f } }

/-- What Eaves counts in the core's cluster as it makes W16 operands (R76, R77). -/
def countConv (s : State) (l : Core) (n : Nat × Nat) : State :=
  bumpIf (bumpIf s (n.1 != 0) (Obj.eavesScaleOvf + l.cluster.val) n.1) (n.2 != 0) (Obj.eavesUnderflow + l.cluster.val) n.2

/-- A shadow-check tile executed (R136, R172): its results stand in the sample's comparison region. -/
def shadowExecute (s : State) (l : Core) (r : TileRun) : State :=
  match s.num.samples[r.idx]? with
  | none => modCore s l fun c => { c with slate := none }
  | some x =>
    match sampleOp s x with
    | none => modCore s l fun c => { c with slate := none }
    | some o =>
      match sampleBlock s x o with
      | none => modCore s l fun c => { c with slate := none }
      | some (_, b, d) =>
        let n := (x.rows.getD []).length
        let res := shadowTile s x o b d r.tile
        let s := countConv s l (convCounts s (shadowGeom s x o b d r.tile))
        let s := countUnder s l (res.flatMap fun row => row.map Prod.snd).sum
        let out : TileOut := { rows := (res.zipIdx).map fun (row, i) => (i, row.map Prod.fst) }
        let s := modCore s l fun c => { c with slate := some { r with
          flags := [tileFlags out], fedAc := 4 * n, perRow := 4, lastRow := n - 1, verdict := n == 0 } }
        if r.fails = 0 then modSample s r.idx fun x => { x with shadow := some (res.flatMap fun row => row.map Prod.fst) }
        else s

/-- A fallback repeat executed on Slate in W16 (R136, R137): it writes the A region of the failed Reed tile from the
same starting values. -/
def repeatExecute (s : State) (l : Core) (r : TileRun) : State :=
  let b := prodBlock s l r.word
  match loadSplits s l b with
  | .error e => descFault (modCore s l fun c => { c with slate := none, reed := none }) l .slate r.idx e
  | .ok ds =>
    let gs := (ds.zipIdx).map fun (d, i) => reedGeom s l b r d i
    let outs := gs.map fun g => (g, tileOut s g [])
    let s := gs.foldl (fun t g => countConv t l (convCounts s g)) s
    let s := outs.foldl (fun t (g, o) => storeTile t g o) s
    let s := outs.foldl (fun t (_, o) => countUnder t l o.under) s
    let fed := outs.flatMap fun (g, _) => liveRows s g
    modCore s l fun c => { c with slate := some { r with
      flags := outs.map fun (_, o) => tileFlags o, fedAc := 4 * fed.length, perRow := 4, lastRow := fed.foldl max 0
      verdict := fed.isEmpty } }

/-- The ac of MUL that borrowed work used (R138): all its rows when it ends, and when the verdict of a row fails those up
to the ac of the verdict, 28 after the row entered MUL (R119, log 117: DEDUCED). -/
def borrowedAc (r : TileRun) (failedRow : Option Nat) : Nat :=
  if r.borrowed = 0 then 0
  else match failedRow with
    | none => r.fedAc
    | some row => min r.fedAc (r.perRow * row + 29)

/-- SLATE_BORROW_AC advanced (R138). -/
def countBorrow (s : State) (l : Core) (r : TileRun) (failedRow : Option Nat) : State :=
  bumpIf s (borrowedAc r failedRow != 0) (Obj.slateBorrowAc + l.val) (borrowedAc r failedRow)

/-- The next sample of a core whose rows are captured and whose shadow tiles have not all run (R172). -/
def nextSample (s : State) (l : Core) : Option Nat :=
  ((s.num.samples.zipIdx).find? fun (x, _) => x.core == l.val && x.rows.isSome && !x.shadowDone).map fun p => p.2

/-- Whether some own Slate operation in the window can issue (R136). -/
def ownSlateReady (s : State) (l : Core) : Bool :=
  let c := coreOf s l
  (List.range 32).any fun i =>
    match streamWord s l (c.base + i) with
    | none => false
    | some w => match opcodeOf w with
      | some op => op.queue == .slate && canIssue s l (c.base + i) w op
      | none => false

/-- SLATE_BORROW_ISSUE (R136, R138): between Slate operations, a fallback repeat goes first, then an own operation whose
tokens are set, then one shadow-check tile. `loaded` says that the shadow bank held a load for the next own operation,
which borrowed work discards; `l.ending` is the core's projected end (R139), which for a repeat is a delay of Spar's (R168). -/
def execSlateBorrowIssue (l : Foreseen Core) (loaded : Bool) (s : State) : Host.Outcome State Fault Refusal :=
  let c := coreOf s l.on
  if c.slate.isSome || c.moving then .next s
  else match c.repeats with
    | r :: rest =>
      let s := bumpIf s loaded (Obj.slateReload + l.on.val) 1
      .next (sparDelay (repeatExecute (modCore s l.on fun c => { c with repeats := rest }) l.on { r with borrowed := 1 }) l.on l.ending)
    | [] =>
      if ownSlateReady s l.on then .next s
      else match nextSample s l.on with
        | none => .next s
        | some i =>
          let s := bumpIf s loaded (Obj.slateReload + l.on.val) 1
          .next (projectEnd (shadowExecute s l.on
            { idx := i, word := 0#256, tile := ((s.num.samples[i]?).map Sample.ran).getD 0, borrowed := 2 }) l.on l.ending)

/-- The work under way fed again from its first row (R125, R141). -/
def slateRepeat (s : State) (l : Core) (r : TileRun) : State :=
  match r.borrowed with
  | 1 => repeatExecute s l r
  | 2 => shadowExecute s l r
  | _ =>
    let b := prodBlock s l r.word
    match loadSplits s l b with
    | .error e => descFault (modCore s l fun c => { c with slate := none }) l .slate r.idx e
    | .ok ds => slateExecute s l b ds r

/-- Tiles that an abandonment abandons: both of a BP256 period, else one (R125). -/
def abandonedTiles (r : TileRun) : Nat := if r.borrowed = 0 then max 1 r.halves.length else 1

/-- SLATE_VERDICT (R125, R141): a pass of the last row lets the banks swap; a failure repeats the tile, or both tiles of
a BP256 period; a second failure is a hard core fault. `e` is the core's projected end (R108). -/
def execSlateVerdict (l : Core) (row : Nat) (ok : Bool) (e : Option Nat) (s : State) : Host.Outcome State Fault Refusal :=
  match (coreOf s l).slate with
  | none => .next s
  | some r =>
    if r.waiting ∨ r.verdict ∨ row > r.lastRow ∨ (coreOf s l).moving then .next s
    else if ok then .next (if row = r.lastRow then modSlate s l fun r => { r with verdict := true } else s)
    else
      let s := countBorrow (bump s (Obj.slateResidueErr + l.val) 1) l r (some row)
      if r.fails ≥ 1 then .next (projectEnd (retireCore s l) l e)
      else
        let s := bump s (Obj.slateTileRepeat + l.val) (abandonedTiles r)
        let s := reportFault s 0x04 0 0 0 l.die.val l.val
        .next (projectEnd (slateRepeat s l { r with fails := 1 }) l e)

/-- The status words of a Slate period and their counters (R132, R133, R167). -/
def slateStatus (s : State) (l : Core) (b : ProdBlock) (r : TileRun) : State :=
  let s := match operand s l b.status with
    | .ok (some d) =>
      ((r.flags.zip r.halves).zipIdx).foldl (fun t ((f, h), i) =>
        writeLE t (d.base + 8 * (r.words + i)) 8 (statusWord true h f.nan f.inf)) s
    | _ => s
  s

/-- The counters of words with NAN_SEEN or INF_SEEN, and the layer's health word (R133, R167). -/
def slateFlagCounts (s : State) (l : Core) (r : TileRun) : State :=
  let n := (r.flags.filter fun f => f.nan.isSome).length
  let i := (r.flags.filter fun f => f.inf.isSome).length
  let s := bumpIf s (n != 0) (Obj.slateNanTiles + l.val) n
  let s := bumpIf s (i != 0) (Obj.slateInfTiles + l.val) i
  match opInfoAt s l r.idx with
  | some o => if n + i = 0 then s else modLayer s o.layer fun y => { y with trgNonfinite := true }
  | none => s

/-- A completed period, repeat or shadow tile (R117, R132, R137, R172). After a shadow-check tile the scheduler chooses
again what runs next (R136). -/
def slateFinish (s : State) (l : Core) (r : TileRun) : State :=
  let s := countBorrow (bump s (Obj.slateTiles + l.val) (abandonedTiles r)) l r none
  match r.borrowed with
  | 1 =>
    let s := slateFlagCounts s l r
    let s := modCore s l fun c => { c with slate := none }
    reedFinish s l { r with borrowed := 0 } true
  | 2 =>
    let s := modCore s l fun c => { c with slate := none }
    match s.num.samples[r.idx]? with
    | none => s
    | some x =>
      match (sampleOp s x).bind fun o => sampleBlock s x o with
      | none => s
      | some (_, b, _) =>
        modSample s r.idx fun x => { x with ran := r.tile + 1, shadowDone := decide ((r.tile + 1) * 512 ≥ b.klen) }
  | _ =>
    let b := prodBlock s l r.word
    let s := slateFlagCounts (slateStatus s l b r) l r
    slateNext s l { r with words := r.words + r.flags.length } (r.tile + 1)

/-- SLATE_BANK_SWAP (R117): both halves meet the conditions of R82; the status words are written. `l.ending` is the core's
projected end when a load, a reload or a wait delayed the work (R139). -/
def execSlateBankSwap (l : Foreseen Core) (s : State) : Host.Outcome State Fault Refusal :=
  match (coreOf s l.on).slate with
  | none => .next s
  | some r =>
    if r.verdict ∧ ¬ r.waiting ∧ ¬ (coreOf s l.on).moving then .next (projectEnd (slateFinish s l.on r) l.on l.ending) else .next s

/-- CORE_MOVE_DONE (R107, R125, R429): the scheduler state and local SRAM have reached the target core, through the swap
area, where the local SRAM of a core that now shares its host stays; held accesses go on and the abandoned tiles run
from their first rows, which counts as a repeat. The new core's banks are loaded first (log 116: DESIGN CHOICE). -/
def execCoreMoveDone (l : Core) (s : State) : Host.Outcome State Fault Refusal :=
  let c := coreOf s l
  if !c.moving || c.halted then .next s
  else
    let s := copyMem s (sramAddr l) (s.job.swapAreas.getD l.val 0) sramSize
    let shared := decide ((hosted s (reg s (Obj.logicalCoreMap + l.val))).length > 1)
    let s := modCore s l fun c => { c with moving := false, clockOn := true, switchedOut := shared }
    let s := match c.reed with
      | some r =>
        if r.fails ≥ 1 ∧ ¬ r.verdict ∧ r.rung < 4 then
          let s := bump s (Obj.reedTileRepeat + l.val) 1
          let b := prodBlock s l r.word
          match loadSplits s l b with
          | .error e => descFault (modCore s l fun c => { c with reed := none }) l .reed r.idx e
          | .ok ds =>
            let s := modCore s l fun c => { c with reedActive := none, reedShadow := none }
            reedExecute s l b ds { r with fails := 0, miss := none }
        else s
      | none => s
    match c.slate with
    | some r =>
      if r.fails ≥ 1 ∧ ¬ r.verdict then
        slateMoved (bump s (Obj.slateTileRepeat + l.val) (abandonedTiles r)) r
      else .next s
    | none => .next s
where
  /-- the abandoned Slate work runs again on the new core -/
  slateMoved (s : State) (r : TileRun) : Host.Outcome State Fault Refusal := 
    .next (slateRepeat (modCore s l fun c => { c with slateActive := none, slateShadow := none }) l { r with fails := 0 })

end Sys2Proof.Machine
end

