-- ==== Sys2Proof/Machine/Sched.lean ====
section
/-!
DEFINITION. The scheduler's own operations, the watchdog, clocks and current of a core (R109 to R111, R282 to R302, R318,
R319), time-sharing (R409 to R411), copies and prefetches (R310 to R312).
-/
namespace Sys2Proof.Machine

/-! ### Operations of the SCHED queue -/

/-- NOP (R286): issues when it can, and completes in the ac of issue. -/
def execNop (l : Core) (idx : Nat) (s : State) : Host.Outcome State Fault Refusal :=
  match streamWord s l idx with
  | none => .next s
  | some w =>
    if canIssue s l idx w .nop then .next (setTokens (issue s l idx w .nop false) l (opSets w)) else .next s

/-- WAIT (R286, R296): issues when its tokens are set. -/
def execWait (l : Core) (idx : Nat) (s : State) : Host.Outcome State Fault Refusal :=
  match streamWord s l idx with
  | none => .next s
  | some w =>
    if canIssue s l idx w .wait then .next (setTokens (issue s l idx w .wait false) l (opSets w)) else .next s

/-- SIGNAL (R298): issues and leaves for its target core. -/
def execSignal (l : Core) (idx : Nat) (s : State) : Host.Outcome State Fault Refusal :=
  match streamWord s l idx with
  | none => .next s
  | some w =>
    if canIssue s l idx w .signal then
      let s := setTokens (issue s l idx w .signal false) l (opSets w)
      .next { s with job := { s.job with signals := s.job.signals ++ [(opImm w 6 0, opImm w 15 8)] } }
    else .next s

/-- SIGNAL_ARRIVAL (R297, R298): the oldest signal on its way to a core registers in its scoreboard. `l.ending` is the core's
projected end after the wait (R320). -/
def execSignalArrival (l : Foreseen Core) (s : State) : Host.Outcome State Fault Refusal :=
  match s.job.signals.find? fun x => x.1 == l.on.val with
  | none => .next s
  | some x => .next (projectEnd (setToken { s with job := { s.job with signals := s.job.signals.erase x } } l.on x.2) l.on l.ending)

/-- FENCE (R299, R309): issues after every earlier operation completes; OPF[0] empties the cache. -/
def execFence (l : Core) (idx : Nat) (s : State) : Host.Outcome State Fault Refusal :=
  match streamWord s l idx with
  | none => .next s
  | some w =>
    if canIssue s l idx w .fence then
      let s := issue s l idx w .fence false
      let s := if bitOf (opFlags w) 0 then invalidateCache s l else s
      .next (setTokens s l (opSets w))
    else .next s

/-- TOKEN_TIMEOUT (R300, R314): the oldest operation of the window has waited on its tokens for TOKEN_TIMEOUT with no
token changing. `late` names a token that registers in the same clock: it is accepted. -/
def execTokenTimeout (l : Core) (late : Option (Fin 256)) (s : State) : Host.Outcome State Fault Refusal :=
  let c := coreOf s l
  match streamWord s l c.base with
  | none => .next s
  | some w =>
    if !executing s || s.job.held || c.halted || (opWaits w).all (tokenSet c)
        || !elapsed s c.watch (reg s Obj.tokenTimeout) then .next s
    else match late with
      | some t => .next (setToken (lateAccept s 0) l t.val)
      | none =>
        let q := match opcodeOf w with | some op => op.queue | none => .sched
        .next (opFault s l q c.base 3 c.base eTIMEOUT 0x10)

/-! ### Clocks and current (R109 to R111, R142, R318, R319) -/

/-- The activity of an array. -/
def actOf (s : State) : ArrayUnit → Activity
  | .reed l => (coreOf s l).reedAct
  | .slate l => (coreOf s l).slateAct
  | .quince q => s.power.pipeActs[q]

/-- One array's activity changed. -/
def modAct (s : State) (u : ArrayUnit) (f : Activity → Activity) : State :=
  match u with
  | .reed l => modCore s l fun c => { c with reedAct := f c.reedAct }
  | .slate l => modCore s l fun c => { c with slateAct := f c.slateAct }
  | .quince q => { s with power := { s.power with pipeActs := s.power.pipeActs.set q (f s.power.pipeActs[q]) } }

/-- One ac of an array with every lane or cell in use: activity is counted in 1/131,072 of it, which holds every fraction of
lanes (R109, R142) and of a pipeline's cells (R261) whole. -/
abbrev actUnit : Nat := 131072

/-- Full activity of a window (R109). -/
abbrev fullActivity : Nat := 80 * actUnit

/-- SLEW_DELTA of an array in the units of its activity (R518). -/
def slewOf (s : State) : ArrayUnit → Nat
  | .reed _ => actUnit * reg s Obj.slewDelta
  | .slate _ => actUnit * reg s (Obj.slewDelta + 1)
  | .quince _ => actUnit * reg s (Obj.slewDelta + 2)

/-- The counter of an array's ac with straw (R110, R142, R261). -/
def strawKey : ArrayUnit → Nat
  | .reed l => Obj.reedStrawAc + l.val
  | .slate l => Obj.slateStrawAc + l.val
  | .quince q => Obj.quinceStrawAc + q.val

/-- What a window aims at (R110, R111): straw rows up to full activity before a phase, nothing while the array ramps down, else what its
real rows offer. -/
def Activity.target (a : Activity) (real cap : Nat) : Nat :=
  if real ≠ 0 then (if a.up then max real (min a.last cap) else real) else if a.up then cap else if a.down then 0 else real

/-- The activity of a window (R109, R110, R519): the target, within the allowance of the window before and under the cap, whose
change keeps the allowance too. -/
def windowActivity (last target delta cap : Nat) : Nat := max (last - delta) (min target (min (last + delta) cap))

/-- The logical core whose phase an array's delay lengthens: the array's own, or the one that runs on the pipeline. -/
def actCore (s : State) : ArrayUnit → Option Core
  | .reed l => some l
  | .slate l => some l
  | .quince q => (s.kv.runs.find? fun r => r.pipe == q.val).bind fun r => if h : r.core < 128 then some ⟨r.core, h⟩ else none

/-- Whether an array feeds straw for a reason other than its ramp: a BP256 half without a tile (R124), a tied sum (R135),
the second row of an odd tile in a pipeline (R248). -/
def strawDue (s : State) : ArrayUnit → Bool
  | .reed _ => false
  | .slate l => let c := coreOf s l
      c.slate.any (fun r => r.borrowed == 0 && r.halves.length == 1 && opcodeOf r.word == some .bpair)
        || c.flight.any fun f => opcodeOf f.word == some .tiedsum
  | .quince q => s.kv.runs.any fun r => r.pipe == q.val

/-- ACTIVITY_WINDOW (R109 to R111, R142, R261): a window of 80 ac ends on an array. `real` is the activity that its real rows
offer and `straw` the ac of the window that hold straw rows or lanes; they count when straw was fed. Real rows above the
ramp are held, and `u.ending` is then the core's projected end (R108, R111). A ramp down that has reached 0 stops the array's
clock. -/
def execActivityWindow (u : Foreseen ArrayUnit) (real straw : Nat) (s : State) : Host.Outcome State Fault Refusal :=
  let a := actOf s u.on
  if !a.on && real == 0 then .next s
  else
    let r := min real fullActivity
    let v := windowActivity a.last (a.target r (actUnit * s.power.cap)) (slewOf s u.on) (actUnit * s.power.cap)
    let stop := a.down && real == 0 && v == 0
    let s := modAct s u.on fun a => { a with
      last := v, on := !stop, up := a.up && real == 0, down := a.down && real == 0 && !stop
      idleSince := if real = 0 then a.idleSince else s.clk }
    let n := if v > r then max straw 1 else if strawDue s u.on then straw else 0
    let s := bumpIf s (n != 0) (strawKey u.on) (min 80 n)
    .next (match actCore s u.on with
      | some l => if v < r then projectEnd s l u.ending else s
      | none => s)

/-- Whether some operation in the window has all its tokens set (R318). -/
def someReady (s : State) (l : Core) : Bool :=
  let c := coreOf s l
  (List.range 32).any fun i =>
    match streamWord s l (c.base + i) with
    | none => false
    | some w => !issuedAt c (c.base + i) && (opWaits w).all (tokenSet c)

/-- Whether a phase-open mark at or before position i of the window waits for its time (R319, log 93: DEDUCED). -/
def behindOpen (s : State) (l : Core) (i : Nat) : Bool :=
  let c := coreOf s l
  (List.range (i + 1)).any fun j =>
    match streamWord s l (c.base + j) with
    | none => false
    | some w => isMark w && opImm w 3 0 == 0 && !issuedAt c (c.base + j) && !phaseMayOpen s (markPhase w)

/-- Whether some operation of the window has all its tokens set and no phase open holds it (R318, log 93: DEDUCED). -/
def someUnheld (s : State) (l : Core) : Bool :=
  let c := coreOf s l
  (List.range 32).any fun i =>
    match streamWord s l (c.base + i) with
    | none => false
    | some w => !issuedAt c (c.base + i) && (opWaits w).all (tokenSet c) && !behindOpen s l i

/-- A core whose arrays are stopped, with nothing in flight and nothing ready, stops its clock (R318). Hip works only for
the rows of its Reed and stops with it (log 93: DEDUCED). -/
def restCore (s : State) (l : Core) : State :=
  let c := coreOf s l
  if c.clockOn && !c.reedAct.on && !c.slateAct.on && c.flight.isEmpty && !someUnheld s l then modCore s l fun c => { c with clockOn := false }
  else s

/-- ARRAY_RAMP_DOWN (R111, R142, R261, R318): an array without a real row for 3,200 ac ramps down, by its allowance in each
window that follows; one whose activity is 0 already stops its fast clock. -/
def execArrayRampDown (u : ArrayUnit) (s : State) : Host.Outcome State Fault Refusal :=
  let a := actOf s u
  if !a.on || !elapsed s a.idleSince 4000 then .next s
  else .next (modAct s u fun a => { a with up := false, down := a.last != 0, on := a.last != 0 })

/-- An array's clock restarted before a phase: straw rows ramp it up (R111). -/
def Activity.wake (a : Activity) (clk : Nat) : Activity := { a with on := true, up := true, down := false, idleSince := clk }

/-- Whether an attention operation of a core's window waits to issue. -/
def attnAhead (s : State) (l : Core) : Bool :=
  let c := coreOf s l
  (List.range 32).any fun i => !issuedAt c (c.base + i) && ((streamWord s l (c.base + i)).bind opcodeOf) == some .attn

/-- The pipelines of a die in service ramp up before a phase in which a core is to use them (R111, R261, log 93: DEDUCED). -/
def wakePipes (s : State) (l : Core) : State :=
  if attnAhead s l then
    ((List.finRange 32).filter fun q : Pipe => decide (q.val / 8 = l.die.val) && pipeUp s q.val).foldl
      (fun t q => modAct t (.quince q) fun a => a.wake t.clk) s
  else s

/-- WAKE_TIMER (R111, R261, R319): 3.2 µs before a phase open in the window the core's clock restarts and the arrays ramp.
`l.ending` is the core's projected end after a restart (R320). -/
def execWakeTimer (l : Foreseen Core) (s : State) : Host.Outcome State Fault Refusal :=
  let c := coreOf s l.on
  let due := (List.range 32).any fun i =>
    match streamWord s l.on (c.base + i) with
    | none => false
    | some w => isMark w && opImm w 3 0 == 0 && !issuedAt c (c.base + i)
        && decide (currentStart s (markPhase w) ≤ ptpNow s + 3200)
  if !executing s || !due then .next s
  else .next (projectEnd (wakePipes (modCore s l.on fun c => { c with
    clockOn := true, reedAct := c.reedAct.wake s.clk, slateAct := c.slateAct.wake s.clk }) l.on) l.on l.ending)

/-! ### Time-sharing (R409 to R411) -/

/-- Whether any operation of a core can issue now (R410). -/
def anyIssue (s : State) (l : Core) : Bool :=
  let c := coreOf s l
  (List.range 32).any fun i =>
    match streamWord s l (c.base + i) with
    | none => false
    | some w => match opcodeOf w with
      | some op => canIssue s l (c.base + i) w op
      | none => false

/-- The core that runs on the host of a switched-out core. -/
def hostPartner (s : State) (l : Core) : Option Core :=
  (hosted s (reg s (Obj.logicalCoreMap + l.val))).find? fun x => x != l && !(coreOf s x).switchedOut

/-- TS_SWITCH (R410, R411): the host of a switched-out core switches to it: the local SRAMs pass through the swap areas
and the host's cache and windows are given up. `l.ending` is the core's projected end (R320). -/
def execTsSwitch (l : Foreseen Core) (s : State) : Host.Outcome State Fault Refusal :=
  match hostPartner s l.on with
  | none => .next s
  | some r =>
    let c := coreOf s r
    if !(coreOf s l.on).switchedOut || c.moving || (coreOf s l.on).moving || !c.flight.isEmpty || !c.guards.isEmpty || !someReady s l.on
        || (anyIssue s r && !elapsed s c.switchedIn 500000) then .next s
    else
      let s := copyMem s (sramAddr r) (s.job.swapAreas.getD r.val 0) sramSize
      let s := copyMem s (s.job.swapAreas.getD l.on.val 0) (sramAddr l.on) sramSize
      let s := invalidateCache (invalidateCache s r) l.on
      let s := modCore s r fun c => { c with switchedOut := true }
      let s := modCore s l.on fun c => { c with switchedOut := false, switchedIn := s.clk }
      .next (projectEnd (bump s (Obj.tsSwitches + l.on.val) 1) l.on l.ending)

/-! ### Copies (R310, R126) -/

/-- Every byte of a tensor's rows or of a region, in order. -/
def rowBytesOf (s : State) (d : Desc) : List Byte :=
  if d.kind = 1 then readBytes s d.base d.dim0 else (List.range d.rows).flatMap fun i => readBytes s (d.rowAddr i) d.rowBytes

/-- Bytes laid into the rows of a tensor or into a region, in order, as far as either reaches. -/
def putRowBytes (s : State) (d : Desc) (b : List Byte) : State :=
  if d.kind = 1 then writeBytes s d.base (b.take d.dim0)
  else (List.range d.rows).foldl (fun t i => writeBytes t (d.rowAddr i) ((b.drop (i * d.rowBytes)).take d.rowBytes)) s

/-- Codes of one row packed (R42). -/
def packCodes (bits : Nat) (cs : List Nat) : Nat := cs.foldr (fun x acc => x % 2 ^ bits + acc * 2 ^ bits) 0

/-- The row of the transposed tensor: element k of its row is element (k, column) of the source block (R310). -/
def transposedRow (s : State) (d : Desc) (row : Nat) : List Nat :=
  let col := row % d.dim0
  let outer := row / d.dim0
  (List.range d.dim1).map fun k => elemCode s d (outer * d.dim1 + k) col

/-- The scale plane carried along: as it stands, or transposed as an array of bytes (R310). -/
def copyPlane (s : State) (src dst : Desc) (transpose : Bool) : State :=
  if src.planeBytes = 0 then s
  else if !transpose then writeBytes s dst.splane (readBytes s src.splane src.planeBytes)
  else
    let n := src.blocks * src.scaleStep
    let bytes := (List.range (src.dim2 * src.dim3)).flatMap fun o =>
      (List.range n).flatMap fun j => (List.range src.dim1).map fun k => readByte s (src.splane + (o * src.dim1 + k) * n + j)
    writeBytes s dst.splane bytes

/-- A copy's results (R310). -/
def copyData (s : State) (src dst : Desc) (transpose planes : Bool) : State :=
  let t := if transpose then
      (List.range (src.dim0 * src.dim2 * src.dim3)).foldl (fun t i =>
        let cs := transposedRow s src i
        writeBits t (dst.rowAddr i) 0 (src.fmt.bits * cs.length) (packCodes src.fmt.bits cs)) s
    else putRowBytes s dst (rowBytesOf s src)
  if planes then
    let u := copyPlane s src dst transpose
    if src.planeBytes = 0 then t
    else writeBytes t dst.splane (readBytes u dst.splane src.planeBytes)
  else t

/-- COPY (R310): a plain or transposing copy issues on Gutter and moves bits unchanged; a transposing copy publishes its
rows as they complete. -/
def execCopy (l : Core) (idx : Nat) (s : State) : Host.Outcome State Fault Refusal :=
  match streamWord s l idx with
  | none => .next s
  | some w =>
    if !canIssue s l idx w .copy then .next s
    else .next (orFault s l .gutter idx (do
      let src ← operand! s l (opArg w 0)
      let dst ← dest! s l (opArg w 1)
      let tr := bitOf (opFlags w) 0
      let planes := bitOf (opFlags w) 1
      let runs := if planes then descRuns else dataRuns
      let s := readRuns (issue s l idx w .copy true) l idx .gutter src (runs src)
      let s := copyData (askRuns s l idx .gutter true (runs dst)) src dst tr planes
      .ok (if tr then modCore s l fun c => { c with
              published := (dst.base, 0) :: (c.published.filter fun p => p.1 != dst.base) }
           else markDone s l idx)))

/-- COPY_ROW_PUBLISH (R126): a transposing copy completes a row and publishes the count; Slate's held feed goes on when
the rows it needs are staged, and the copy ends with its last row. `l.ending` is the core's projected end after a wait (R139). -/
def execCopyRowPublish (l : Foreseen Core) (idx : Nat) (s : State) : Host.Outcome State Fault Refusal :=
  match (coreOf s l.on).flight.find? fun f => f.idx == idx && opcodeOf f.word == some .copy && !f.done with
  | none => .next s
  | some f =>
    match operand s l.on (opArg f.word 0), operand s l.on (opArg f.word 1) with
    | .ok (some src), .ok (some dst) =>
      let n := (((coreOf s l.on).published.find? fun p => p.1 == dst.base).map Prod.snd).getD 0 + 1
      let total := src.dim0 * src.dim2 * src.dim3
      let s := modCore s l.on fun c => { c with published := (dst.base, n) :: (c.published.filter fun p => p.1 != dst.base) }
      let s := if n ≥ total then markDone s l.on idx else s
      match (coreOf s l.on).slate with
      | some r => if r.waiting then .next (projectEnd (slateNext s l.on r r.tile) l.on l.ending) else .next s
      | none => .next s
    | _, _ => .next s

/-! ### Prefetches (R311, R312) -/

/-- PREFETCH (R311): takes a comparator for its source range, clears STALE and reads the range into its buffer; with no
comparator free it waits at issue. -/
def execPrefetch (l : Core) (idx : Nat) (s : State) : Host.Outcome State Fault Refusal :=
  match streamWord s l idx with
  | none => .next s
  | some w =>
    if !canIssue s l idx w .prefetch || comparators (coreOf s l) ≥ 64 then .next s
    else .next (orFault s l .prefetch idx (do
      let src ← operand! s l (opArg w 0)
      let dst ← dest! s l (opArg w 1)
      let s := issue s l idx w .prefetch true
      let g : Guard := { op := idx, consumer := idx + opImm w 15 0, base := src.base, len := src.spanBytes, buffer := dst.base }
      let s := modCore s l fun c => { c with guards := c.guards ++ [g] }
      let s := askRuns s l idx .prefetch false (dataRuns src)
      .ok (markDone (putRowBytes s dst (rowBytesOf s src)) l idx)))

/-- The prefetch's range read again and STALE cleared (R312). -/
def refetch (s : State) (l : Core) (g : Guard) (w : BitVec 256) : State :=
  match operand s l (opArg w 0), operand s l (opArg w 1) with
  | .ok (some src), .ok (some dst) =>
    let s := modCore s l fun c => { c with guards := c.guards.map fun x => if x == g then { x with stale := none } else x }
    let s := putRowBytes s dst (rowBytesOf s src)
    askRuns (bump s (Obj.prefetchRefetch + l.val) 1) l g.op .prefetch false (dataRuns src)
  | _, _ => s

/-- PREFETCH_REFETCH (R312): the consumer at `idx` has its tokens and finds STALE set: the range is read again, or under
PREFETCH_STRICT the consumer faults with the address of the first stale write. `e` is the core's projected end. -/
def execPrefetchRefetch (l : Core) (idx : Nat) (e : Option Nat) (s : State) : Host.Outcome State Fault Refusal :=
  let c := coreOf s l
  match streamWord s l idx, c.guards.find? fun g => g.consumer == idx && g.stale.isSome with
  | some w, some g =>
    if !executing s || c.halted || issuedAt c idx || idx < c.base || idx ≥ c.base + 32 || !(opWaits w).all (tokenSet c) then .next s
    else if reg s Obj.prefetchStrict = 1 then
      let q := match opcodeOf w with | some op => op.queue | none => .sched
      .next (opFault s l q idx 0 (g.stale.getD 0) eSCHED 0x10)
    else match streamWord s l g.op with
      | some v => .next (projectEnd (refetch s l g v) l e)
      | none => .next s
  | _, _ => .next s

end Sys2Proof.Machine
end

