-- ==== Sys2Proof/Machine/Convert.lean ====
section
/-!
DEFINITION. Conversions on Eaves and the fallback governor's test of a pass (R145 to R168), the capture and comparison of
shadow samples (R172, R173), weight copies (R206) and the checks of die engines (R428).
-/
namespace Sys2Proof.Machine

/-- The layer and micro-batch that a conversion serves on the ladder (R161): those of the forward product that streams its
output, when the image names one. Weight copies are not on the ladder (R206). -/
def ladderOf (s : State) (l : Core) (idx : Nat) (c : ConvSpec) : Option (Nat × Nat) :=
  if s.num.weightTrackers.contains (c.cluster, c.tracker) then none
  else (s.job.opInfo.find? fun o => o.core == l.val && o.conv == idx).map fun o => (o.layer, o.mb)

/-- The W16 codes of a drawn band's rows of a source (R172). -/
def bandCodes (s : State) (c : ConvSpec) (x : Sample) : List (List Nat) :=
  (List.range (min 64 (c.dst.rows - x.band * 64))).map fun i => (List.range c.dst.dim0).map fun k =>
    (encode .w16 (convSource s c (x.band * 64 + i) k) (Dy.ofInt 1) .near 0 false false).code

/-- What Eaves counts as it captures a band in W16 (R76). -/
def bandCounts (s : State) (c : ConvSpec) (x : Sample) : Nat × Nat :=
  let es := (List.range (min 64 (c.dst.rows - x.band * 64))).flatMap fun i => (List.range c.dst.dim0).map fun k =>
    encode .w16 (convSource s c (x.band * 64 + i) k) (Dy.ofInt 1) .near 0 false false
  ((es.filter Enc.ovf).length, (es.filter Enc.under).length)

/-- The rows of the drawn bands captured in W16 in the core's shadow region when their source is converted (R172). -/
def captureRows (s : State) (l : Core) (idx : Nat) (c : ConvSpec) : State :=
  (s.num.samples.zipIdx).foldl (fun t (x, k) =>
    if x.core == l.val && x.rows.isNone && x.step == s.job.step && ((sampleOp s x).map OpInfo.conv) == some idx then
      let v := bandCodes s c x
      let t := match shadowPlace t x k with
        | some a => writeBytes t a (v.flatMap fun row => row.flatMap (leBytes 2))
        | none => t
      countConv (modSample t k fun x => { x with rows := some v }) l (bandCounts s c x)
    else t) s

/-- The tensor scale that a conversion takes: its tracker's (R149), or none for W16 and W32. -/
def convScale (s : State) (c : ConvSpec) : W32 := ((trackerAt s c.cluster c.tracker).map Tracker.tscale).getD w32One

/-- The source bytes of a tile, row by row. -/
def sourceRuns (c : ConvSpec) (a : ConvArea) : List (Nat × Nat) :=
  (List.range a.rowN).map fun i => (w32Addr c.src c.dst.dim0 (a.row0 + i) a.lane0, 4 * a.laneN)

/-- The bytes of a tile's codes in the destination, row by row. -/
def destRuns (c : ConvSpec) (a : ConvArea) : List (Nat × Nat) :=
  (List.range a.rowN).map fun i =>
    ((c.dst.elemBit (a.row0 + i) a.lane0).1, (a.laneN * c.dst.fmt.bits + 7) / 8)

/-- The requests of a pass beyond the first read of the source, which the operation asks for when it issues: a measured
pass reads the source twice, a repeat reads it again and writes its output again (R145, R163). -/
def passTraffic (s : State) (l : Core) (idx : Nat) (c : ConvSpec) (a : ConvArea) (measured again : Bool) : State :=
  let s := if again then askRuns s l idx .eaves false (sourceRuns c a) else s
  let s := if measured then askRuns s l idx .eaves false (sourceRuns c a) else s
  if again then askRuns s l idx .eaves true (destRuns c a) else s

/-- A pass over every area of a conversion off the ladder, and its saturations. -/
def plainAreas (s : State) (l : Core) (idx : Nat) (c : ConvSpec) (areas : List ConvArea) (measured again : Bool) : State × Nat :=
  areas.foldl (fun (acc : State × Nat) a =>
    let s := passTraffic acc.1 l idx c a measured again
    let r := if c.dst.fmt.isScaled then tilePass s c c.dst.fmt c.dst a measured else plainPass s c c.dst a false
    (r.1, acc.2 + r.2.ovf)) (s, 0)

/-- A conversion off the ladder (R148, R167, R206): every area in one pass, accepted as it stands; a weight tensor that a
predicted pass saturates is converted again, measured, as a whole. `e` is the core's projected end (R168). -/
def convertPlain (s : State) (l : Core) (idx : Nat) (e : Option Nat) (c : ConvSpec) : State :=
  let t := (trackerAt s c.cluster c.tracker).getD {}
  let scaled := c.dst.fmt.isScaled
  let areas := if scaled then convAreas c.dst t.tileRows t.tileLanes
    else [{ row0 := 0, rowN := c.dst.rows, lane0 := 0, laneN := c.dst.dim0 }]
  let weight := s.num.weightTrackers.contains (c.cluster, c.tracker)
  let measured := scaled && !t.valid
  let first := plainAreas s l idx c areas measured false
  let again := weight && scaled && t.valid && first.2 != 0
  let s := if again then (plainAreas (bump first.1 Obj.versionRemeasure 1) l idx c areas true true).1 else first.1
  let s := markDone s l idx
  if measured || again then sparDelay s l e else s

/-- One conversion tile changed, by core, operation and place. -/
def modTile (s : State) (t : ConvTile) (f : ConvTile → ConvTile) : State :=
  { s with num := { s.num with tiles := s.num.tiles.map fun x =>
      if x.core == t.core && x.op == t.op && x.row0 == t.row0 && x.lane0 == t.lane0 then f x else x } }

/-- The area of a conversion tile. -/
def ConvTile.area (t : ConvTile) : ConvArea := { row0 := t.row0, rowN := t.rowN, lane0 := t.lane0, laneN := t.laneN }

/-- The first pass of a conversion tile (R152, R161, R166): at the layer's start rung, or at the highest rung reached, in measured
mode, once the layer and micro-batch have escalated on the core. -/
def startTile (s : State) (l : Core) (c : ConvSpec) (t : ConvTile) (layer mb : Nat) : State :=
  let y := (trackerAt s c.cluster c.tracker).getD {}
  let base := (Format.ofCode y.format).getD .b4
  let rc := rungCount s l.val layer mb
  let start := startRung s layer
  let esc := rc.escalated && decide (rc.highest > start)
  let rung := if rc.escalated then max rc.highest start else start
  let measured := !y.valid || rc.escalated
  let s := if esc then escalatedStart s l layer rung else modLayer s layer fun y => { y with rungMax := max y.rungMax rung }
  let s := passTraffic s l t.op c t.area measured false
  let r := tilePass s c (rungFormat base rung) c.dst t.area measured
  modTile r.1 t fun x => { x with started := true, rung := rung, measured := measured, ovf := r.2.ovf, spill := r.2.spill, nan := r.2.nans != 0 }

/-- The next conversion tile of an operation starts, when one is left (R166, log 124: DEDUCED). A measured pass is a delay of Spar's
(R168); `e` is the core's projected end. -/
def startNext (s : State) (l : Core) (idx : Nat) (e : Option Nat) (c : ConvSpec) : State :=
  match s.num.tiles.find? fun t => t.core == l.val && t.op == idx && !t.started with
  | some t =>
    match t.layer with
    | some (layer, mb) =>
      let u := startTile s l c t layer mb
      let measured := !(((trackerAt s c.cluster c.tracker).map Tracker.valid).getD false) || (rungCount s l.val layer mb).escalated
      if measured then sparDelay u l e else u
    | none => s
  | none => s

/-- The conversion tiles of an operation on the ladder, and the start of the first (R146, R161, R166). -/
def convertLadder (s : State) (l : Core) (idx : Nat) (e : Option Nat) (w : BitVec 256) (c : ConvSpec) (t : Tracker)
    (layer mb : Nat) : State :=
  let tiles := (convAreas c.dst t.tileRows t.tileLanes).map fun a : ConvArea =>
    ({ core := l.val, op := idx, word := w, cluster := c.cluster, row0 := a.row0, rowN := a.rowN, lane0 := a.lane0
       laneN := a.laneN, layer := some (layer, mb) } : ConvTile)
  let s := modFlight s l idx fun f => { f with tiles := tiles.length }
  startNext { s with num := { s.num with tiles := s.num.tiles ++ tiles } } l idx e c

/-- The FREE slot with the lowest index is marked FILLING for version V + 1, unless one is FILLING already (R206). -/
def markFilling (s : State) : State :=
  if s.num.slots.any (fun x => x.state == .filling) then s
  else match s.num.slots.findIdx? fun x => x.state == .free with
    | some i => modSlot s i fun x => { x with state := .filling, refs := 0, version := s.job.stepVersion + 1 }
    | none => s

/-- The first all-gather that completes in a TRAIN step once G is known is that of stage 10: a slot is then marked FILLING
(R206, log 82: DEDUCED). -/
def stageTen (s : State) (kind : Nat) : State :=
  if kind = 1 ∧ s.mode = .train ∧ s.num.norm.known then markFilling s else s

/-- A conversion that names a weight tracker needs the FILLING slot: where no all-gather has marked it, as on a module whose
group has one member, the first such conversion does (log 82: DEDUCED). -/
def startFilling (s : State) (c : ConvSpec) : State :=
  if s.num.weightTrackers.contains (c.cluster, c.tracker) then markFilling s else s

/-- The destination of a weight copy (R206, log 27: DEDUCED): a versioned descriptor lies in the FILLING slot. -/
def weightDest (s : State) (l : Core) (i : Nat) (c : ConvSpec) : ConvSpec :=
  let d := descAt s l i
  match s.num.slots.find? fun x => x.state == .filling with
  | some x =>
    if d.versioned && s.num.weightTrackers.contains (c.cluster, c.tracker) then
      { c with dst := { d with base := d.base + x.base, splane := d.splane + x.base } }
    else c
  | none => c

/-- CONVERT (R145 to R158): a conversion issues on the core's cluster; conversions of forward operands run a pass per
conversion tile and wait for Spar, others are accepted as they stand. `l.ending` is the core's projected end when a measured first
pass or an escalated start delays the conversion (R168). -/
def execConvert (l : Foreseen Core) (idx : Nat) (s : State) : Host.Outcome State Fault Refusal :=
  match streamWord s l.on idx with
  | none => .next s
  | some w =>
    if !canIssue s l.on idx w .convert then .next s
    else .next (orFault s l.on .eaves idx (do
      let c ← convSpec s l.on idx w
      if c.dst.fmt.isScaled && (trackerAt s c.cluster c.tracker).isNone then .error (.sched, descAddr s l.on (opArg w 1))
      else
        let s := issue s l.on idx w .convert true
        let s := startFilling (captureRows s l.on idx c) c
        let c := weightDest s l.on (opArg w 1) c
        let s := traffic s l.on idx .eaves (c.src :: c.mask.toList) (c.dst :: (c.list.toList ++ c.wide.toList))
        let s := if c.stoch then countKey s else s
        match ladderOf s l.on idx c, trackerAt s c.cluster c.tracker with
        | some (layer, mb), some t =>
          if c.dst.fmt.isScaled then .ok (convertLadder s l.on idx l.ending w c t layer mb) else .ok (convertPlain s l.on idx l.ending c)
        | _, _ => .ok (convertPlain s l.on idx l.ending c)))

/-- A conversion tile accepted (R163): its consumers read it at its rung; the last one completes the conversion. -/
def sparAccept (s : State) (l : Core) (c : ConvSpec) (base : Format) (t : ConvTile) : State :=
  let s := { s with num := { s.num with tiles := s.num.tiles.filter fun x =>
      !(x.core == t.core && x.op == t.op && x.row0 == t.row0 && x.lane0 == t.lane0) } }
  let s := acceptTile s c.dst.base t.area t.rung (rungFormat base t.rung) (convScale s c)
  modFlight s l t.op fun f => { f with tiles := f.tiles - 1, done := f.done || f.tiles ≤ 1 }

/-- The triggers of a pass (R162) and the next rung among them (R165). -/
structure SparTest where
  ovf : Bool
  spill : Bool
  nan : Bool
  next : Nat
  deriving DecidableEq, Repr

/-- The test of the last pass of a conversion tile (R162, R165). -/
def sparTest (s : State) (t : ConvTile) : SparTest :=
  let ovf := decide (t.rung < 4 ∧ t.ovf > reg s Obj.sparOvfLimit)
  let spill := decide (t.rung < 4) && !t.measured && decide (t.spill > reg s Obj.sparSpillLimit)
  let nan := decide (t.rung < 3) && t.nan
  { ovf := ovf, spill := spill, nan := nan, next := max (if ovf || spill then t.rung + 1 else 0) (if nan then 3 else 0) }

/-- A conversion tile converted again, measured, at a higher rung (R163, R166). -/
def sparRepeat (s : State) (l : Core) (c : ConvSpec) (base : Format) (t : ConvTile) (x : SparTest) (layer mb : Nat) : State :=
  let s := fired s layer mb x.ovf x.spill x.nan
  let s := climb s l layer mb t.rung x.next
  let s := passTraffic s l t.op c t.area true true
  let r := tilePass s c (rungFormat base x.next) c.dst t.area true
  modTile r.1 t fun y => { y with rung := x.next, measured := true, ovf := r.2.ovf, spill := r.2.spill, nan := r.2.nans != 0 }

/-- SPAR_PASS_TEST (R162 to R166): the pass of conversion tile k of operation idx ends. Triggers repeat it at a higher
rung; otherwise the tile is accepted and the next one starts. `e` is the core's projected end after a repeat or a measured
pass; a stretch request that it causes counts in SPAR_STRETCH_REQ (R168). -/
def execSparPassTest (l : Core) (idx k : Nat) (e : Option Nat) (s : State) : Host.Outcome State Fault Refusal :=
  match (s.num.tiles.filter fun t => t.core == l.val && t.op == idx)[k]? with
  | none => .next s
  | some t =>
    if !t.started then .next s
    else match convSpec s l t.op t.word, t.layer with
    | .ok c, some (layer, mb) =>
      let base := ((trackerAt s c.cluster c.tracker).bind fun y => Format.ofCode y.format).getD .b4
      let x := sparTest s t
      if !x.ovf && !x.spill && !x.nan then .next (startNext (sparAccept s l c base t) l idx e c)
      else .next (sparDelay (sparRepeat s l c base t x layer mb) l e)
    | .error err, _ => .next (descFault s l .eaves idx err)
    | .ok c, none => .next (sparAccept s l c c.dst.fmt t)

/-! ### Shadow samples (R173) -/

/-- The comparison of R173: the W32 sums of squares and whether some element was not comparable. -/
def shadowSums : List (W32 × W32) → W32 × W32 × Bool → W32 × W32 × Bool
  | [], acc => acc
  | (n, h) :: r, (d2, s2, bad) =>
    if (w32IsNan n && w32IsNan h) || (w32IsInf n && n == h) then shadowSums r (d2, s2, bad)
    else if !w32IsFin n || !w32IsFin h then shadowSums r (d2, s2, true)
    else
      let d := w32Sub n h
      shadowSums r (w32Add d2 (w32Mul d d), w32Add s2 (w32Mul h h), bad)

/-- Whether a narrow and a shadow result disagree (R173). -/
def disagrees (tol : W32) (ns hs : List W32) : Bool :=
  let (d2, s2, bad) := shadowSums (ns.zip hs) (0#32, 0#32, false)
  let t2 := w32Mul tol tol
  bad || (w32IsZero s2 && w32Lt 0#32 d2) || (w32Lt 0#32 s2 && w32Lt (w32Mul t2 s2) d2)

/-- SHADOW_COMPARE (R173): the recomputation of sample i, tile by tile, is complete and Spar compares it with the narrow result. -/
def execShadowCompare (i : Nat) (s : State) : Host.Outcome State Fault Refusal :=
  match s.num.samples[i]? with
  | none => .next s
  | some x =>
    match x.narrow, x.shadow with
    | some n, some h =>
      if x.compared || !x.shadowDone then .next s
      else
        let bad := disagrees (BitVec.ofNat 32 (reg s Obj.shadowTol)) n h
        let s := bumpIf (bump s Obj.shadowRun 1) bad Obj.shadowDisagree 1
        let s := modLayer s x.layer fun y =>
          { y with shadowRun := y.shadowRun + 1, shadowDis := if bad then y.shadowDis + 1 else y.shadowDis }
        .next (modSample s i fun x => { x with compared := true, disagree := bad })
    | _, _ => .next s

/-! ### Checks of die engines (R428) -/

/-- A number for an engine of a die in R428's table: clusters 0 to 3, Damson 4, Valley 5, Bramble 6, Batten 7, copy
engines 8 to 11. -/
def engineId (d : Die) (k : EngineKind) : Nat :=
  d.val * 16 + match k with
    | .eaves c => c.val | .damson => 4 | .valley => 5 | .bramble => 6 | .batten => 7 | .gutter g => 8 + g.val

/-- Copy engines of a die in service. -/
def guttersLeft (s : State) (d : Die) : Nat :=
  ((List.range 4).filter fun g => reg s (Obj.gutterState + 4 * d.val + g) == 0).length

/-- ENGINE_CHECK (R428, R427 codes 0x05, 0x07, 0x08): an engine checks a unit of work. A first failure repeats the unit;
a second on the same unit is a hard fault: a copy engine is removed, for any other the module goes FAULTED. -/
def execEngineCheck (d : Die) (k : EngineKind) (ok : Bool) (s : State) : Host.Outcome State Fault Refusal :=
  let id := engineId d k
  let clear := { s with ras := { s.ras with engineFails := s.ras.engineFails.filter (· != id) } }
  if ok then .next clear
  else
    let again := s.ras.engineFails.contains id
    let s := bump s (Obj.engineCheckErr + d.val) 1
    if !again then
      .next (reportFault { s with ras := { s.ras with engineFails := id :: s.ras.engineFails } } 0x05 0 0 0 d.val id)
    else
      let s := { s with ras := clear.ras }
      match k with
      | .gutter g =>
        let s := setReg s (Obj.gutterState + 4 * d.val + g.val) 1
        .next (reportFault s 0x07 (if guttersLeft s d = 0 then 1 else 0) 0 0 d.val id)
      | _ => .next (setDev (reportFault s 0x08 1 0 0 d.val id) .faulted)

end Sys2Proof.Machine
end

