-- ==== Sys2Proof/Machine/Trackers.lean ====
section
/-!
DEFINITION. What the step boundary does to numerics: tracker updates and rebases (R154, R155), outlier sizing (R159,
R160), the digest (R179), and the governor's layers: update ratio, rung offsets, health words and samples (R169 to R175,
R200).
-/
namespace Sys2Proof.Machine

/-! ### Scale adaptation (R154, R155) -/

/-- One tracked block at the boundary (R154): the block, and whether it asked for ceil or floor, doubled or halved. -/
structure BlkStep where
  blk : Blk
  ceil : Bool := false
  floor : Bool := false
  doubled : Bool := false
  halved : Bool := false
  deriving DecidableEq, Repr

/-- The update of a tracked block of a valid tracker (R154). -/
def adaptBlock (b : Blk) : BlkStep :=
  if b.sat then
    { blk := { b with pred := fineDouble b.pred, quiet := 0 }, ceil := fineExp b.pred == 15, doubled := true }
  else if b.seen && !b.busy then
    if b.quiet ≥ 7 then
      { blk := { b with pred := fineHalve b.pred, quiet := 0 }, floor := b.pred == 1, halved := true }
    else { blk := { b with quiet := b.quiet + 1 } }
  else if b.seen then { blk := { b with quiet := 0 } }
  else { blk := b }

/-- What the adaptation of a tracker gave. -/
structure AdaptOut where
  t : Tracker
  ceils : Nat := 0
  floors : Nat := 0
  doubled : Nat := 0
  halved : Nat := 0
  rebased : Bool := false
  deriving DecidableEq, Repr

/-- R155: twice the tensor scale when fine scales meet the top, half when they meet the bottom and none is at it. -/
def rebase (t : Tracker) (ceil floor : Bool) : Tracker × Bool :=
  let up := w32Add t.tscale t.tscale
  let down := w32Mul t.tscale 0x3F000000#32
  if ceil && w32Normal up then
    ({ t with tscale := up, blocks := t.blocks.map fun b => { b with pred := fineHalve b.pred } }, true)
  else if floor && !ceil && (t.blocks.all fun b => decide (fineExp b.pred ≤ 14)) && w32Normal down then
    ({ t with tscale := down, blocks := t.blocks.map fun b => { b with pred := fineDouble b.pred } }, true)
  else (t, false)

/-- R154 up to the rebase, for a tracker used in the step. -/
def adaptTracker (t : Tracker) : AdaptOut :=
  if !t.valid then
    { t := { t with valid := true
                    blocks := t.blocks.map fun b => { b with pred := if b.measured = 0 then 0x80 else b.measured } } }
  else
    let steps := t.blocks.map adaptBlock
    let t' := { t with blocks := steps.map BlkStep.blk }
    let ceil := t.ceilMeas || steps.any BlkStep.ceil
    let r := rebase t' ceil (steps.any BlkStep.floor)
    { t := r.1, ceils := (steps.filter BlkStep.ceil).length, floors := (steps.filter BlkStep.floor).length
      doubled := (steps.filter BlkStep.doubled).length, halved := (steps.filter BlkStep.halved).length, rebased := r.2 }

/-! ### Outlier sizing (R159, R160) -/

/-- An element put in its place in a list sorted by `le`. -/
def insertBy {α : Type} (le : α → α → Bool) (x : α) : List α → List α
  | [] => [x]
  | y :: r => if le x y then x :: y :: r else y :: insertBy le x r

/-- A list sorted by `le`; equal elements keep their order. -/
def sortBy {α : Type} (le : α → α → Bool) (l : List α) : List α := l.foldr (insertBy le) []

/-- CAP and CAP_QUIET for the next step (R160). -/
def sizeCap (t : Tracker) : Nat × Nat :=
  let low := decide (4 * t.stepCandMax < t.cap)
  match t.omode % 4 with
  | 1 =>
    if t.overSpilled then (min (2 * t.cap) t.capMax, 0)
    else if low then (if t.capQuiet ≥ 7 then (min (max (t.cap / 2) 16) t.capMax, 0) else (t.cap, t.capQuiet + 1))
    else (t.cap, 0)
  | 2 =>
    if t.overSpilled then (min (t.cap + 1) t.capMax, 0)
    else if low then (if t.capQuiet ≥ 7 then (max (t.cap - 1) 1, 0) else (t.cap, t.capQuiet + 1))
    else (t.cap, 0)
  | _ => (t.cap, t.capQuiet)

/-- Lane ranges of a tracker's conversion tiles. -/
def laneRanges (t : Tracker) : List (List Nat) :=
  let tl := max t.tileLanes 1
  (List.range ((t.chans.length + tl - 1) / tl)).map fun i =>
    (List.range (min tl (t.chans.length - i * tl))).map (i * tl + ·)

/-- The channel list of one lane range (R159): the CAP lanes with the largest counts that are not 0, ties to the lower
lane, in ascending order. -/
def rankLanes (chans : List Nat) (cap : Nat) (lanes : List Nat) : List Nat :=
  let live := lanes.filter fun k => chans.getD k 0 != 0
  let ranked := sortBy (fun a b => decide (chans.getD a 0 > chans.getD b 0 ∨ (chans.getD a 0 = chans.getD b 0 ∧ a ≤ b))) live
  sortBy (fun a b => decide (a ≤ b)) (ranked.take cap)

/-- The channel lists rebuilt (R159). A tracker that no step has used yet keeps the list that the image carries. -/
def rebuildLists (t : Tracker) (cap : Nat) : List Nat :=
  if t.omode % 4 = 2 ∧ (t.used ∨ t.everUsed) then (laneRanges t).flatMap (rankLanes t.chans cap) else t.chanList

/-- The history entry written and the step's bits and fields cleared (R154). -/
def closeTracker (t : Tracker) (step doubled halved : Nat) : Tracker :=
  { t with
    hist := t.hist.set t.head { step := step % 2 ^ 32, ovf := t.stepOvf, spill := t.stepSpill, doubled := doubled % 2 ^ 16, halved := halved % 2 ^ 16 }
    head := (t.head + 1) % 8
    blocks := t.blocks.map fun b => { pred := b.pred, quiet := b.quiet }
    stepOvf := 0, stepUnder := 0, stepSpill := 0, stepNan := 0, stepCandMax := 0
    chans := t.chans.map fun _ => 0, used := false, everUsed := true, ceilMeas := false, overSpilled := false }

/-- The proposed tracker of host-assisted scale adaptation (R176): R154 for one that was used. -/
def proposeTracker (t : Tracker) : Tracker := if t.used then (adaptTracker t).t else t

/-- The report of a scale-adaptation pause (R560). -/
def scaleReport (s : State) : List Byte := (allTrackers s).flatMap fun x => (proposeTracker x.2.2).bytes

/-- CAP and channel lists as a decision lays them out (R477, log 28: DESIGN CHOICE): the lanes of each lane range, CAP of them, unused
places 0xFFFF. -/
def capBytes (t : Tracker) (cap : Nat) (list : List Nat) : List Byte :=
  leBytes 2 cap ++ (if t.omode % 4 = 2 then (laneRanges t).flatMap fun r =>
      (((list.filter r.contains).take cap ++ List.replicate cap 0xFFFF).take cap).flatMap (leBytes 2)
    else [])

/-- The proposed CAP and channel lists (R176). -/
def proposeCap (t : Tracker) : Nat × List Nat :=
  if t.used then ((sizeCap t).1, rebuildLists t (sizeCap t).1) else (t.cap, rebuildLists t t.cap)

/-- The report of an outlier-sizing pause (R560). -/
def outlierReport (s : State) : List Byte :=
  (allTrackers s).flatMap fun x => let p := proposeCap x.2.2; capBytes x.2.2 p.1 p.2

/-- One tracker's CAP and channel list taken from a decision: the number of bytes used, CAP and lanes. -/
def readCap (t : Tracker) (b : List Byte) : Nat × Nat × List Nat :=
  let cap := fieldLE b 0 2
  if t.omode % 4 = 2 then
    let n := cap * (laneRanges t).length
    (2 + 2 * n, cap, ((List.range n).map fun i => fieldLE b (2 + 2 * i) 2).filter (· != 0xFFFF))
  else (2, cap, t.chanList)

/-- The CAP values and lists of a decision, in tracker order, and the bytes left over. -/
def readCaps : List Tracker → List Byte → List (Nat × List Nat) × Int
  | [], b => ([], b.length)
  | t :: r, b =>
    let x := readCap t b
    let rest := readCaps r (b.drop x.1)
    ((x.2.1, x.2.2) :: rest.1, if b.length < x.1 then -1 else rest.2)

/-- Whether a decided CAP keeps the limits of R150 and R160. -/
def capOk (t : Tracker) (cap : Nat) (list : List Nat) : Bool :=
  match t.omode % 4 with
  | 1 => decide (min 16 t.capMax ≤ cap ∧ cap ≤ t.capMax)
  | 2 => decide (1 ≤ cap ∧ cap ≤ t.capMax) && list.all (· < t.chans.length)
  | _ => true

/-- A scale-adaptation decision checked (R477): E_TYPE for a wrong length, E_RANGE outside R150. -/
def checkScale (s : State) (b : List Byte) : Nat :=
  let ts := (allTrackers s).map fun x => x.2.2
  let sizes := ts.map fun t => t.bytes.length
  if b.length ≠ sizes.foldl (· + ·) 0 then eTYPE
  else
    let offs := (List.range ts.length).map fun i => (sizes.take i).foldl (· + ·) 0
    if (ts.zip offs).all fun (t, o) => recordOk t (b.drop o) then eOK else eRANGE

/-- An outlier-sizing decision checked (R477). -/
def checkOutlier (s : State) (b : List Byte) : Nat :=
  let ts := (allTrackers s).map fun x => x.2.2
  let r := readCaps ts b
  if r.2 ≠ 0 then eTYPE
  else if (ts.zip r.1).all fun (t, x) => capOk t x.1 x.2 then eOK else eRANGE

/-- The counters of one tracker's adaptation (R154, R155). -/
def countAdapt (s : State) (c : Nat) (a : AdaptOut) : State :=
  let s := bumpIf s (a.ceils != 0) (Obj.eavesCeil + c) a.ceils
  let s := bumpIf s (a.floors != 0) (Obj.eavesFloor + c) a.floors
  bumpIf s a.rebased (Obj.eavesRebase + c) 1

/-- TRACKER_UPDATE, REBASE and OUTLIER_SIZING (R154, R155, R159, R160): every tracker used in the step, and every channel
list. A scale decision
stands in place of the adaptation and an outlier decision in place of the sizing (R176). -/
def updateTrackers (s : State) (scale outlier : Option (List Byte)) : State :=
  let all := allTrackers s
  let outs := all.map fun x => adaptTracker x.2.2
  let counted := if scale.isSome then s
    else (all.zip outs).foldl (fun t (x, a) => if x.2.2.used then countAdapt t x.1 a else t) s
  let sizes := all.map fun x => x.2.2.bytes.length
  let caps := (outlier.map fun b => (readCaps (all.map fun x => x.2.2) b).1)
  mapTrackers counted fun c i t =>
    let n := (all.findIdx? fun x => x.1 == c && x.2.1 == i).getD 0
    let a := outs.getD n { t := t }
    let t1 := match scale with
      | some b => t.load (b.drop ((sizes.take n).foldl (· + ·) 0))
      | none => if t.used then a.t else t
    let t2 := match caps with
      | some l => let x := l.getD n (t.cap, t.chanList); { t1 with cap := x.1, chanList := x.2 }
      | none => if t.used then { t1 with cap := (sizeCap t).1, capQuiet := (sizeCap t).2, chanList := rebuildLists t (sizeCap t).1 }
        else { t1 with chanList := rebuildLists t t.cap }
    if t.used then closeTracker t2 s.job.step a.doubled a.halved else t2

/-! ### Layers (R169, R170, R174, R175, R200) -/

/-- An exact sum in units of 2^-298 rounded to W32 (R188, R200). -/
def sumW32 (a : Nat) : W32 := roundDy ⟨(a : Int), -298⟩

/-- The update ratio r of a layer (R200). -/
def updateRatio (y : Layer) : W32 :=
  let su := y.suGroup.getD (sumW32 y.su)
  let sw := y.swGroup.getD (sumW32 y.sw)
  if w32IsZero sw then 0#32 else w32Div (w32Sqrt su) (w32Sqrt sw)

/-- The floor of a W32 value that is not negative, at most `cap`; +∞ gives `cap`. -/
def floorW32 (x : W32) (cap : Nat) : Nat :=
  match w32Val x with
  | .fin _ d => min cap (if d.e ≥ 0 then d.m.toNat * 2 ^ d.e.toNat else d.m.toNat / 2 ^ (-d.e).toNat)
  | _ => cap

/-- What R170 gives for a layer: the new mean, the sampling weight and RATIO_DEV. -/
def ratioStep (mu r : W32) : W32 × Nat × Nat :=
  if !w32IsFin r then (mu, 64, 0xFFFF)
  else if mu = 0#32 then (r, 1, 0)
  else
    let d := w32Sub r mu
    let dev := w32Div (w32Abs d) mu
    (w32Add mu (w32Div d 0x41800000#32), 1 + floorW32 (w32Mul 0x40800000#32 dev) 63, floorW32 (w32Mul 0x43800000#32 dev) 0xFFFF)

/-- R174 for a layer: the offset and the clean count, and whether the shadow trigger fired. -/
def offsetStep (y : Layer) (limit hold : Nat) : Nat × Nat × Bool :=
  if y.shadowDis > limit then (min (y.offset + 1) (4 - y.base), 0, true)
  else
    let clean := min 65535 (y.clean + 1)
    if clean ≥ hold ∧ y.offset > 0 then (y.offset - 1, 0, false) else (y.offset, clean, false)

/-- A health word (R175). -/
def healthWord (y : Layer) (shadow : Bool) (dev : Nat) : Nat :=
  let bit := fun (c : Bool) n => if c then 2 ^ n else 0
  y.startRung % 8 * 2 ^ 61 + y.rungMax % 8 * 2 ^ 58 + min 0xFFFFF y.fallbacks * 2 ^ 36 + min 0xFF y.shadowRun * 2 ^ 28
    + min 0xFF y.shadowDis * 2 ^ 20 + bit y.trgOvf 19 + bit y.trgSpill 18 + bit y.trgNonfinite 17 + bit shadow 16 + dev

/-- HEALTH_WORD_WRITE, RUNG_OFFSET_UPDATE and the running means (R170, R174, R175, R200). -/
def updateLayers (s : State) : State :=
  let limit := reg s Obj.sparShadowLimit
  let hold := reg s Obj.sparRungHold
  (s.num.layers.zipIdx).foldl (fun t (y, i) =>
    let r := updateRatio y
    let (mu, w, dev) := ratioStep y.mu r
    let (off, clean, shadow) := offsetStep y limit hold
    let t := setReg (setReg t (Obj.updateRatio + i) r.toNat) (Obj.layerHealth + i) (healthWord y shadow dev)
    modLayer t i fun y => { y with mu := mu, weight := w, offset := off, clean := clean }) s

/-- Whether every forward layer fired a trigger in one micro-batch (R169). -/
def allFallback (s : State) : Bool :=
  !s.num.layers.isEmpty && (List.range s.num.microBatches).any fun u => s.num.layers.all fun y => y.firedIn.contains u

/-- Whether any trigger fired in the step, by the health words (R176). -/
def anyTrigger (s : State) : Bool :=
  (List.range s.num.layers.length).any fun i => reg s (Obj.layerHealth + i) / 2 ^ 16 % 16 != 0

/-- The step's counts of the layers cleared, and the start rungs of the next step (R161, R175). -/
def beginLayers (s : State) : State :=
  { s with num := { s.num with
      layers := s.num.layers.map fun y => { y with
        startRung := min 4 (y.base + y.offset), rungMax := 0, fallbacks := 0, shadowRun := 0, shadowDis := 0
        trgOvf := false, trgSpill := false, trgNonfinite := false, firedIn := [], su := 0, sw := 0
        suGroup := none, swGroup := none }
      rungs := [], tiles := [], accepted := [], norm := {}, hyperDone := [], moments := [] } }

/-- The scale-tracker digest (R179). -/
def trackerDigest (s : State) : List Byte :=
  sha256 (((allTrackers s).flatMap fun x => x.2.2.bytes)
    ++ s.num.layers.flatMap fun y => leBytes 1 y.offset ++ leBytes 2 y.clean ++ leBytes 4 y.mu.toNat)

/-! ### The sampler (R171) -/

/-- The layer whose cumulative weight first exceeds a target. -/
def pickLayer : List Nat → Nat → Nat → Nat → Nat
  | [], _, _, i => i - 1
  | w :: r, target, acc, i => if target < acc + w then i else pickLayer r target (acc + w) (i + 1)

/-- The next core at or after l, wrapping, that runs a layer, and its Reed chains in each micro-batch (R171). -/
def coreRunning (y : Layer) (l : Nat) : Option (Nat × List Nat) :=
  ((List.range 128).findSome? fun i => y.chains.find? fun x => x.1 == (l + i) % 128)

/-- Sample k of step s (R171). -/
def drawSample (s : State) (step k : Nat) : Option Sample :=
  let word := fun i => ((drawOf s 4 0xFFFFFFFF 0 step).word (5 * k + i)).toNat
  let ws := s.num.layers.map Layer.weight
  let total := ws.foldl (· + ·) 0
  let i := pickLayer ws (word 0 * total / 2 ^ 32) 0 0
  match s.num.layers[i]? with
  | none => none
  | some y =>
    match coreRunning y (word 2 % 128) with
    | none => none
    | some (l, chains) =>
      let u := word 1 % max 1 s.num.microBatches
      some { step := step, layer := i, mb := u, core := l
             chain := word 3 % max 1 (chains.getD u 0), band := word 4 % max 1 ((y.rows + 63) / 64) }

/-- SHADOW_SAMPLE_DRAW (R171): the samples of a step. -/
def drawSamples (s : State) (step : Nat) : State :=
  let n := reg s Obj.shadowSamples
  let none_ := n == 0 || s.num.layers.isEmpty
  let l := if none_ then [] else (List.range n).filterMap (drawSample s step)
  let s := if none_ then s else countEvals (countKey s) ((5 * n + 3) / 4)
  { s with num := { s.num with samples := l } }

end Sys2Proof.Machine
end

