-- ==== Sys2Proof/Machine/Optimizer.lean ====
section
/-!
DEFINITION. The norm engine Valley (R185 to R188, R200), the optimizer engine Damson (R189 to R201) and the moment
records (R198).
-/
namespace Sys2Proof.Machine

/-! ### Exact squares (R185, R186) -/

/-- The square of a finite W32 value in units of 2^-298. -/
def sqUnits (x : W32) : Nat :=
  match w32Val x with
  | .fin _ d => d.m.natAbs ^ 2 * 2 ^ (2 * d.e + 298).toNat
  | _ => 0

/-- A norm accumulator: A in units of 2^-298 and its flags (R186). -/
structure NormAcc where
  a : Nat := 0
  nan : Bool := false
  inf : Bool := false
  deriving DecidableEq, Repr

/-- The accumulator that 88 bytes hold (R186). -/
def parseAcc (b : List Byte) : NormAcc :=
  { a := fieldLE b 0 80, nan := bitOf (byteAt b 0x50) 0, inf := bitOf (byteAt b 0x50) 1 }

/-- The FLAGS byte of an accumulator. -/
def NormAcc.flags (x : NormAcc) : Nat := (if x.nan then 1 else 0) + (if x.inf then 2 else 0)

/-- The 88 bytes of an accumulator (R186). -/
def NormAcc.bytes (x : NormAcc) : List Byte := leBytes 80 x.a ++ leBytes 1 x.flags ++ leBytes 7 0

/-- The square of one element added (R185, R186). -/
def NormAcc.square (x : NormAcc) (v : W32) : NormAcc :=
  if w32IsNan v then { x with nan := true }
  else if w32IsInf v then { x with inf := true }
  else { x with a := (x.a + sqUnits v) % 2 ^ 640 }

/-- Two accumulators combined: A added and FLAGS ORed (R187). -/
def NormAcc.add (x y : NormAcc) : NormAcc := { a := (x.a + y.a) % 2 ^ 640, nan := x.nan || y.nan, inf := x.inf || y.inf }

/-- Every W32 word of a tensor or region, in order. -/
def w32All (s : State) (d : Desc) : List W32 :=
  if d.kind = 1 then (List.range (d.dim0 / 4)).map fun k => readW32 s (d.base + 4 * k)
  else (List.range d.rows).flatMap fun i => (List.range d.dim0).map fun k => readW32 s (d.rowAddr i + 4 * k)

/-- NORM_SQUARES (R185, R186, R286 mode 0): the exact squares of a source are added into an accumulator. -/
def execNormSquares (l : Core) (idx : Nat) (s : State) : Host.Outcome State Fault Refusal :=
  match streamWord s l idx with
  | none => .next s
  | some w =>
    if !canIssue s l idx w .norm || opImm w 1 0 != 0 then .next s
    else .next (orFault s l .valley idx (do
      let src ← operand! s l (opArg w 0)
      let acc ← dest! s l (opArg w 1)
      let x := (w32All s src).foldl NormAcc.square (parseAcc (readBytes s acc.base 88))
      let s := traffic (issue s l idx w .norm true) l idx .valley [src] [acc]
      .ok (markDone (writeBytes s acc.base x.bytes) l idx)))

/-- NORM_ADD (R187, R286 mode 1): the accumulator in ARG0 is added into the one in ARG1. -/
def execNormAdd (l : Core) (idx : Nat) (s : State) : Host.Outcome State Fault Refusal :=
  match streamWord s l idx with
  | none => .next s
  | some w =>
    if !canIssue s l idx w .norm || opImm w 1 0 != 1 then .next s
    else .next (orFault s l .valley idx (do
      let src ← operand! s l (opArg w 0)
      let acc ← dest! s l (opArg w 1)
      let x := (parseAcc (readBytes s acc.base 88)).add (parseAcc (readBytes s src.base 88))
      let s := traffic (issue s l idx w .norm true) l idx .valley [src] [acc]
      .ok (markDone (writeBytes s acc.base x.bytes) l idx)))

/-- The bytes of one layer's sums in an accumulator region: the update sum and the weight sum, 88 bytes each (log 29: DESIGN CHOICE). -/
abbrev layerSumBytes : Nat := 176

/-- One layer's sums added into an accumulator region (R200). -/
def addLayerSums (s : State) (base i : Nat) (y : Layer) : State :=
  let a := base + layerSumBytes * i
  let u := (parseAcc (readBytes s a 88)).add { a := y.su }
  let w := (parseAcc (readBytes s (a + 88) 88)).add { a := y.sw }
  writeBytes s a (u.bytes ++ w.bytes)

/-- NORM_LAYER_SUMS (R200, R286 mode 2): the per-layer update and weight sums that the optimizer steps fed are
accumulated in the region of ARG1, 176 bytes a layer (log 29: DESIGN CHOICE). -/
def execNormLayerSums (l : Core) (idx : Nat) (s : State) : Host.Outcome State Fault Refusal :=
  match streamWord s l idx with
  | none => .next s
  | some w =>
    if !canIssue s l idx w .norm || opImm w 1 0 != 2 then .next s
    else .next (orFault s l .valley idx (do
      let src ← operand! s l (opArg w 0)
      let acc ← dest! s l (opArg w 1)
      let s := traffic (issue s l idx w .norm true) l idx .valley [src] [acc]
      let n := min s.num.layers.length (acc.dim0 / layerSumBytes)
      let s := ((s.num.layers.take n).zipIdx).foldl (fun t (y, i) => addLayerSums t acc.base i y) s
      .ok (markDone s l idx)))

/-! ### The global norm (R188 to R190) -/

/-- G of an accumulator (R188). -/
def globalNorm (x : NormAcc) : W32 := sqrtQ (Dy.toQ ⟨(x.a : Int), -298⟩)

/-- The clip factor (R189). -/
def clipFactor (c g : W32) (nonfin : Bool) : W32 :=
  if w32Lt 0#32 c && !nonfin && w32Lt c g then w32Div c g else w32One

/-- The job's accumulator is known: G, the clip factor and the objects that report them (R188, R189). -/
def setNorm (s : State) (x : NormAcc) : State :=
  let g := globalNorm x
  let bad := x.nan || x.inf || w32IsInf g
  let c := BitVec.ofNat 32 (reg s Obj.clipThreshold)
  let f := clipFactor c g bad
  let s := setReg (setReg (setReg s Obj.globalNorm g.toNat) Obj.globalSqnorm (ofLE x.bytes)) Obj.clipFactor f.toNat
  { s with num := { s.num with norm :=
      { known := true, a := x.a, nan := x.nan, inf := x.inf, g := g, factor := f, skipped := false } } }

/-- Whether the norm of the step is non-finite (R188). -/
def normBad (n : NormState) : Bool := n.nan || n.inf || w32IsInf n.g

/-! ### Hyperparameter records (R193 to R195) -/

/-- A hyperparameter record (R193). -/
structure Hyper where
  algo : Nat
  bias : Bool
  beta1 : W32
  beta2 : W32
  eps : W32
  lambda : W32
  lrLen : Nat
  lrTable : Nat
  pow1 : W32
  pow2 : W32
  deriving DecidableEq, Repr

/-- The record that 64 bytes hold. -/
def parseHyper (b : List Byte) : Hyper :=
  { algo := byteAt b 0, bias := bitOf (byteAt b 1) 0, beta1 := w32At b 4, beta2 := w32At b 8, eps := w32At b 0x0C
    lambda := w32At b 0x10, lrLen := fieldLE b 0x14 4, lrTable := fieldLE b 0x18 4, pow1 := w32At b 0x1C, pow2 := w32At b 0x20 }

/-- The address of record i. -/
def hyperAddr (s : State) (i : Nat) : Nat := s.job.hyperBase + 64 * i

/-- POW1 and POW2 of every record as a job starts (R193). -/
def startPowers (s : State) : State :=
  (List.range s.job.hyperCount).foldl (fun t i =>
    writeLE (writeLE t (hyperAddr t i + 0x1C) 4 w32One.toNat) (hyperAddr t i + 0x20) 4 w32One.toNat) s

/-- The address of an offset in the Thatch that holds a record. -/
def recordThatch (a o : Nat) : Nat := thatchBase + (a - thatchBase) / thatchStride * thatchStride + o

/-- The learning rate of a step (R195). -/
def learningRate (s : State) (a : Nat) (h : Hyper) : W32 :=
  readW32 s (recordThatch a (h.lrTable + 4 * min s.job.step (h.lrLen - 1)))

/-- Whether a W32 value lies in [0, 1). -/
def inUnit (x : W32) : Bool := w32Le 0#32 x && w32Lt x w32One

/-- Whether a W32 value is finite and not negative. -/
def notNegative (x : W32) : Bool := w32IsFin x && w32Le 0#32 x

/-- The checks of R194. -/
def hyperOk (s : State) (a : Nat) (h : Hyper) : Bool :=
  decide (h.algo ≤ 2) && inUnit h.beta1 && (h.algo == 2 || (inUnit h.beta2 && w32IsFin h.eps && w32Lt 0#32 h.eps))
  && notNegative h.lambda && decide (1 ≤ h.lrLen ∧ h.lrLen ≤ 1048576) && decide (h.lrTable + 4 * h.lrLen ≤ thatchSize)
  && notNegative (learningRate s a h)

/-- POW1 and POW2 advanced by the first operation of a step that names the record, unless the update is skipped (R195,
R190). -/
def advanceHyper (s : State) (a : Nat) (h : Hyper) : State × Hyper :=
  if s.num.hyperDone.contains a then (s, h)
  else
    let s := { s with num := { s.num with hyperDone := a :: s.num.hyperDone } }
    if normBad s.num.norm || h.algo = 2 then (s, h)
    else
      let h := { h with pow1 := w32Mul h.pow1 h.beta1, pow2 := w32Mul h.pow2 h.beta2 }
      (writeLE (writeLE s (a + 0x1C) 4 h.pow1.toNat) (a + 0x20) 4 h.pow2.toNat, h)

/-! ### The update of an element (R196) -/

/-- The scalars of a record in a step (R195). -/
structure Scalars where
  algo : Nat
  lr : W32
  ob1 : W32
  ob2 : W32
  bc1 : W32
  bc2 : W32
  deriving DecidableEq, Repr

/-- R195's scalars. -/
def scalarsOf (h : Hyper) (lr : W32) : Scalars :=
  let on := h.algo != 2 && h.bias
  { algo := h.algo, lr := lr, ob1 := w32Sub w32One h.beta1, ob2 := w32Sub w32One h.beta2
    bc1 := if on then w32Sub w32One h.pow1 else w32One, bc2 := if on then w32Sub w32One h.pow2 else w32One }

/-- An updated element: the new master word before the split, and the new moments. -/
structure Updated where
  wn : W32
  m : W32
  v : W32
  deriving DecidableEq, Repr

/-- R196 for one element: gradient, clip factor, master word and moments. -/
def updateElem (h : Hyper) (x : Scalars) (grad c w m v : W32) : Updated :=
  let g := w32Mul grad c
  if x.algo = 2 then
    let g := w32Add g (w32Mul h.lambda w)
    let m := w32Add (w32Mul h.beta1 m) g
    { wn := w32Sub w (w32Mul x.lr m), m := m, v := v }
  else
    let g := if x.algo = 0 then w32Add g (w32Mul h.lambda w) else g
    let m := w32Add (w32Mul h.beta1 m) (w32Mul x.ob1 g)
    let v := w32Add (w32Mul h.beta2 v) (w32Mul x.ob2 (w32Mul g g))
    let mh := w32Div m x.bc1
    let vh := w32Div v x.bc2
    let u := w32Mul x.lr (w32Div mh (w32Add (w32Sqrt vh) h.eps))
    let u := if x.algo = 1 then w32Add u (w32Mul (w32Mul x.lr h.lambda) w) else u
    { wn := w32Sub w u, m := m, v := v }

/-! ### Moments (R197, R198) -/

/-- A stored moment as a W32 value (R70, R196), in blocks of 64 (R48, R49). -/
def momentAt (s : State) (d : Desc) (t : W32) (i k : Nat) : W32 :=
  let f := fineVal (readByte s (d.scaleAddr i (k / 64))).toNat
  let c := elemCode s d i k
  if d.fmt = .m8 then roundQ (decodeM8 c f (tscaleVal t))
  else match decode .v8 c f (tscaleVal t) 0 with
    | .fin _ v => roundDy v
    | _ => 0#32

/-- The fine-scale code of a block of new moments (R197). -/
def momentCode (t : W32) (xs : List W32) : Nat :=
  if xs.any w32IsInf then 0xFF else (measureCode (tscaleVal t) (Dy.ofInt 1) (maxMag (xs.map w32Val))).1

/-- One block of new moments encoded (R197): its codes, the fine scale, the saturations and the flushes. -/
def encodeMoments (fm : Format) (t : W32) (xs : List W32) : List Nat × Nat × Nat × Nat :=
  let f := momentCode t xs
  let scale := (fineVal f).mul (tscaleVal t)
  let es := xs.map fun x =>
    match w32Val x with
    | .nan => ({ code := 0 } : Enc)
    | v => if f = 0 then { code := 0 } else encode fm v scale .near 0 false false
  (es.map Enc.code, f, (es.filter Enc.ovf).length, (es.filter Enc.under).length)

/-- What an operation's moment blocks show for the record (R198): blocks at 0xFF that saturated, and whether every
non-zero block had a code of 0x0F or below. -/
structure MomentSeen where
  hi : Nat := 0
  low : Bool := true
  sat : Nat := 0
  under : Nat := 0
  deriving DecidableEq, Repr

/-- One row of moments stored, block by block of 64 (R197). -/
def storeMoments (s : State) (d : Desc) (t : W32) (i : Nat) (xs : List W32) (seen : MomentSeen) : State × MomentSeen :=
  (List.range ((xs.length + 63) / 64)).foldl (fun (acc : State × MomentSeen) j =>
    let (cs, f, n, k) := encodeMoments d.fmt t ((xs.drop (64 * j)).take 64)
    let u := writeBytes acc.1 (d.rowAddr i + 64 * j) (cs.map (BitVec.ofNat 8))
    let u := writeLE u (d.scaleAddr i j) 1 f
    (u, { hi := acc.2.hi + (if f = 0xFF ∧ n ≠ 0 then 1 else 0), low := acc.2.low && (f == 0 || decide (f ≤ 0x0F)), sat := acc.2.sat + n, under := acc.2.under + k })) (s, seen)

/-- Operations of the step's streams that name a moment record (R198). -/
def momentNamers (s : State) (a : Nat) : Nat :=
  (allCores.map fun l =>
    ((streamOps s l).filter fun w => opcodeOf w == some .optstep &&
      ((opArg w 5 != noDesc && (descAt s l (opArg w 5)).base == a) || (opArg w 6 != noDesc && (descAt s l (opArg w 6)).base == a))).length).foldl (· + ·) 0

/-- What an operation saw of a moment tensor joined to the step's use of its record. -/
def noteMoment (s : State) (a : Nat) (x : MomentSeen) : State :=
  let use := (s.num.moments.find? fun u => u.record == a).getD { record := a, left := momentNamers s a }
  let use := { use with hi := use.hi + x.hi, low := use.low && x.low }
  { s with num := { s.num with moments := use :: (s.num.moments.filter fun u => u.record != a) } }

/-- MOMENT_RECORD_UPDATE (R198): the tensor scales after the last operation of the step. -/
def updateMoment (s : State) (u : MomentUse) : State :=
  let cur := readW32 s (u.record + 4)
  let up := w32Add cur cur
  let down := w32Mul cur 0x3F000000#32
  let next := if u.hi > 0 ∧ w32Normal up then up else if u.low ∧ w32Normal down then down else cur
  writeBytes s u.record (leBytes 4 cur.toNat ++ leBytes 4 next.toNat ++ leBytes 4 u.hi ++ leBytes 1 (if u.low then 1 else 0))

/-- One operation that names a moment record has completed (R198); a skipped step leaves the record. -/
def momentComplete (s : State) (a : Nat) : State :=
  match s.num.moments.find? fun u => u.record == a with
  | none => s
  | some u =>
    let v := { u with left := u.left - 1 }
    let s := { s with num := { s.num with moments := v :: (s.num.moments.filter fun x => x.record != a) } }
    if v.left = 0 then updateMoment s v else s

/-- The moment records that an optimizer step names. -/
def optMoments (s : State) (l : Core) (w : BitVec 256) : List Nat :=
  ([opArg w 5, opArg w 6].filter (· != noDesc)).map fun i => (descAt s l i).base

/-! ### OPTSTEP -/

/-- The operands of an optimizer step (R286). -/
structure OptArgs where
  grad : Desc
  w16 : Desc
  rm8 : Desc
  m8 : Desc
  v8 : Option Desc
  mrec : Desc
  vrec : Option Desc
  deriving DecidableEq, Repr

/-- The operands of an optimizer step, checked; SGD has no second moment, and moments have blocks of 64 (R48, R49). -/
def optArgs (s : State) (l : Core) (w : BitVec 256) : Except (DescErr × Nat) OptArgs := do
  let grad ← operand! s l (opArg w 0)
  let w16 ← dest! s l (opArg w 1)
  let rm8 ← dest! s l (opArg w 2)
  let m8 ← dest! s l (opArg w 3) false
  let v8 ← destOpt s l (opArg w 4) false
  let mrec ← dest! s l (opArg w 5)
  let vrec ← destOpt s l (opArg w 6)
  .ok { grad := grad, w16 := w16, rm8 := rm8, m8 := { m8 with blk := 1 }, v8 := v8.map fun d => { d with blk := 1 }, mrec := mrec
        vrec := vrec }

/-- What the update of rows has gathered: the sums of R200, the moments seen and master saturations. -/
structure OptSum where
  su : Nat := 0
  sw : Nat := 0
  m : MomentSeen := {}
  v : MomentSeen := {}
  master : Nat := 0
  deriving DecidableEq, Repr

/-- One row of parameters updated (R196 to R200). -/
def updateRow (a : OptArgs) (h : Hyper) (x : Scalars) (c : W32) (acc : State × OptSum) (i : Nat) : State × OptSum :=
  let s := acc.1
  let ks := List.range a.w16.dim0
  let mcur := readW32 s a.mrec.base
  let mnext := readW32 s (a.mrec.base + 4)
  let old := ks.map fun k => masterWord (elemCode s a.w16 i k) (elemCode s a.rm8 i k)
  let us := (ks.zip old).map fun (k, w) =>
    let v := match a.v8, a.vrec with
      | some d, some r => momentAt s d (readW32 s r.base) i k
      | _, _ => 0#32
    updateElem h x (w32Elem s a.grad a.w16.dim0 i k) c w (momentAt s a.m8 mcur i k) v
  let splits := us.map fun u => masterSplit u.wn
  let s := writeBytes s (a.w16.rowAddr i) (splits.flatMap fun p => leBytes 2 p.1)
  let s := writeBytes s (a.rm8.rowAddr i) (splits.map fun p => BitVec.ofNat 8 p.2.1)
  let (s, ms) := storeMoments s a.m8 mnext i (us.map Updated.m) acc.2.m
  let (s, vs) := match a.v8, a.vrec, decide (h.algo ≠ 2) with
    | some d, some r, true => storeMoments s d (readW32 s (r.base + 4)) i (us.map Updated.v) acc.2.v
    | _, _, _ => (s, acc.2.v)
  let news := splits.map fun p => masterWord p.1 p.2.1
  (s, { su := acc.2.su + ((news.zip old).map fun (n, w) => sqUnits (w32Sub n w)).foldl (· + ·) 0
        sw := acc.2.sw + (news.map sqUnits).foldl (· + ·) 0
        m := ms, v := vs, master := acc.2.master + (splits.filter fun p => p.2.2).length })

/-- The skipped update of a step with a non-finite norm (R190): nothing changes but the weight sums; the first operation
counts the step and raises NORM_NONFINITE. -/
def skipUpdate (s : State) (a : OptArgs) (layer : Nat) : State :=
  let sw := ((List.range a.w16.rows).map fun i => ((List.range a.w16.dim0).map fun k =>
    sqUnits (masterWord (elemCode s a.w16 i k) (elemCode s a.rm8 i k))).foldl (· + ·) 0).foldl (· + ·) 0
  let s := modLayer s layer fun y => { y with sw := y.sw + sw }
  if s.num.norm.skipped then s
  else
    let s := { s with num := { s.num with norm := { s.num.norm with skipped := true } } }
    let x : NormAcc := { a := s.num.norm.a, nan := s.num.norm.nan, inf := s.num.norm.inf }
    raiseEvent (bump s Obj.damsonSkipped 1) 6 (leBytes 1 x.flags)

/-- The whole update of an operation's run of parameters (R196 to R200). -/
def applyUpdate (s : State) (l : Core) (a : OptArgs) (h : Hyper) (lr : W32) (layer : Nat) : State :=
  let x := scalarsOf h lr
  let (s, o) := (List.range a.w16.rows).foldl (updateRow a h x s.num.norm.factor) (s, {})
  let sat := o.m.sat + o.v.sat
  let s := bumpIf s (sat != 0) (Obj.damsonMomOvf + l.die.val) sat
  let s := bumpIf s (o.master != 0) (Obj.damsonMasterOvf + l.die.val) o.master
  let s := countFlush s l (o.m.under + o.v.under)
  let s := modLayer s layer fun y => { y with su := y.su + o.su, sw := y.sw + o.sw }
  let s := noteMoment s a.mrec.base o.m
  match a.vrec with
  | some r => if h.algo = 2 then s else noteMoment s r.base o.v
  | none => s

/-- OPTSTEP (R192 to R201): an optimizer step issues on Damson once G is known. SGD with momentum neither reads nor writes
a second moment. -/
def execOptstep (l : Core) (idx : Nat) (s : State) : Host.Outcome State Fault Refusal :=
  match streamWord s l idx with
  | none => .next s
  | some w =>
    if !canIssue s l idx w .optstep || !s.num.norm.known then .next s
    else
      let ha := hyperAddr s (opImm w 19 12)
      let h := parseHyper (readBytes s ha 64)
      let layer := opImm w 11 0
      match optArgs s l w with
      | .error e => .next (descFault s l .damson idx e)
      | .ok a =>
        if !hyperOk s ha h || (h.algo != 2 && (a.v8.isNone || a.vrec.isNone)) then .next (opFault s l .damson idx 0 ha eSCHED 0x10)
        else
          let lr := learningRate s ha h
          let v := if h.algo = 2 then [] else a.v8.toList
          let s := traffic (issue s l idx w .optstep true) l idx .damson
            ([a.grad, a.w16, a.rm8, a.m8] ++ v) ([a.w16, a.rm8, a.m8] ++ v)
          let (s, h) := advanceHyper s ha h
          let s := if normBad s.num.norm then skipUpdate s a layer else applyUpdate s l a h lr layer
          .next (markDone s l idx)

end Sys2Proof.Machine
end

