-- ==== Sys2Proof/Machine/Bramble.lean ====
section
/-!
DEFINITION. Activation compression: saves and loads of activations in segments of 64 blocks (R211 to R216).
-/
namespace Sys2Proof.Machine

/-! ### Packed fields -/

/-- Fields of a number of bits each, least significant first (R42). -/
def packFields (l : List (Nat × Nat)) : Nat := l.foldr (fun f acc => f.2 % 2 ^ f.1 + acc * 2 ^ f.1) 0

/-- A field of `bits` bits at bit `o`. -/
def fieldBits (n o bits : Nat) : Nat := n / 2 ^ o % 2 ^ bits

/-- Bytes that hold `bits` bits. -/
def bytesFor (bits : Nat) : Nat := (bits + 7) / 8

/-! ### One block (R213) -/

/-- The tags of R213. -/
inductive BlockTag where
  | raw | zero | map | exp
  deriving DecidableEq, Repr

/-- The two bits of a tag (R213). -/
def BlockTag.code : BlockTag → Nat
  | .raw => 0 | .zero => 1 | .map => 2 | .exp => 3

/-- The tag of two bits. -/
def BlockTag.ofCode : Nat → BlockTag
  | 0 => .raw | 1 => .zero | 2 => .map | _ => .exp

/-- Fraction bits of K8 and L8 (R213). -/
def fracBits (fm : Format) : Nat := if fm = .l8 then 2 else 3

/-- Exponent bits of K8 and L8. -/
def expBits (fm : Format) : Nat := if fm = .l8 then 5 else 4

/-- The exponent field of a K8 or L8 code. -/
def expField (fm : Format) (c : Nat) : Nat := c / 2 ^ fracBits fm % 2 ^ expBits fm

/-- The distinct exponent fields of a block in ascending order. -/
def expFields (fm : Format) (cs : List Nat) : List Nat :=
  (List.range (2 ^ expBits fm)).filter fun e => cs.any fun c => expField fm c == e

/-- Whether a format's blocks may use EXP. -/
def expAllowed (fm : Format) (cs : List Nat) : Bool := (fm == .k8 || fm == .l8) && decide ((expFields fm cs).length ≤ 4)

/-- The dictionary of four exponent fields, unused entries repeating the last (R213). -/
def expDict (fm : Format) (cs : List Nat) : List Nat :=
  let d := expFields fm cs
  (d ++ List.replicate 4 (d.getLastD 0)).take 4

/-- Bytes of the dictionary. -/
def dictBytes (fm : Format) : Nat := bytesFor (4 * expBits fm)

/-- The stored form of a block of b codes under a tag (R213, log 30: DESIGN CHOICE). -/
def storeBlock (fm : Format) (zero : Nat) (cs : List Nat) : BlockTag → List Byte
  | .raw => leBytes (bytesFor (fm.bits * cs.length)) (packCodes fm.bits cs)
  | .zero => []
  | .map =>
    let live := cs.filter (· != zero)
    leBytes (bytesFor cs.length) (packFields (cs.map fun c => (1, if c = zero then 0 else 1)))
      ++ leBytes (bytesFor (fm.bits * live.length)) (packCodes fm.bits live)
  | .exp =>
    let d := expDict fm cs
    let f := fracBits fm
    leBytes (dictBytes fm) (packFields (d.map fun e => (expBits fm, e)))
      ++ leBytes (bytesFor ((3 + f) * cs.length)) (packFields (cs.flatMap fun c =>
          [(1, c / 128), (2, d.findIdx (· == expField fm c)), (f, c)]))

/-- The codes of a stored block of b codes, and the bytes that it takes. -/
def loadBlock (fm : Format) (zero b : Nat) (bytes : List Byte) : BlockTag → List Nat × Nat
  | .raw =>
    let n := bytesFor (fm.bits * b)
    ((List.range b).map fun i => fieldBits (fieldLE bytes 0 n) (fm.bits * i) fm.bits, n)
  | .zero => (List.replicate b zero, 0)
  | .map =>
    let m := bytesFor b
    let bits := (List.range b).map fun i => bitOf (fieldLE bytes 0 m) i
    let nz := (bits.filter id).length
    let n := bytesFor (fm.bits * nz)
    let v := fieldLE bytes m n
    let place := fun i => ((bits.take i).filter id).length
    ((List.range b).map fun i => if bits.getD i false then fieldBits v (fm.bits * place i) fm.bits else zero, m + n)
  | .exp =>
    let f := fracBits fm
    let dn := dictBytes fm
    let d := (List.range 4).map fun i => fieldBits (fieldLE bytes 0 dn) (expBits fm * i) (expBits fm)
    let n := bytesFor ((3 + f) * b)
    let v := fieldLE bytes dn n
    ((List.range b).map fun i =>
      let o := (3 + f) * i
      fieldBits v o 1 * 128 + d.getD (fieldBits v (o + 1) 2) 0 * 2 ^ f + fieldBits v (o + 3) f, dn + n)

/-- The tag that Bramble chooses (R214): ZERO or RAW in zero-block mode; else the allowed tag of smallest size, ties to
the lower tag. -/
def chooseTag (fm : Format) (zero : Nat) (cs : List Nat) (lossless : Bool) : BlockTag :=
  if cs.all (· == zero) then .zero
  else if !lossless then .raw
  else
    let size := fun t => (storeBlock fm zero cs t).length
    let best := if size .map < size .raw then BlockTag.map else .raw
    if expAllowed fm cs && size .exp < size best then .exp else best

/-! ### Segments (R212) -/

/-- The blocks of a tensor: row and block of the row, in order. -/
def tensorBlocks (d : Desc) : List (Nat × Nat) :=
  (List.range d.rows).flatMap fun i => (List.range d.blocks).map fun j => (i, j)

/-- The codes of block j of row i; missing elements of a partial block are zero codes (R55). -/
def blockCodes (s : State) (d : Desc) (zero i j : Nat) : List Nat :=
  let b := blockSize d.blk
  (List.range b).map fun k => if j * b + k < d.dim0 then elemCode s d i (j * b + k) else zero

/-- Bytes of a segment's fixed slot (R212, R215). -/
def segSlot (fm : Format) (b : Nat) : Nat := 32 + 64 * bytesFor (fm.bits * b)

/-- A segment's bytes: header and payload (R212). -/
def segment (mode : Nat) (fm : Format) (blk : Nat) (parts : List (BlockTag × List Byte)) : List Byte :=
  let payload := parts.flatMap Prod.snd
  leBytes 4 payload.length ++ leBytes 1 mode ++ leBytes 1 fm.code ++ leBytes 1 blk ++ leBytes 9 0
    ++ leBytes 16 (packFields (parts.map fun p => (2, p.1.code))) ++ payload

/-- A list cut into pieces of n; `fuel` pieces at most. -/
def piecesOf {α : Type} (n : Nat) : Nat → List α → List (List α)
  | 0, _ => []
  | f + 1, l => if l.isEmpty then [] else l.take n :: piecesOf n f (l.drop n)

/-- The B4 block of a K8 or L8 block in narrow mode (R215): the fine-scale code, the codes, the saturations and the flushes. The code
0x00 is for zeros alone (R69, R152). -/
def narrowBlock (s : State) (d : Desc) (i j : Nat) : Nat × List Nat × Nat × Nat :=
  let b := blockSize d.blk
  let vs := (List.range b).map fun k => if j * b + k < d.dim0 then elemValue s d i (j * b + k) else .fin false Dy.zero
  let f := measuredScale (tscaleVal d.tscale) (Dy.ofInt 1) vs
  let scale := (fineVal f).mul (tscaleVal d.tscale)
  let es := vs.map fun v =>
    match v with
    | .fin n x => if scale.isZero then encode .b4 (.fin n Dy.zero) (Dy.ofInt 1) .near 0 false false else encode .b4 (.fin n x) scale .near 0 false false
    | v => encode .b4 v (Dy.ofInt 1) .near 0 false false
  (f, es.map Enc.code, (es.filter Enc.ovf).length, (es.filter Enc.under).length)

/-- The zero code of block j of row i: the block's zero point for U4 (R213). -/
def blockZero (s : State) (d : Desc) (i j : Nat) : Nat :=
  if d.fmt = .u4 then zeroPoint s d i (j * blockSize d.blk) else 0

/-- The blocks of a tensor in stored form, with the saturations and the flushes of narrow mode. -/
def savedBlocks (s : State) (d : Desc) (mode : Nat) : List (BlockTag × List Byte) × Nat × Nat :=
  (tensorBlocks d).foldr (fun (i, j) acc =>
    if mode = 2 then
      let (_, cs, n, k) := narrowBlock s d i j
      let t := chooseTag .b4 0 cs true
      ((t, storeBlock .b4 0 cs t) :: acc.1, acc.2.1 + n, acc.2.2 + k)
    else
      let z := blockZero s d i j
      let cs := blockCodes s d z i j
      let t := chooseTag d.fmt z cs (mode == 1)
      ((t, storeBlock d.fmt z cs t) :: acc.1, acc.2)) ([], 0, 0)

/-- The plane region of a save (R211, R215): the scale-plane entries, each followed by the B4 fine scale in narrow mode
(log 30: DESIGN CHOICE). -/
def savedPlane (s : State) (d : Desc) (mode : Nat) : List Byte :=
  if !d.fmt.isScaled then []
  else (tensorBlocks d).flatMap fun (i, j) =>
    readBytes s (d.scaleAddr i j) d.scaleStep
      ++ (if mode = 2 then [BitVec.ofNat 8 (narrowBlock s d i j).1] else [])

/-- The bytes of a segment that requests cover: header and payload, in whole 256 bytes (R212). -/
def segBytes (n : Nat) : Nat := (n + 255) / 256 * 256

/-- SAVE (R211 to R215): a tensor's blocks stored under their tags, segment by segment, with the planes beside them. A W16 source
has no plane. -/
def execSave (l : Core) (idx : Nat) (s : State) : Host.Outcome State Fault Refusal :=
  match streamWord s l idx with
  | none => .next s
  | some w =>
    if !canIssue s l idx w .save then .next s
    else .next (orFault s l .bramble idx (do
      let src ← operand! s l (opArg w 0)
      let segs ← dest! s l (opArg w 1)
      let plane ← destOpt s l (opArg w 2)
      if src.fmt.isScaled && plane.isNone then .error (.sched, descAddr s l (opArg w 2))
      else
        let mode := opImm w 1 0
        let fm := if mode = 2 then Format.b4 else src.fmt
        let r := savedBlocks s src mode
        let blobs := ((piecesOf 64 (r.1.length + 1) r.1).map fun p => segment mode fm src.blk p).zipIdx
        let place := fun (i : Nat) => segs.base + i * segSlot fm (blockSize src.blk)
        let pb := savedPlane s src mode
        let s := traffic (issue s l idx w .save true) l idx .bramble [src] []
        let s := askRuns s l idx .bramble true ((blobs.map fun (b, i) => (place i, segBytes b.length))
          ++ plane.toList.map fun p => (p.base, pb.length))
        let s := blobs.foldl (fun t (b, i) => writeBytes t (place i) b) s
        let s := plane.toList.foldl (fun t p => writeBytes t p.base pb) s
        let s := bump s (Obj.brambleRawBytes + l.die.val) (src.rows * src.rowBytes)
        let s := bump s (Obj.brambleStoredBytes + l.die.val) (blobs.map fun x => x.1.length).sum
        let s := bumpIf s (r.2.1 != 0) (Obj.brambleSat + l.die.val) r.2.1
        .ok (markDone (countFlush s l r.2.2) l idx)))

/-- The codes of one segment's blocks, from its bytes; `zeros` gives each block's zero code. -/
def segmentCodes (fm : Format) (b tags : Nat) : Nat → List Nat → List Byte → List (List Nat)
  | _, [], _ => []
  | k, z :: zs, bytes =>
    let r := loadBlock fm z b bytes (BlockTag.ofCode (tags / 4 ^ k % 4))
    r.1 :: segmentCodes fm b tags (k + 1) zs (bytes.drop r.2)

/-- One block of a load in narrow mode (R215): each B4 element decoded and encoded into the source format; its codes, the
saturations and the flushes. -/
def widenBlock (d : Desc) (fine f4 : Nat) (cs : List Nat) : List Nat × Nat × Nat :=
  let t := tscaleVal d.tscale
  let es := cs.map fun c =>
    let v := decode .b4 c (fineVal f4) t 0
    let scale := (fineVal fine).mul t
    match v with
    | .fin n x => if scale.isZero then encode d.fmt (.fin n Dy.zero) (Dy.ofInt 1) .near 0 d.ovfInf false else encode d.fmt (.fin n x) scale .near 0 d.ovfInf false
    | v => encode d.fmt v (Dy.ofInt 1) .near 0 d.ovfInf false
  (es.map Enc.code, (es.filter Enc.ovf).length, (es.filter Enc.under).length)

/-- One segment loaded into the destination (R212, R215): its planes, then its elements. Answers the saturations and the flushes. -/
def loadSegment (s : State) (segs dst : Desc) (plane i : Nat) (blocks : List (Nat × Nat)) : State × Nat × Nat :=
  let b := blockSize dst.blk
  let narrow := byteAt (readBytes s segs.base 8) 4 == 2
  let fm := if narrow then Format.b4 else dst.fmt
  let slot := readBytes s (segs.base + i * segSlot fm b) (segSlot fm b)
  let tags := fieldLE slot 0x10 16
  let step := dst.scaleStep + (if narrow then 1 else 0)
  let entry := fun (p : Nat × Nat) => plane + (p.1 * dst.blocks + p.2) * step
  let s := if !dst.fmt.isScaled then s
    else blocks.foldl (fun t p => writeBytes t (dst.scaleAddr p.1 p.2) (readBytes t (entry p) dst.scaleStep)) s
  let zeros := blocks.map fun p => if narrow then 0 else blockZero s dst p.1 p.2
  let codes := segmentCodes fm b tags 0 zeros (slot.drop 32)
  (blocks.zip codes).foldl (fun (acc : State × Nat × Nat) (p, cs) =>
    let r := if narrow then
        widenBlock dst (readByte acc.1 (entry p)).toNat (readByte acc.1 (entry p + dst.scaleStep)).toNat cs
      else (cs, 0, 0)
    let n := min b (dst.dim0 - p.2 * b)
    let (a, bit) := dst.elemBit p.1 (p.2 * b)
    (writeBits acc.1 a bit (dst.fmt.bits * n) (packCodes dst.fmt.bits (r.1.take n)), acc.2.1 + r.2.1, acc.2.2 + r.2.2)) (s, 0, 0)

/-- Bytes that each of n segments takes in its slot: header and payload (R212). -/
def storedRuns (s : State) (segs dst : Desc) (n : Nat) : List (Nat × Nat) :=
  let narrow := byteAt (readBytes s segs.base 8) 4 == 2
  let slot := segSlot (if narrow then Format.b4 else dst.fmt) (blockSize dst.blk)
  (List.range n).map fun i => (segs.base + i * slot, segBytes (32 + readLE s (segs.base + i * slot) 4))

/-- LOAD (R211, R214, R215): the stored segments expanded into a tensor. -/
def execLoad (l : Core) (idx : Nat) (s : State) : Host.Outcome State Fault Refusal :=
  match streamWord s l idx with
  | none => .next s
  | some w =>
    if !canIssue s l idx w .load then .next s
    else .next (orFault s l .bramble idx (do
      let segs ← operand! s l (opArg w 0)
      let dst ← dest! s l (opArg w 1)
      let plane ← operand s l (opArg w 2)
      if dst.fmt.isScaled && plane.isNone then .error (.sched, descAddr s l (opArg w 2))
      else
        let bs := tensorBlocks dst
        let parts := (piecesOf 64 (bs.length + 1) bs).zipIdx
        let s := issue s l idx w .load true
        let s := askRuns s l idx .bramble false (storedRuns s segs dst parts.length)
        let s := traffic s l idx .bramble plane.toList [dst]
        let r := parts.foldl (fun (acc : State × Nat × Nat) (p, i) =>
          let x := loadSegment acc.1 segs dst ((plane.map Desc.base).getD 0) i p
          (x.1, acc.2.1 + x.2.1, acc.2.2 + x.2.2)) (s, 0, 0)
        let s := bumpIf r.1 (r.2.1 != 0) (Obj.brambleSat + l.die.val) r.2.1
        .ok (markDone (countFlush s l r.2.2) l idx)))

end Sys2Proof.Machine
end

