-- ==== Sys2Proof/Machine/Fill.lean ====
section
/-!
DEFINITION. Random fills and the lane checks of Sloe (R224 to R233).
-/
namespace Sys2Proof.Machine

/-- Purpose code of a FILL (R286). -/
def fillPurpose (w : BitVec 256) : Nat := opImm w 3 0

/-- Elements that a fill writes: a mask holds one bit an element (R228), a region of values four bytes each. -/
def fillCount (d : Desc) (mask : Bool) : Nat :=
  if d.kind = 1 then (if mask then 8 * d.dim0 else d.dim0 / 4) else d.rows * d.dim0

/-- The draw of a fill (R220, R222). -/
def fillDraw (s : State) (d : Desc) (w : BitVec 256) : Draw := drawOf s (fillPurpose w) d.ident (opImm w 17 6) s.job.step

/-- Bytes of a dropout mask: element 8j + k in bit k of byte j (R228); `at_` gives an element's index in the whole mask (R225). -/
def maskByte (x : Draw) (at_ : Nat → Nat) (keep n j : Nat) : Byte :=
  BitVec.ofNat 8 (((List.range 8).filter fun k =>
    decide (8 * j + k < n ∧ (x.word (at_ (8 * j + k))).toNat < keep)).map fun k => 2 ^ k).sum

/-- FILL_DROPOUT (R228): element i of the mask is 1 when its word is below KEEP. -/
def execFillDropout (l : Core) (idx : Nat) (s : State) : Host.Outcome State Fault Refusal :=
  match streamWord s l idx with
  | none => .next s
  | some w =>
    if !canIssue s l idx w .fill || fillPurpose w != 1 then .next s
    else .next (orFault s l .sloe idx (do
      let dst ← dest! s l (opArg w 0) false
      let n := fillCount dst true
      let x := fillDraw s dst w
      let s := traffic (issue s l idx w .fill true) l idx .sloe [] [dst]
      let b := (List.range ((n + 7) / 8)).map (maskByte x (drawIndex s l idx) (opImm w 63 32) n)
      .ok (markDone (countEvals (countKey (writeBytes s dst.base b)) ((n + 3) / 4)) l idx)))

/-- The variate z of element i (R225, R227, R229, R230). -/
def fillVariate (x : Draw) (method i : Nat) : W32 :=
  match method with
  | 0 => roundDy (sloeUniform (x.word i))
  | 1 => transformNormal (x.pair i).1 (x.pair i).2 (i % 2 == 1)
  | _ => tableNormal (x.word i)

/-- The value of an element: r(A + r(B × z)) (R231). -/
def fillValue (a b z : W32) : W32 := w32Add a (w32Mul b z)

/-- One element stored in the destination's format: W32, or its part of the master pair (R231, R51, log 31: DESIGN CHOICE). -/
def putFill (d : Desc) (acc : State × Nat) (i : Nat) (y : W32) : State × Nat :=
  let row := i / max d.dim0 1
  let k := i % max d.dim0 1
  let p := masterSplit y
  if d.kind = 1 then (writeLE acc.1 (d.base + 4 * i) 4 y.toNat, acc.2)
  else match d.fmt with
    | .w16 => (putCode acc.1 d row k p.1, if p.2.2 then acc.2 + 1 else acc.2)
    | .rm8 => (putCode acc.1 d row k p.2.1, acc.2)
    | _ => (writeLE acc.1 (d.rowAddr row + 4 * k) 4 y.toNat, acc.2)

/-- Whether a fill can write a destination (R231): W32, or a part of a master pair. -/
def fillFormatOk (d : Desc) : Bool := d.kind == 1 || d.fmt == .w32 || d.fmt == .w16 || d.fmt == .rm8

/-- A fill of values (R231), for one purpose. -/
def fillValues (purpose : Nat) (l : Core) (idx : Nat) (s : State) : State :=
  match streamWord s l idx with
  | none => s
  | some w =>
    if !canIssue s l idx w .fill || fillPurpose w != purpose then s
    else orFault s l .sloe idx (do
      let dst ← dest! s l (opArg w 0) false
      let par ← operand! s l (opArg w 1)
      let a := readW32 s par.base
      let b := readW32 s (par.base + 4)
      if !fillFormatOk dst then .error (.sched, descAddr s l (opArg w 0))
      else if !w32IsFin a || !w32IsFin b then .error (.sched, descAddr s l (opArg w 1))
      else
        let n := fillCount dst false
        let x := fillDraw s dst w
        let s := traffic (issue s l idx w .fill true) l idx .sloe [par] [dst]
        let r := (List.range n).foldl (fun acc i => putFill dst acc i (fillValue a b (fillVariate x (opImm w 5 4) (drawIndex s l idx i)))) (s, 0)
        let s := bumpIf r.1 (r.2 != 0) (Obj.damsonMasterOvf + l.die.val) r.2
        .ok (markDone (countEvals (countKey s) ((n + 3) / 4)) l idx))

/-- FILL_INIT (R231): initialisation values A + B × z. -/
def execFillInit (l : Core) (idx : Nat) (s : State) : Host.Outcome State Fault Refusal := .next (fillValues 2 l idx s)

/-- FILL_NOISE (R231): noise A + B × z. -/
def execFillNoise (l : Core) (idx : Nat) (s : State) : Host.Outcome State Fault Refusal := .next (fillValues 5 l idx s)

/-- A lane of Sloe leaves service (R233, R510): its bit is set and the lanes in service recounted. -/
def removeLane (s : State) (d : Die) (lane : Nat) : State :=
  let m := reg s (Obj.sloeLaneMap + d.val)
  if bitOf m lane then s
  else needStore (setReg (setReg s (Obj.sloeLaneMap + d.val) (m + 2 ^ lane)) (Obj.sloeLanes + d.val)
    (reg s (Obj.sloeLanes + d.val) - 1))

/-- SLOE_EVALUATION (R233, R427 code 0x07): lane `lane` of a die completes an evaluation. Copies that differ make it
compute again and count; a second mismatch on the evaluation removes the lane. The outputs themselves are functions of
key and counter, so nothing else changes. -/
def execSloeEvaluation (d : Die) (lane : Fin 1024) (ok : Bool) (s : State) : Host.Outcome State Fault Refusal :=
  let id := d.val * 1024 + lane.val
  let clear := { s with ras := { s.ras with laneFails := s.ras.laneFails.filter (· != id) } }
  if bitOf (reg s (Obj.sloeLaneMap + d.val)) lane.val then .next s
  else if ok then .next clear
  else
    let t := bump s (Obj.sloeCheckErr + d.val) 1
    if s.ras.laneFails.contains id then
      .next (let t := removeLane { t with ras := clear.ras } d lane.val
        reportFault t 0x07 (if reg t (Obj.sloeLanes + d.val) = 0 then 1 else 0) 0 0 d.val id)
    else .next { t with ras := { t.ras with laneFails := id :: t.ras.laneFails } }

end Sys2Proof.Machine
end

