-- ==== Sys2Proof/Machine/Quince.lean ====
section
/-!
DEFINITION. Attention pipelines, appends and token sampling (R242 to R261, R272 to R274, R278, R279).
-/
namespace Sys2Proof.Machine

/-! ### Sequence entries, page lists and records (R262 to R267) -/

/-- A sequence-table entry (R267). -/
structure Seq where
  id : Nat := 0
  state : Nat := 0
  walking : Bool := false
  gen : Nat := 0
  len : Nat := 0
  ptBase : Nat := 0
  ptCap : Nat := 0
  npages : Nat := 0
  protFirst : Nat := 0
  recent : Nat := 0
  srec : Nat := 0
  append : Nat := 0
  evicted : Nat := 0
  deriving DecidableEq, Repr

/-- The entry that 64 bytes hold. -/
def parseSeq (b : List Byte) : Seq :=
  { id := fieldLE b 0 5, state := byteAt b 8, walking := byteAt b 9 != 0, gen := fieldLE b 0x0A 2, len := fieldLE b 0x0C 4
    ptBase := fieldLE b 0x10 8, ptCap := fieldLE b 0x18 4, npages := fieldLE b 0x1C 4, protFirst := fieldLE b 0x20 2
    recent := fieldLE b 0x22 2, srec := fieldLE b 0x24 2, append := fieldLE b 0x26 2, evicted := fieldLE b 0x28 4 }

/-- The 64 bytes of an entry (R267). -/
def Seq.bytes (x : Seq) : List Byte :=
  leBytes 8 x.id ++ leBytes 1 x.state ++ leBytes 1 (if x.walking then 1 else 0) ++ leBytes 2 x.gen ++ leBytes 4 x.len
    ++ leBytes 8 x.ptBase ++ leBytes 4 x.ptCap ++ leBytes 4 x.npages ++ leBytes 2 x.protFirst ++ leBytes 2 x.recent
    ++ leBytes 2 x.srec ++ leBytes 2 x.append ++ leBytes 4 x.evicted ++ leBytes 20 0

/-- Entry i of the sequence table. -/
def seqAt (s : State) (i : Nat) : Seq := parseSeq (regBytes s (Obj.seqEntry + i))

/-- An entry's copies in the four Thatches written (R267). -/
def putCopies (s : State) (i : Nat) (b : List Byte) : State :=
  match s.kv.seqTable with
  | none => s
  | some o => (List.finRange 4).foldl (fun t (d : Die) => writeBytes t (thatchAddr d + o + 64 * i) b) s

/-- Entry i written: SEQ_ENTRY and the copies in the four Thatches (R267). -/
def putSeq (s : State) (i : Nat) (x : Seq) : State := putCopies (setRegBytes s (Obj.seqEntry + i) x.bytes) i x.bytes

/-- Page-list word of logical page p (R266). -/
def pageEntry (s : State) (x : Seq) (p : Nat) : Nat := readLE s (x.ptBase + 4 * p) 4

/-- EVICTED of a page-list word. -/
def entryEvicted (w : Nat) : Bool := bitOf w 31

/-- PAGE of a page-list word. -/
def entryPage (w : Nat) : Nat := w % 2 ^ 20

/-- A key-value layer record (R262). -/
structure LRec where
  tscaleK : W32
  tscaleV : W32
  kfmt : Nat
  vfmt : Nat
  blk : Nat
  hg : Nat
  d : Nat
  ngrp : Nat
  pool : Nat
  frame : Nat
  zp : Nat
  deriving DecidableEq, Repr

/-- Layer record i, from the Thatch of a die. -/
def lrecAt (s : State) (d : Die) (i : Nat) : LRec :=
  let b := readBytes s (thatchAddr d + s.kv.layerRecords + 32 * i) 32
  { tscaleK := w32At b 0, tscaleV := w32At b 4, kfmt := byteAt b 8, vfmt := byteAt b 9, blk := byteAt b 0x0A
    hg := byteAt b 0x0B, d := fieldLE b 0x0C 2, ngrp := fieldLE b 0x0E 2, pool := fieldLE b 0x10 8
    frame := fieldLE b 0x18 4, zp := byteAt b 0x1C }

/-- The next 64-byte boundary. -/
def up64 (n : Nat) : Nat := (n + 63) / 64 * 64

/-- The keys or values of a frame as a tensor of heads × 64 tokens rows of d elements (R263). -/
def frameDesc (r : LRec) (page group : Nat) (vals : Bool) : Desc :=
  let fk := (Format.ofCode r.kfmt).getD .k8
  let fv := (Format.ofCode r.vfmt).getD .k8
  let rows := 64 * r.hg
  let nb := (r.d + blockSize r.blk - 1) / blockSize r.blk
  let base := r.pool + (page * r.ngrp + group) * r.frame
  let v0 := up64 (rows * packedBytes fk r.d)
  let ks := up64 (v0 + rows * packedBytes fv r.d)
  let vs := up64 (ks + rows * nb)
  let fm := if vals then fv else fk
  { base := base + (if vals then v0 else 0), format := fm.code, blk := r.blk, splane := base + (if vals then vs else ks)
    dim0 := r.d, dim1 := rows, stride1 := packedBytes fm r.d, tscale := if vals then r.tscaleV else r.tscaleK }

/-- Scale-plane byte of a frame for row i and block j: one byte each, also for U4, whose zero point is the record's (R262,
R263). -/
def frameScaleAddr (d : Desc) (i j : Nat) : Nat := d.splane + i * d.blocks + j

/-! ### Operands of an attention operation (R245) -/

/-- Where keys and values come from (R245): tensors, or a sequence's pages. -/
inductive KvSource where
  | dense (k v : Desc) (nk : Nat)
  | paged (x : Seq) (r : LRec) (group head : Nat)
  deriving DecidableEq, Repr

/-- The operands of an attention operation. -/
structure AttnOp where
  b : AttnBlock
  q : Desc
  qpos : Desc
  src : KvSource
  a0 : Desc
  a1 : Desc
  out : Desc
  lse : Desc
  status : Desc
  deriving DecidableEq, Repr

/-- The attention block of an operation word and its address (R285, R289). -/
def attnBlock (s : State) (l : Core) (w : BitVec 256) : AttnBlock := parseAttn (readBytes s (sramAddr l + opBlock w) 64)

/-- The operands, checked (R293). -/
def loadAttn (s : State) (l : Core) (w : BitVec 256) : Except (DescErr × Nat) AttnOp := do
  let b := attnBlock s l w
  let q ← operand! s l b.q
  let qpos ← operand! s l b.qpos
  let src ← if b.paged then .ok (KvSource.paged (seqAt s b.seq) (lrecAt s l.die b.lrec) b.group b.head)
    else do
      let k ← operand! s l b.k
      let v ← operand! s l b.v
      .ok (KvSource.dense k v b.nk)
  let a0 ← dest! s l b.acc0
  let a1 ← dest! s l b.acc1
  let out ← dest! s l b.out
  let lse ← dest! s l b.lse
  let status ← dest! s l b.status
  .ok { b := b, q := q, qpos := qpos, src := src, a0 := a0, a1 := a1, out := out, lse := lse, status := status }

/-- KEND (R253). -/
def AttnOp.kend (a : AttnOp) : Nat :=
  match a.src with
  | .dense _ _ n => n
  | .paged x _ _ _ => x.len + x.append

/-- Tensor scale of keys, and of values. -/
def AttnOp.tscales (a : AttnOp) : W32 × W32 :=
  match a.src with
  | .dense k v _ => (k.tscale, v.tscale)
  | .paged _ r _ _ => (r.tscaleK, r.tscaleV)

/-- Page index of the page that holds a key position, when it is not evicted (R253, R266). -/
def AttnOp.page (s : State) (a : AttnOp) (j : Nat) : Option Nat :=
  match a.src with
  | .dense _ _ _ => none
  | .paged x _ _ _ => let w := pageEntry s x (j / 64); if entryEvicted w then none else some (entryPage w)

/-- Element e of key or value j, as loaded: its exact value times its own fine scale, without the tensor scale (R246,
R255). -/
def AttnOp.elem (s : State) (a : AttnOp) (vals : Bool) (j e : Nat) : Factor :=
  let one := Dy.ofInt 1
  match a.src with
  | .dense k v _ =>
    let d := if vals then v else k
    { val := decode d.fmt (elemCode s d j e) (fineVal (fineByte s d false j e)) one (zeroPoint s d j e), fine := one }
  | .paged x r g h =>
    let d := frameDesc r (entryPage (pageEntry s x (j / 64))) g vals
    let i := 64 * h + j % 64
    let f := (readByte s (frameScaleAddr d i (e / blockSize d.blk))).toNat
    { val := decode d.fmt (elemCode s d i e) (fineVal f) one (if d.fmt = .u4 then r.zp else 0), fine := one }

/-- P = r(r(tq × tk) × SIGMA) (R249). -/
def AttnOp.scale (a : AttnOp) : W32 := w32Mul (w32Mul a.q.tscale a.tscales.1) a.b.sigma

/-- Position of a query row (R245). -/
def AttnOp.qp (s : State) (a : AttnOp) (row : Nat) : Nat := readLE s (a.qpos.base + 4 * row) 4 % 2 ^ 24

/-- Whether key j is allowed for a row at position qp (R253). -/
def AttnOp.allowed (s : State) (a : AttnOp) (qp j : Nat) : Bool :=
  decide (j < a.kend) && (!a.b.causal || decide (j ≤ qp))
  && (a.b.window == 0 || decide (j ≤ qp ∧ qp - j < a.b.window))
  && (!a.b.paged || (a.page s j).isSome)

/-- Keys of block b that are allowed for some row: those that its load takes (R246, R254). -/
def AttnOp.loaded (s : State) (a : AttnOp) (qps : List Nat) (b : Nat) : List Nat :=
  ((List.range 256).map (256 * b + ·)).filter fun j => qps.any fun p => a.allowed s p j

/-- Keys of block b that are allowed for a row, ascending. -/
def AttnOp.keys (s : State) (a : AttnOp) (qp b : Nat) : List Nat :=
  ((List.range 256).map (256 * b + ·)).filter (a.allowed s qp)

/-- Fed and skipped blocks of an operation (R254). -/
def AttnOp.blocks (s : State) (a : AttnOp) : List Nat × Nat :=
  let qps := (List.range a.b.mq).map (a.qp s)
  let all := List.range ((a.kend + 255) / 256)
  let fed := all.filter fun b => !(a.loaded s qps b).isEmpty
  (fed, all.length - fed.length)

/-! ### The running softmax (R249, R250) -/

/-- The running state of a row (R250). -/
structure RowState where
  m : W32 := w32Inf true
  l : W32 := 0#32
  o : List W32 := []
  bad : Bool := false
  deriving DecidableEq, Repr

/-- The state of a row read from a region of Mq × (d + 2) words: m, l, O (R245, R250, log 32: DESIGN CHOICE). -/
def readRow (s : State) (r : Desc) (d row : Nat) : RowState :=
  let a := r.base + 4 * (d + 2) * row
  { m := readW32 s a, l := readW32 s (a + 4), o := (List.range d).map fun e => readW32 s (a + 8 + 4 * e) }

/-- The state of a row written. -/
def putRow (s : State) (r : Desc) (d row : Nat) (x : RowState) : State :=
  writeBytes s (r.base + 4 * (d + 2) * row) ((x.m :: x.l :: x.o).flatMap fun w => leBytes 4 w.toNat)

/-- The score of key j for a row (R249). A score is no element of a tensor: its flushes move no counter (R63, R557, log 128:
DEDUCED). -/
def AttnOp.score (s : State) (a : AttnOp) (row j : Nat) : W32 :=
  let groups := (blocksOf 0 a.q.dim0 (blockSize a.q.blk)).map fun es =>
    ({ pairs := es.map fun e => (factorAt s a.q false false e row, a.elem s false j e)
       fa := fineVal (fineByte s a.q false row (es.headD 0)), fw := Dy.ofInt 1, integer := false } : Group)
  (dotProduct 0#32 groups true a.scale).1

/-- The larger of two W32 values. -/
def w32Max (a b : W32) : W32 := if w32Lt a b then b else a

/-- The value group of R249 for element e: its exact value, or its special value under R66. -/
def valueGroup (ps : List (Factor × Factor)) : Ext :=
  let ks := ps.map fun p => prodOf p.1 p.2
  let p := ks.any (· == .inf false)
  let n := ks.any (· == .inf true)
  if ks.any (· == .nan) || (p && n) then .nan
  else if p then .inf false
  else if n then .inf true
  else Ext.ofDy (groupFloat (ks.map Prod.dy))

/-- r(O + G) (R250). -/
def addGroup (o : W32) (g : Ext) : W32 :=
  match w32Val o, g with
  | .nan, _ => w32Nan
  | _, .nan => w32Nan
  | .inf a, .inf b => if a = b then w32Inf a else w32Nan
  | .inf a, _ => w32Inf a
  | _, .inf b => w32Inf b
  | .fin _ x, .fin _ y => roundDy (x.add y)

/-- A probability: its K8 value, and whether it flushed (R250). -/
def probability (x mn : W32) : Dy × Bool :=
  let y := expUnit (w32Sub x mn)
  let p := (decode .k8 (encode .k8 (w32Val y) (Dy.ofInt 1) .near 0 false false).code (Dy.ofInt 1) (Dy.ofInt 1) 0).dy
  (p, p.isZero && !w32IsZero y)

/-- What one row of a block gives. -/
structure RowOut where
  st : RowState
  /-- page and share of the row's mass (R274) -/
  mass : List (Nat × Nat) := []
  flushes : Nat := 0
  deriving DecidableEq, Repr

/-- One row against one fed block (R250, R274). -/
def AttnOp.row (s : State) (a : AttnOp) (blk row : Nat) (x : RowState) : RowOut :=
  let ks := a.keys s (a.qp s row) blk
  let sc := ks.map fun j => (j, a.score s row j)
  let usable := fun (v : W32) => !w32IsNan v && v != w32Inf false
  let bad := x.bad || sc.any fun p => !usable p.2
  let mb := ((sc.filter fun p => usable p.2).map Prod.snd).foldl w32Max (w32Inf true)
  let mn := w32Max x.m mb
  let alpha := if w32Lt x.m mn then expUnit (w32Sub x.m mn) else w32One
  let ps := sc.map fun p => (p.1, if w32IsFin p.2 then probability p.2 mn else (Dy.zero, false))
  let sum := ps.foldl (fun t p => t.add p.2.1) Dy.zero
  let l := roundDy ((w32Val (w32Mul alpha x.l)).dy.add sum)
  let o := (x.o.zipIdx).map fun (v, e) =>
    (List.range 4).foldl (fun t g =>
      addGroup t (valueGroup ((ps.filter fun p => p.1 % 256 / 64 == g).map fun p =>
        ({ val := .fin false p.2.1, fine := Dy.ofInt 1 }, a.elem s true p.1 e)))) (w32Mul alpha v)
  let bad := bad || o.any w32IsNan
  let share := fun g =>
    let t := (ps.filter fun p => p.1 % 256 / 64 == g).foldl (fun t p => t.add p.2.1) Dy.zero
    ((t.mul (Dy.ofInt 65535)).div (w32Val l).dy).floor.toNat
  let mass := if !a.b.score || bad || w32IsZero l then []
    else (List.range 4).filterMap fun g => (a.page s (256 * blk + 64 * g)).map fun p => (p, share g)
  { st := { m := mn, l := l, o := o, bad := bad }, mass := mass, flushes := (ps.filter fun p => p.2.2).length }

/-! ### Pipelines (R242, R259) -/

/-- A run changed. -/
def modRun (s : State) (q : Nat) (f : QRun → QRun) : State :=
  { s with kv := { s.kv with runs := s.kv.runs.map fun r => if r.pipe == q then f r else r } }

/-- A sequence's walk is over, or it does not run (R269). -/
def AttnOp.walkOver (a : AttnOp) : Bool :=
  match a.src with
  | .paged x _ _ _ => !x.walking
  | .dense _ _ _ => false

/-- The tensor that holds key or value j, and its row there (R245, R263). -/
def AttnOp.rowOf (s : State) (a : AttnOp) (vals : Bool) (j : Nat) : Desc × Nat :=
  match a.src with
  | .dense k v _ => (if vals then v else k, j)
  | .paged x r g h => (frameDesc r (entryPage (pageEntry s x (j / 64))) g vals, 64 * h + j % 64)

/-- The scale bytes of a row of keys or values: one a block in a frame, also for U4 (R263). -/
def AttnOp.scaleRun (a : AttnOp) (d : Desc) (i : Nat) : Nat × Nat :=
  match a.src with
  | .dense _ _ _ => (d.scaleAddr i 0, d.blocks * d.scaleStep)
  | .paged _ _ _ _ => (frameScaleAddr d i 0, d.blocks)

/-- The runs that a block's load reads of its keys or its values: the rows of the keys loaded, then their scale bytes (R246,
R254). -/
def AttnOp.loadRuns (s : State) (a : AttnOp) (vals : Bool) (js : List Nat) : List (Nat × Nat) :=
  let rows := js.map (a.rowOf s vals)
  rows.map (fun (d, i) => (d.rowAddr i, d.rowBytes)) ++ rows.map (fun (d, i) => a.scaleRun d i)

/-- The reads of a block's keys or values (R303, R308). -/
def AttnOp.load (s : State) (l : Core) (idx : Nat) (a : AttnOp) (vals : Bool) (js : List Nat) : State :=
  let runs := a.loadRuns s vals js
  match a.src with
  | .dense k v _ => readRuns s l idx .quince (if vals then v else k) runs
  | .paged _ _ _ _ => askRuns s l idx .quince false runs

/-- The running state of an operation's rows that fed block i reads and writes (R250, R303). -/
def AttnOp.stateTraffic (s : State) (l : Core) (idx : Nat) (a : AttnOp) (i : Nat) : State :=
  let run := fun (d : Desc) => [(d.base, 4 * (a.q.dim0 + 2) * a.b.mq)]
  let s := if i = 0 then s else askRuns s l idx .quince false (run (if i % 2 = 1 then a.a0 else a.a1))
  askRuns s l idx .quince true (run (if i % 2 = 1 then a.a1 else a.a0))

/-- The requests of an operation (R254, R303): its page list, its queries and positions, for each fed block the keys and values
that it loads and the running state, and its results. -/
def AttnOp.traffic (s : State) (l : Core) (idx : Nat) (a : AttnOp) (fed : List Nat) : State :=
  let qps := (List.range a.b.mq).map (a.qp s)
  let s := match a.src with
    | .paged x _ _ _ => askRuns s l idx .quince false [(x.ptBase, 4 * ((a.kend + 63) / 64))]
    | .dense _ _ _ => s
  let s := Machine.traffic s l idx .quince [a.q, a.qpos] []
  let s := (fed.zipIdx).foldl (fun t (b, i) =>
    let js := a.loaded s qps b
    AttnOp.stateTraffic (AttnOp.load (AttnOp.load t l idx a false js) l idx a true js) l idx a i) s
  Machine.traffic s l idx .quince [] [a.out, a.lse, a.status]

/-- FINAL of a row (R251): output words and log-sum-exp. -/
def finalRow (tv : W32) (d : Nat) (x : RowState) : List W32 × W32 :=
  if x.bad then (List.replicate d w32Nan, w32Nan)
  else if w32IsZero x.l then (List.replicate d 0#32, w32Inf true)
  else
    let l := (w32Val x.l).dy
    (x.o.map fun o => match w32Val o with
      | .fin n v => roundQ ((v.mul (tscaleVal tv)).div l) n
      | .inf n => w32Inf n
      | .nan => w32Nan, w32Add x.m (lnUnit x.l))

/-- The status word of an operation (R257). -/
def attnStatus (gen fed : Nat) (bad inf : List Nat) (empty : Bool) : Nat :=
  (if bad.isEmpty then 0 else 2 ^ 63) + (if inf.isEmpty then 0 else 2 ^ 62) + (if empty then 2 ^ 61 else 0)
  + gen * 2 ^ 32 + min fed 0xFFFF * 2 ^ 16 + bad.headD 0 * 2 ^ 8 + inf.headD 0

/-- GEN of the walk (R257). -/
def AttnOp.gen (a : AttnOp) : Nat := match a.src with | .paged x _ _ _ => x.gen | .dense _ _ _ => 0

/-- Attention mass added to the mass plane of a die, saturating (R274). -/
def addMass (s : State) (d : Die) (m : List (Nat × Nat)) : State :=
  m.foldl (fun t (p, c) =>
    let a := thatchAddr d + t.kv.massPlane + 4 * p
    writeLE t a 4 (min (readLE t a 4 + c) 0xFFFFFFFF)) s

/-- FINAL of the whole operation (R251, R256, R257): rows from the last state region, the status word, the mass plane. -/
def finishAttn (s : State) (l : Core) (a : AttnOp) (r : QRun) : State :=
  let d := a.q.dim0
  let n := r.fed.length
  let region := if n % 2 = 1 then a.a0 else a.a1
  let rows := (List.range a.b.mq).map fun i =>
    if n = 0 then ({ o := List.replicate d 0#32 } : RowState) else { readRow s region d i with bad := r.bad.contains i }
  let outs := rows.map (finalRow a.tscales.2 d)
  let s := writeBytes s a.out.base (outs.flatMap fun x => x.1.flatMap fun w => leBytes 4 w.toNat)
  let s := writeBytes s a.lse.base (outs.flatMap fun x => leBytes 4 x.2.toNat)
  let bad := (List.range a.b.mq).filter fun i => r.bad.contains i
  let inf := (List.range a.b.mq).filter fun i => ((outs.getD i ([], 0#32)).1).any w32IsInf
  let s := writeLE s a.status.base 8 (attnStatus a.gen n bad inf (rows.any fun x => w32IsZero x.l))
  let s := bumpIf s (!bad.isEmpty) (Obj.quinceNanRows + r.pipe) bad.length
  let s := addMass s l.die r.mass
  markDone s l r.idx

/-- ATTN (R245 to R254): an attention operation issues on a pipeline of its die and finds its fed blocks. -/
def execAttn (l : Core) (idx : Nat) (s : State) : Host.Outcome State Fault Refusal :=
  match streamWord s l idx, freePipe s l.die with
  | some w, some q =>
    if !canIssue s l idx w .attn then .next s
    else .next (orFault s l .quince idx (do
      let a ← loadAttn s l w
      let here := sramAddr l + opBlock w
      if !w32IsFin a.b.sigma || !w32Lt 0#32 a.b.sigma || !scaleOk a.scale || a.walkOver then .error (.sched, here)
      else
        let (fed, skipped) := a.blocks s
        let s := AttnOp.traffic (issue s l idx w .attn true) l idx a fed
        let s := bumpIf s (skipped != 0) (Obj.quinceBlocksSkipped + q) skipped
        let r : QRun := { pipe := q, core := l.val, idx := idx, word := w, fed := fed }
        let s := { s with kv := { s.kv with runs := s.kv.runs ++ [r] } }
        .ok (if fed.isEmpty then finishAttn s l a r else s)))
  | _, _ => .next s

/-- QUINCE_BANK_SWAP (R246, R247, R260): the key and value banks of a pipeline swap to its next fed block, whose load is
complete, and the load of the following one starts. The bank may run one block ahead of the verdicts. `waits` is the
ac for which the feed waited. -/
def execQuinceBankSwap (q : Pipe) (waits : Nat) (s : State) : Host.Outcome State Fault Refusal :=
  match s.kv.runs.find? fun r => r.pipe == q.val with
  | none => .next s
  | some r =>
    if r.sampling || r.swaps ≥ r.fed.length || r.swaps > r.pos + 1 then .next s
    else .next (bumpIf (modRun s q.val fun r => { r with swaps := r.swaps + 1 }) (waits != 0) (Obj.quinceLoadWait + q.val) waits)

/-- The results of a block whose verdicts all passed (R250): rows' states go from A((i−1) mod 2) to A(i mod 2). -/
def commitBlock (s : State) (a : AttnOp) (r : QRun) : State × QRun :=
  let d := a.q.dim0
  let i := r.pos
  let src := if i % 2 = 1 then a.a0 else a.a1
  let dst := if i % 2 = 1 then a.a1 else a.a0
  let blk := r.fed.getD i 0
  let outs := (List.range a.b.mq).map fun row =>
    let x := if i = 0 then ({ o := List.replicate d 0#32 } : RowState)
      else { readRow s src d row with bad := r.bad.contains row }
    (row, a.row s blk row x)
  let s := outs.foldl (fun t p => putRow t dst d p.1 p.2.st) s
  let fl := (outs.map fun p => p.2.flushes).foldl (· + ·) 0
  let s := bumpIf (bump s (Obj.quinceBlocks + r.pipe) 1) (fl != 0) (Obj.quincePFlush + r.pipe) fl
  (s, { r with pos := i + 1, fails := 0, bad := (outs.filter fun p => p.2.st.bad).map Prod.fst
               mass := r.mass ++ outs.flatMap fun p => p.2.mass })

/-- A removed pipeline's operation starts again from its first block on another (R259). -/
def rehome (s : State) (l : Core) (r : QRun) : State :=
  let again := { r with pos := 0, swaps := 0, fails := 0, bad := [], mass := [] }
  match freePipe s l.die with
  | some q => { s with kv := { s.kv with runs := s.kv.runs ++ [{ again with pipe := q }] } }
  | none => { s with kv := { s.kv with waiting := s.kv.waiting ++ [again] } }

/-- Pipelines of a die in service. -/
def pipesUp (s : State) (d : Die) : Nat := ((List.range 8).filter fun i => pipeUp s (8 * d.val + i)).length

/-- A failed verdict (R258, R259, R427 codes 0x04 and 0x07). -/
def quinceFail (s : State) (q : Pipe) (l : Core) (r : QRun) : State :=
  let s := bump s (Obj.quinceResidueErr + q.val) 1
  if r.fails = 0 then
    let s := bump s (Obj.quinceRepeat + q.val) 1
    let s := modRun s q.val fun r => { r with swaps := r.pos, fails := 1 }
    reportFault s 0x04 0 0 0 q.die.val q.val
  else
    let s := needStore (setReg s (Obj.quinceState + q.val) 1)
    let s := { s with kv := { s.kv with runs := s.kv.runs.filter fun x => x.pipe != q.val } }
    let s := rehome s l r
    reportFault s 0x07 (if pipesUp s q.die = 0 then 1 else 0) 0 0 q.die.val q.val

/-- QUINCE_VERDICT (R258, R259): the verdicts of the oldest active block of a pipeline return. `e` is the core's
projected end after a repeat (R418). -/
def execQuinceVerdict (q : Pipe) (ok : Bool) (e : Option Nat) (s : State) : Host.Outcome State Fault Refusal :=
  match s.kv.runs.find? fun r => r.pipe == q.val with
  | none => .next s
  | some r =>
    if h : r.core < 128 then
      let l : Core := ⟨r.core, h⟩
      if r.sampling || r.pos ≥ r.swaps then .next s
      else if !ok then .next (projectEnd (quinceFail s q l r) l e)
      else match loadAttn s l r.word with
        | .error err => .next (descFault s l .quince r.idx err)
        | .ok a =>
          let (s, r) := commitBlock s a r
          let s := modRun s q.val fun _ => r
          .next (if r.pos ≥ r.fed.length then finishAttn s l a r else s)
    else .next s

/-- An operation of a pipeline is complete (R242): the pipeline is free for a waiting operation of its die, and the walk
that it ends is over (R269). -/
def leavePipe (s : State) (l : Core) (idx : Nat) : State :=
  match s.kv.runs.find? fun r => r.core == l.val && r.idx == idx with
  | none => s
  | some r =>
    let s := bump { s with kv := { s.kv with runs := s.kv.runs.filter fun x => x.pipe != r.pipe } } (Obj.quinceOps + r.pipe) 1
    let b := attnBlock s l r.word
    let s := if !r.sampling && b.paged && b.walkEnd then putSeq s b.seq { seqAt s b.seq with walking := false } else s
    match s.kv.waiting.find? fun x => x.core / 32 == l.die.val with
    | none => s
    | some x => { s with kv := { s.kv with
        waiting := s.kv.waiting.filter fun y => !(y.core == x.core && y.idx == x.idx)
        runs := s.kv.runs ++ [{ x with pipe := r.pipe }] } }

/-! ### Appends (R272, R273) -/

/-- A source element of an append: a run of heads × d words (R272). -/
def appendSource (s : State) (d : Desc) (i : Nat) : W32 :=
  if d.kind = 1 then readW32 s (d.base + 4 * i) else w32Elem s d d.dim0 (i / max d.dim0 1) (i % max d.dim0 1)

/-- What the encoding of a block, or of a row of blocks, counts: elements that saturate at code 0xFF (R272), all that
saturate or overflow, and those that flush (R76). -/
structure AppendCounts where
  sat : Nat := 0
  ovf : Nat := 0
  under : Nat := 0
  deriving DecidableEq, Repr

/-- Counts added. -/
def AppendCounts.add (a b : AppendCounts) : AppendCounts :=
  { sat := a.sat + b.sat, ovf := a.ovf + b.ovf, under := a.under + b.under }

/-- One block of an append: its fine-scale code, its codes and what it counts (R152, R272). -/
def appendBlock (fm : Format) (t : W32) (zp : Nat) (xs : List W32) : Nat × List Nat × AppendCounts :=
  let vs := xs.map w32Val
  let f := measuredScale (tscaleVal t) (Dy.ofInt (reach fm zp)) vs
  let scale := (fineVal f).mul (tscaleVal t)
  let es := vs.map fun v => passCode fm v scale .near zp false false
  let n := (es.filter Enc.ovf).length
  (f, es.map Enc.code, { sat := if f = 0xFF then n else 0, ovf := n, under := (es.filter Enc.under).length })

/-- One head's row of an append written to a frame. -/
def appendHead (s : State) (src dst : Desc) (zp hd row : Nat) : State × AppendCounts :=
  let b := blockSize dst.blk
  (List.range dst.blocks).foldl (fun (acc : State × AppendCounts) j =>
    let n := min b (dst.dim0 - j * b)
    let xs := (List.range n).map fun k => appendSource s src (hd * dst.dim0 + j * b + k)
    let r := appendBlock dst.fmt dst.tscale zp xs
    let t := (r.2.1.zipIdx).foldl (fun t (c, k) => putCode t dst row (j * b + k) c) acc.1
    let t := writeLE t (frameScaleAddr dst row j) 1 r.1
    (t, acc.2.add r.2.2)) (s, {})

/-- APPEND (R272, R273): one token's keys or values are converted, measured, into the frame of the tail page. -/
def execAppend (l : Core) (idx : Nat) (s : State) : Host.Outcome State Fault Refusal :=
  match streamWord s l idx with
  | none => .next s
  | some w =>
    if !canIssue s l idx w .append then .next s
    else .next (orFault s l .eaves idx (do
      let src ← operand! s l (opArg w 0)
      let e := opImm w 12 0
      let x := seqAt s e
      let p := opImm w 63 40
      if !s.kv.ran.contains e || p < x.len || p ≥ x.len + x.append then .error (.sched, descAddr s l (opArg w 0))
      else
        let r := lrecAt s l.die (opImm w 22 13)
        let dst := frameDesc r (entryPage (pageEntry s x (p / 64))) (opImm w 28 23) (opImm w 29 29 == 1)
        let row := fun h => 64 * h + p % 64
        let areas := (List.range r.hg).flatMap fun h =>
          [({ base := dst.rowAddr (row h), kind := 1, dim0 := dst.rowBytes } : Desc),
           { base := frameScaleAddr dst (row h) 0, kind := 1, dim0 := dst.blocks }]
        let s := traffic (issue s l idx w .append true) l idx .eaves [src] areas
        let t := (List.range r.hg).foldl (fun (acc : State × AppendCounts) h =>
          let x := appendHead acc.1 src dst r.zp h (row h)
          (x.1, acc.2.add x.2)) (s, {})
        let u := bumpIf t.1 (t.2.sat != 0) Obj.kvAppendSat t.2.sat
        let u := bumpIf u (t.2.ovf != 0) (Obj.eavesScaleOvf + l.cluster.val) t.2.ovf
        .ok (markDone (countFlush u l t.2.under) l idx)))

/-! ### Token sampling (R278, R279) -/

/-- First index whose word satisfies a test. -/
def firstWhere (z : List W32) (p : W32 → Bool) : Nat := z.findIdx p

/-- The candidates of R279: the TOPK largest, ascending index; ties go to the lower index. -/
def topCandidates (z : List W32) (k : Nat) : List (W32 × Nat) :=
  if k = 0 ∨ k ≥ z.length then z.zipIdx
  else sortBy (fun a b => decide (a.2 ≤ b.2)) ((sortBy (fun a b => !w32Lt a.1 b.1) z.zipIdx).take k)

/-- The first candidate whose running sum exceeds the target. -/
def pickToken (target : Nat) : Nat → List (Nat × Nat) → Nat
  | _, [] => 0xFFFFFFFF
  | sum, (w, i) :: r => if sum + w > target then i else pickToken target (sum + w) r

/-- The sampled token and whether the sample is invalid (R279); `x` is the Sloe evaluation. -/
def sampleToken (z : List W32) (temp : W32) (topk : Nat) (x : Quad) : Nat × Bool :=
  if z.any w32IsNan || z.all (· == w32Inf true) then (0xFFFFFFFF, true)
  else if z.any (· == w32Inf false) then (firstWhere z (· == w32Inf false), false)
  else
    let zmax := z.foldl w32Max (w32Inf true)
    if w32IsZero temp then (firstWhere z fun v => !w32Lt v zmax, false)
    else
      let ws := (topCandidates z topk).map fun c =>
        (((w32Val (expUnit (w32Div (w32Sub c.1 zmax) temp))).dy.mul (Dy.pow2 31)).toQ.floor.toNat, c.2)
      let total := (ws.map Prod.fst).foldl (· + ·) 0
      let a := x.w1.toNat * 2 ^ 32 + x.w0.toNat
      (pickToken (a * total / 2 ^ 64) 0 ws, false)

/-- Whether a sampling record is within the limits of R278. -/
def sampleRecordOk (temp : W32) (topk : Nat) : Bool :=
  w32IsFin temp && w32Le 0#32 temp && w32Le temp 0x5F800000#32 && decide (topk ≤ 65536)

/-- SAMPLE (R278, R279): a sampling operation draws a token on a pipeline of its die. -/
def execSample (l : Core) (idx : Nat) (s : State) : Host.Outcome State Fault Refusal :=
  match streamWord s l idx, freePipe s l.die with
  | some w, some q =>
    if !canIssue s l idx w .sample then .next s
    else .next (orFault s l .quince idx (do
      let z ← operand! s l (opArg w 0)
      let out ← dest! s l (opArg w 1)
      let e := opImm w 12 0
      let p := opImm w 63 40
      let x := seqAt s e
      let ra := thatchAddr l.die + s.kv.sampleRecords + 16 * x.srec
      let temp := readW32 s ra
      let topk := readLE s (ra + 4) 4
      if !sampleRecordOk temp topk then .error (.sched, ra)
      else
        let s := traffic (issue s l idx w .sample true) l idx .quince [z] [out]
        let words := (List.range z.dim0).map fun k => w32Elem s z z.dim0 0 k
        let draw := (drawOf s 3 z.ident 0 0).eval (x.id % 2 ^ 40 * 2 ^ 24 + p % 2 ^ 24)
        let (tok, bad) := sampleToken words temp topk draw
        let s := countEvals (countKey (bumpIf (writeLE s out.base 4 tok) bad (Obj.quinceSampleInvalid + q) 1)) 1
        let r : QRun := { pipe := q, core := l.val, idx := idx, word := w, sampling := true }
        let s := { s with kv := { s.kv with
          runs := s.kv.runs ++ [r], sampled := s.kv.sampled ++ [{ entry := e, pos := p, token := tok }] } }
        .ok (markDone s l idx)))
  | _, _ => .next s

end Sys2Proof.Machine
end

