-- ==== Sys2Proof/Machine/Kv.lean ====
section
/-!
DEFINITION. The key-value memory: pages, edits of the sequence table and the key-value part of a step boundary (R262 to
R277).
-/
namespace Sys2Proof.Machine

/-! ### Pages (R264, R265) -/

/-- Address of the word of a page. -/
def pageWordAddr (s : State) (p : Nat) : Nat := s.kv.pageWords + 8 * p

/-- REFS of a page. -/
def pageRefs (s : State) (p : Nat) : Nat := readLE s (pageWordAddr s p) 8 / 2 ^ 32 % 2 ^ 14

/-- SCORE of a page. -/
def pageScore (s : State) (p : Nat) : Nat := readLE s (pageWordAddr s p) 4

/-- A page word written: USED when a list references the page (R264). -/
def putPage (s : State) (p refs score : Nat) : State :=
  writeLE s (pageWordAddr s p) 8 (if refs = 0 then 0 else 2 ^ 63 + refs * 2 ^ 32 + score)

/-- The top entry of the free list popped (R265). -/
def popPage (s : State) : Option (Nat × State) :=
  let n := reg s Obj.kvPagesFree
  if n = 0 then none
  else some (readLE s (s.kv.freeList + 4 * (n - 1)) 4, setReg s Obj.kvPagesFree (n - 1))

/-- A page pushed on the free list. -/
def pushPage (s : State) (p : Nat) : State :=
  let n := reg s Obj.kvPagesFree
  setReg (writeLE s (s.kv.freeList + 4 * n) 4 p) Obj.kvPagesFree (n + 1)

/-- The pages that a commit freed, pushed in descending order of index (R265). -/
def pushPages (s : State) (ps : List Nat) : State := (sortBy (fun a b => decide (b ≤ a)) ps).foldl pushPage s

/-- One reference of a page released (R268): the page is freed when none is left. -/
def releaseRef (s : State) (p : Nat) : State × List Nat :=
  let r := pageRefs s p - 1
  (putPage s p r (pageScore s p), if r = 0 then [p] else [])

/-! ### Sequences (R267) -/

/-- The entries that are not FREE, with their indices, ascending. -/
def liveSeqs (s : State) : List (Nat × Seq) :=
  ((s.regs.filter fun r => decide (Obj.seqEntry ≤ r.1 ∧ r.1 < Obj.seqEntry + 8192)).map fun r =>
    (r.1 - Obj.seqEntry, seqAt s (r.1 - Obj.seqEntry))).filter fun x => x.2.state != 0

/-- The entry that holds a sequence identifier. -/
def findSeq (s : State) (id : Nat) : Option (Nat × Seq) := (liveSeqs s).find? fun x => x.2.id == id

/-- The lowest FREE entry. -/
def freeEntry (s : State) : Option Nat := (List.range 8192).find? fun i => (seqAt s i).state == 0

/-- KV_ACTIVE_SEQ counted again (R281). -/
def countSeqs (s : State) : State := setReg s Obj.kvActiveSeq (liveSeqs s).length

/-- An edited entry written, its generation advanced (R267, R268). -/
def editSeq (s : State) (i : Nat) (x : Seq) : State := putSeq s i { x with gen := (x.gen + 1) % 2 ^ 16 }

/-! ### Edits (R268, R474) -/

/-- A key-value edit (R268). Sequences are named by identifier. -/
inductive KvEdit where
  | admitSeq (id ptBase cap srec : Nat)
  | fork (parent id n ptBase cap srec : Nat)
  | evict (id page : Nat)
  | retire (id : Nat)
  deriving DecidableEq, Repr

/-- The edit that 32 bytes spell (R474). -/
def parseEdit (b : List Byte) : Option KvEdit :=
  let id := fieldLE b 8 5
  let aux := fieldLE b 0x18 8
  match byteAt b 0 with
  | 0 => some (.admitSeq id (fieldLE b 0x10 8) (fieldLE b 4 4) (byteAt b 1))
  | 1 => some (.fork (aux % 2 ^ 40) id (aux / 2 ^ 40) (fieldLE b 0x10 8) (fieldLE b 4 4) (byteAt b 1))
  | 2 => some (.evict id (aux % 2 ^ 32))
  | 3 => some (.retire id)
  | _ => none

/-- Sequences that an edit names (R472). -/
def KvEdit.names : KvEdit → List Nat
  | .admitSeq id .. => [id]
  | .fork p id .. => [p, id]
  | .evict id _ => [id]
  | .retire id => [id]

/-- Whether a walk pins an edit (R270, R472). -/
def editPinned (s : State) (e : KvEdit) : Bool :=
  (liveSeqs s).any fun x => x.2.walking && e.names.contains x.2.id

/-- ADMIT and the first part of FORK: the new entry, or the code that refuses it (R268). -/
def newSeq (s : State) (id ptBase cap srec : Nat) : Except Nat (Nat × Seq) :=
  match freeEntry s with
  | none => .error eRANGE
  | some i =>
    if (findSeq s id).isSome || cap < 1 || cap > 262144 then .error eRANGE
    else .ok (i, { (seqAt s i) with
      id := id, state := 1, walking := false, len := 0, ptBase := ptBase, ptCap := cap, npages := 0
      protFirst := reg s Obj.kvProtFirst, recent := reg s Obj.kvRecent, srec := srec, append := 0, evicted := 0 })

/-- The first n entries of a page list copied, a reference more for each page that is not evicted (R268, log 35: DEDUCED). -/
def sharePages (s : State) (x y : Seq) (n : Nat) : State × Nat :=
  (List.range n).foldl (fun (acc : State × Nat) p =>
    let w := pageEntry acc.1 x p
    let t := writeLE acc.1 (y.ptBase + 4 * p) 4 w
    if entryEvicted w then (t, acc.2 + 1)
    else (putPage t (entryPage w) (pageRefs t (entryPage w) + 1) (pageScore t (entryPage w)), acc.2)) (s, 0)

/-- A logical page marked EVICTED and its reference released (R268). -/
def evictPage (s : State) (i : Nat) (x : Seq) (p : Nat) : State × List Nat :=
  let w := pageEntry s x p
  let (s, f) := releaseRef (writeLE s (x.ptBase + 4 * p) 4 (2 ^ 31)) (entryPage w)
  (bump (editSeq s i { x with evicted := x.evicted + 1 }) Obj.kvEvictions 1, f)

/-- Every reference of a sequence released and its entry FREE (R268, log 34: DESIGN CHOICE). -/
def retireSeq (s : State) (i : Nat) (x : Seq) : State × List Nat :=
  let (s, f) := (List.range x.npages).foldl (fun (acc : State × List Nat) p =>
    let w := pageEntry acc.1 x p
    if entryEvicted w then acc
    else let r := releaseRef acc.1 (entryPage w); (r.1, acc.2 ++ r.2)) (s, [])
  (editSeq s i { gen := x.gen }, f)

/-- One edit applied (R268): the new state and the pages it freed, or the code that refuses it. -/
def applyEdit (s : State) (e : KvEdit) : Except Nat (State × List Nat) :=
  match e with
  | .admitSeq id base cap srec => do
    let (i, x) ← newSeq s id base cap srec
    .ok (countSeqs (editSeq s i x), [])
  | .fork parent id n base cap srec =>
    match findSeq s parent with
    | none => .error eRANGE
    | some (_, p) => do
      let (i, x) ← newSeq s id base cap srec
      if n > p.len / 64 ∨ n > cap then .error eRANGE
      else
        let (s, ev) := sharePages s p x n
        .ok (countSeqs (editSeq s i { x with len := 64 * n, npages := n, evicted := ev }), [])
  | .evict id page =>
    match findSeq s id with
    | none => .error eRANGE
    | some (i, x) =>
      if page ≥ x.npages ∨ page < x.protFirst ∨ page + x.recent ≥ x.npages then .error eRANGE
      else if entryEvicted (pageEntry s x page) then .error eSTATE
      else .ok (evictPage s i x page)
  | .retire id =>
    match findSeq s id with
    | none => .error eRANGE
    | some (i, x) => let r := retireSeq s i x; .ok (countSeqs r.1, r.2)

/-- Several edits in order, all or none (R474). -/
def applyEdits : State → List KvEdit → List Nat → Except Nat State
  | s, [], freed => .ok (pushPages s freed)
  | s, e :: r, freed =>
    match applyEdit s e with
    | .error c => .error c
    | .ok (t, f) => applyEdits t r (freed ++ f)

/-! ### The boundary of a SERVE step (R271 to R277) -/

/-- R271 item 1: sequences that ran grow by APPEND. -/
def growSeqs (s : State) : State :=
  s.kv.ran.foldl (fun t i => let x := seqAt t i; putSeq t i { x with len := x.len + x.append, append := 0, walking := false }) s

/-- Pages referenced by a sequence, without evicted ones. -/
def seqPages (s : State) (x : Seq) : List Nat :=
  ((List.range x.npages).map (pageEntry s x)).filterMap fun w => if entryEvicted w then none else some (entryPage w)

/-- R275: the new score of a page from the planes of all dies. -/
def newScore (s : State) (p : Nat) : Nat :=
  let k := reg s Obj.kvDecayShift
  let planes := ((List.finRange 4).map fun (d : Die) => readLE s (thatchAddr d + s.kv.massPlane + 4 * p) 4).foldl (· + ·) 0
  let v := pageScore s p
  min (v - v / 2 ^ k + planes) 0xFFFFFFFF

/-- R271 item 2, R275: scores of the pages of sequences that ran, and the planes cleared. -/
def updateScores (s : State) : State :=
  let pages := (s.kv.ran.flatMap fun i => seqPages s (seqAt s i)).eraseDups
  let s := pages.foldl (fun t p => putPage t p (pageRefs t p) (newScore s p)) s
  let n := 4 * reg s Obj.kvPagesTotal
  (List.finRange 4).foldl (fun t (d : Die) => clearMem t (thatchAddr d + t.kv.massPlane) n) s

/-- Pages that a sequence needs for a number of appended tokens, beyond those it has. -/
def pagesFor (x : Seq) (n : Nat) : Nat := (x.len + n + 63) / 64 - x.npages

/-- R271 item 4: APPEND of the next step for the sequences that it runs (log 36: DESIGN CHOICE). -/
def setAppends (s : State) (plan : List (Nat × Nat)) : State :=
  plan.foldl (fun t (i, n) => let x := seqAt t i; if x.state = 0 then t else putSeq t i { x with append := n % 2 ^ 16 }) s

/-- Pages needed by the planned sequences. -/
def pagesNeeded (s : State) (plan : List (Nat × Nat)) : Nat :=
  (plan.map fun p => let x := seqAt s p.1; if x.state = 0 then 0 else pagesFor x x.append).foldl (· + ·) 0

/-- Whether a logical page is a candidate for eviction (R276). -/
def isCandidate (s : State) (x : Seq) (p : Nat) : Bool :=
  let w := pageEntry s x p
  !entryEvicted w && pageRefs s (entryPage w) == 1 && decide (x.protFirst ≤ p ∧ p + x.recent < x.npages)

/-- The candidates in the order of R276: score, entry, logical page. -/
def candidates (s : State) : List (Nat × Nat × Nat) :=
  sortBy (fun a b => decide (a.1 < b.1 ∨ (a.1 = b.1 ∧ (a.2.1 < b.2.1 ∨ (a.2.1 = b.2.1 ∧ a.2.2 ≤ b.2.2)))))
    ((liveSeqs s).flatMap fun (i, x) =>
      ((List.range x.npages).filter (isCandidate s x)).map fun p => (pageScore s (entryPage (pageEntry s x p)), i, p))

/-- Whether eviction runs (R271 item 5). -/
def evictionDue (s : State) (needed : Nat) : Bool := decide (reg s Obj.kvPagesFree < needed + reg s Obj.kvFreeLow)

/-- The hardware's list (R276): candidates until KV_PAGES_FREE reaches the pages needed plus KV_FREE_HIGH. -/
def proposeEvictions (s : State) (needed : Nat) : List (Nat × Nat) :=
  ((candidates s).take (needed + reg s Obj.kvFreeHigh - reg s Obj.kvPagesFree)).map fun c => (c.2.1, c.2.2)

/-- A list of (entry, logical page) evicted in one commit. -/
def evictAll (s : State) (l : List (Nat × Nat)) : State :=
  let r := l.foldl (fun (acc : State × List Nat) e =>
    let x := seqAt acc.1 e.1
    if isCandidate acc.1 x e.2 then let y := evictPage acc.1 e.1 x e.2; (y.1, acc.2 ++ y.2) else acc) (s, [])
  pushPages r.1 r.2

/-- Whether a list of (entry, logical page) names only candidates, none twice (R277). -/
def evictListOk (s : State) (l : List (Nat × Nat)) : Bool :=
  l.all (fun e => let x := seqAt s e.1; decide (e.1 < 8192) && x.state != 0 && decide (e.2 < x.npages) && isCandidate s x e.2)
  && decide (l.eraseDups.length = l.length)

/-- The list that a decision or a report holds (R477, R560). -/
def parseEvictList (b : List Byte) : List (Nat × Nat) :=
  (List.range (fieldLE b 0 4)).map fun i => (fieldLE b (4 + 8 * i) 2, fieldLE b (8 + 8 * i) 4)

/-- The report of an eviction pause (R560). -/
def evictReport (s : State) (needed : Nat) : List Byte :=
  let l := proposeEvictions s needed
  leBytes 4 needed ++ leBytes 4 (reg s Obj.kvPagesFree) ++ leBytes 4 l.length
    ++ l.flatMap fun e => leBytes 2 e.1 ++ leBytes 2 0 ++ leBytes 4 e.2

/-- k pages popped and appended to a sequence's list (R268, ALLOC). -/
def allocPages : Nat → State → Nat → Seq → State × Seq
  | 0, s, _, x => (s, x)
  | k + 1, s, i, x =>
    match popPage s with
    | none => (s, x)
    | some (p, t) =>
      allocPages k (putPage (writeLE t (x.ptBase + 4 * x.npages) 4 p) p 1 0) i { x with npages := x.npages + 1 }

/-- R271 item 6 for one sequence: its pages, or STALLED. -/
def allocSeq (s : State) (i : Nat) : State :=
  let x := seqAt s i
  let k := pagesFor x x.append
  if x.state = 0 then s
  else if k = 0 then (if x.state = 2 then editSeq s i { x with state := 1 } else s)
  else if reg s Obj.kvPagesFree < k ∨ x.npages + k > x.ptCap then
    bump (putSeq s i { x with state := 2, append := 0 }) Obj.kvAllocStall 1
  else
    let (s, y) := allocPages k s i x
    editSeq s i { y with state := 1 }

/-- R271 item 6, then the walks of the next step begin (R269): the planned sequences that are ACTIVE run. -/
def allocAll (s : State) (plan : List (Nat × Nat)) : State :=
  let is := sortBy (fun a b => decide (a ≤ b)) (plan.map Prod.fst)
  let s := is.foldl allocSeq s
  let run := is.filter fun i => (seqAt s i).state == 1
  let s := run.foldl (fun t i => putSeq t i { seqAt t i with walking := true }) s
  { s with kv := { s.kv with ran := run, sampled := [] } }

end Sys2Proof.Machine
end

