-- ==== Sys2Proof/Machine/Tabbakan.lean ====
section
/-!
DEFINITION. The port and the Tabbakan transport: frames, acceptance, contexts with their credit and retransmission,
heartbeats, gateways and PTP (R355 to R385, R399 to R402).
-/
namespace Sys2Proof.Machine

/-! ### Contexts (R378) -/

/-- The port network state changed. -/
def modNet (s : State) (f : NetState → NetState) : State := { s with net := f s.net }

/-- The open context of a number. -/
def ctxOf (s : State) (n : Nat) : Option Ctx := s.net.ctxs.find? fun c => c.num == n && c.isOpen

/-- One context changed. -/
def modCtx (s : State) (n : Nat) (f : Ctx → Ctx) : State :=
  modNet s fun x => { x with ctxs := x.ctxs.map fun c => if c.num = n then f c else c }

/-- Contexts in use, counted in TBK_CTX_OPEN (R378). -/
def countCtxs (s : State) : State := setReg s Obj.tbkCtxOpen (s.net.ctxs.filter Ctx.isOpen).length

/-- Whether the port's link is up (R357). -/
def portUp (s : State) : Bool := reg s Obj.linkState == 2

/-- Payload bytes of every packet of a message but the last (R367). -/
def maxPayload (s : State) : Nat := min 8192 (256 * ((reg s Obj.maxFrame - 106) / 256))

/-- Credit units of a payload (R374). -/
def unitsOf (n : Nat) : Nat := (n + 255) / 256

/-- Whether a number lies at or below a limit, both modulo 2^32 (R374). -/
def atMost (n limit : Nat) : Bool := decide ((limit + 2 ^ 32 - n % 2 ^ 32) % 2 ^ 32 < 2 ^ 31)

/-- Payload bytes in the retransmit buffer (R376). -/
def retransmitBytes (s : State) : Nat :=
  (s.net.ctxs.map fun c => (c.outstanding.map fun p => p.ext.payload.length).foldl (· + ·) 0).foldl (· + ·) 0

/-- The waiting packets of a context that credit and the retransmit buffer let go, sent in order (R374, R376). -/
def pump : Nat → State → Nat → State
  | 0, s, _ => s
  | f + 1, s, n =>
    match ctxOf s n with
    | none => s
    | some c =>
      match c.queue with
      | [] => s
      | p :: r =>
        let u := unitsOf p.ext.payload.length
        if c.opening || !atMost (c.sentUnits + u) c.peerLimit
          || decide (retransmitBytes s + p.ext.payload.length > 4194304) then s
        else
          let s := modCtx s n fun c => { c with
            queue := r, outstanding := c.outstanding ++ [p], sentUnits := (c.sentUnits + u) % 2 ^ 32
            since := if c.outstanding.isEmpty then s.clk else c.since }
          pump f (send s (.data n c.path false p)) n

/-- All that may go now. -/
def pumpAll (s : State) (n : Nat) : State :=
  match ctxOf s n with
  | none => s
  | some c => pump c.queue.length s n

/-- The packets of a message (R367, R369, R370). -/
def packets (s : State) (c : Ctx) (kind plan : Nat) (b : List Byte) : List Packet :=
  let n := maxPayload s
  ((piecesOf n b.length b).zipIdx).map fun (x, i) =>
    { psn := (c.sendPsn + i) % 2 ^ 32
      ext := { msg := c.sendMsg, offset := n * i, mlen := b.length, kind := kind, plan := plan, payload := x } }

/-- A message handed to a context (R369, R370). -/
def sendMessage (s : State) (n kind plan : Nat) (b : List Byte) : State :=
  match ctxOf s n with
  | none => s
  | some c =>
    let ps := packets s c kind plan b
    if ps.isEmpty then s
    else
      pumpAll (modCtx s n fun c => { c with
        sendPsn := (c.sendPsn + ps.length) % 2 ^ 32, sendMsg := (c.sendMsg + 1) % 2 ^ 32, queue := c.queue ++ ps }) n

/-- The acknowledgement fields of a context (R372). -/
def ackExt (s : State) (c : Ctx) (code : Nat) : AckExt :=
  { next := c.nextPsn, limit := c.limit % 2 ^ 32, code := code, repoch := reg s Obj.jobEpoch }

/-- An ACK sent (R373). -/
def sendAck (s : State) (n : Nat) : State :=
  match ctxOf s n with
  | none => s
  | some c => send (modCtx s n fun c => { c with unacked := 0, ackedLimit := c.limit }) (.ack n { ackExt s c 0 with repoch := 0 })

/-- R373: 8 packets accepted, or the limit risen by 64 units, since the last ACK. -/
def ackIfDue (s : State) (n : Nat) : State :=
  match ctxOf s n with
  | none => s
  | some c => if c.unacked ≥ 8 ∨ c.limit ≥ c.ackedLimit + 64 then sendAck s n else s

/-- Units returned to the sender when data leave the receive buffer (R374). -/
def returnUnits (s : State) (n u : Nat) : State := modCtx s n fun c => { c with limit := c.limit + u }

/-- A context closed: its incomplete messages fail, and an endpoint context frees its credit and its number (R376,
R379). -/
def closeCtx (s : State) (n : Nat) : State :=
  match ctxOf s n with
  | none => s
  | some c =>
    let s := if c.plan then
        modCtx s n fun c => { c with isOpen := false, arriving := none, held := [], queue := [], outstanding := [] }
      else modNet s fun x => { x with ctxs := x.ctxs.filter fun y => y.num != n, pool := x.pool + c.credit }
    countCtxs s

/-! ### Acceptance (R368) -/

/-- The address in network byte order at the head of an entry (R384, R387). -/
def entryAddr (b : List Byte) : Nat := fieldBE b 0 16

/-- Whether the source is a VALID entry whose address, and for an endpoint whose port, is the packet's (R368). -/
def sourceKnown (s : State) (h : TbkHdr) : Bool :=
  match h.src with
  | .rank n =>
    let b := regBytes s (Obj.rankMap + 2 * n + h.path)
    decide (n < reg s Obj.jobModules) && bitOf (byteAt b 0x18) 0 && entryAddr b == h.ipSrc
  | .endpoint e =>
    let b := regBytes s (Obj.endpoint + e)
    decide (e < 1024) && bitOf (byteAt b 0x13) 0 && entryAddr b == h.ipSrc && fieldLE b 0x10 2 == h.udpSrc

/-- The types that each kind of source may send (R368). -/
def TbkType.from : TbkType → Peer → Bool
  | .heartbeat, .rank _ => true
  | .heartbeat, _ => false
  | .stretch, .rank _ => true
  | .stretch, _ => false
  | .open, .endpoint _ => true
  | .open, _ => false
  | _, _ => true

/-- Whether a type is checked against EPOCH, from a rank (R368). -/
def TbkType.epochChecked : TbkType → Bool
  | .heartbeat => false
  | .stretch => false
  | _ => true

/-- Whether a type names a context of the receiver (R368). -/
def TbkType.ctxChecked : TbkType → Bool
  | .data => true
  | .ack => true
  | .nak => true
  | .openAck => true
  | .close => true
  | _ => false

/-- Whether the sender is a rank. -/
def Peer.isRank : Peer → Bool
  | .rank _ => true
  | .endpoint _ => false

/-- The number that WHO gives of a source (R479). -/
def Peer.num : Peer → Nat
  | .rank n => n
  | .endpoint e => e

/-- A drop counted (R402). -/
def drop (s : State) (k : Nat) : State := bump s (Obj.tbkDrop + k) 1

/-- The answer to an unknown source (R368): a NAK while fewer than 1,000 went out in the running second. -/
def answerUnknown (s : State) (h : TbkHdr) : State :=
  let s := if elapsed s s.net.authAt 1000000000 then modNet s fun x => { x with authAt := s.clk, authSent := 0 } else s
  if s.net.authSent ≥ 1000 then bump s Obj.tbkAuthSuppr 1
  else send (modNet s fun x => { x with authSent := x.authSent + 1 })
    (.nakTo h.ipSrc { next := 0, limit := 0, code := eAUTH, repoch := reg s Obj.jobEpoch })

/-- The checks of R368 up to the context, in their order. The error is the state after the drop and its response. -/
def tbkCheck (s : State) (t : TbkType) (h : TbkHdr) (kindOk : Bool) : Except State Unit :=
  if h.ver != 1 || !h.lenOk || !t.from h.src || !kindOk then .error (drop s 0)
  else if !h.icrcOk then .error (drop s 5)
  else if h.job != reg s Obj.jobTag % 2 ^ 16 then .error (drop s 1)
  else if !sourceKnown s h then
    .error (answerUnknown (violation (drop s 3) 3 h.src.num 2 (h.ipSrc % 2 ^ 64) eAUTH []) h)
  else if t.epochChecked && h.src.isRank && h.epoch != reg s Obj.jobEpoch then
    .error (match t, ctxOf s h.dstCtx with
      | .data, some c => send (drop s 2) (.nak c.num (ackExt s c eSTATE))
      | .data, none => send (drop s 2) (.nakTo h.ipSrc { next := 0, limit := 0, code := eSTATE, repoch := reg s Obj.jobEpoch })
      | _, _ => drop s 2)
  else if t.ctxChecked && !((ctxOf s h.dstCtx).any fun c => c.peer == h.src) then
    .error (send (drop s 4) (.nakTo h.ipSrc { next := 0, limit := 0, code := eRANGE, repoch := reg s Obj.jobEpoch }))
  else .ok ()

/-- A packet that passes the checks has its effect; one that fails has what the failed check gives. -/
def accepted (s : State) (t : TbkType) (h : TbkHdr) (kindOk : Bool) (f : State → State) : State :=
  if !portUp s then s
  else match tbkCheck s t h kindOk with
    | .error e => e
    | .ok () => f s

/-! ### Frames (R357 to R364) -/

/-- Whether a UDP destination port is served (R361). -/
def servedPort (s : State) (p : Nat) : Bool :=
  p == reg s Obj.tbkUdpPort || p == 319 || p == 320 || p == reg s Obj.dunrelUdpPort

/-- FRAME_RX (R357 to R361, R364): the checks of a frame in their order. A frame that passes them is handed on; what its
datagram does is a command of its own. -/
def execFrameRx (f : Frame) (s : State) : Host.Outcome State Fault Refusal :=
  .next <|
    if !portUp s then s
    else
      let s := bump s Obj.fecCorr f.corrected
      if f.fecBad then bump s Obj.fecUncorr 1
      else if f.fcsBad then bump s Obj.fcsErr 1
      else if f.len > reg s Obj.maxFrame then drop s 11
      else if f.pauseFrame then drop s 12
      else if f.unsupported then drop s 10
      else match f.port with
        | none => s
        | some p =>
          if !servedPort s p then
            let s := drop s 13
            if (s.net.unreachAt.map fun t => elapsed s t 1000000000).getD true then
              send (modNet s fun x => { x with unreachAt := some s.clk }) (.unreachable p)
            else s
          else if f.full then drop s 9
          else s

/-! ### Collectives' data and fetched data as they arrive -/

/-- Address of an entry of the fetch table for a step (R392). -/
def fetchEntry (s : State) (step i : Nat) : Nat :=
  s.net.fetchBase + 32 * (step % max 1 s.net.fetchSteps * s.net.shards + i)

/-- The shard under way that a request number names. -/
def fetchOf (s : State) (req : Nat) : Option Fetch := s.net.fetches.find? fun f => f.reqId == req && !f.done

/-- Fetched data written to DEST as they arrive (R393): `got` is the message so far, `o` where the new bytes begin. -/
def writeFetched (s : State) (got : List Byte) (o : Nat) : State :=
  if got.length < 24 then s
  else match fetchOf s (fieldBE got 0 4) with
    | none => s
    | some f =>
      let a := fetchEntry s s.net.fetchFor f.entry
      let len := readLE s (a + 0x10) 4
      let dest := readLE s (a + 0x18) 8
      let lo := max o 24
      let data := (got.drop lo).take (24 + len - lo)
      writeBytes s (dest + (lo - 24)) data

/-- The message of a context with one more payload. -/
def joined (c : Ctx) (e : DataExt) : DataExt :=
  match c.arriving with
  | some m => { m with payload := m.payload ++ e.payload }
  | none => e

/-- A whole message takes its place among those that wait to be served (R370); one completed after the admission phase has closed is
of the step after the next (R397). Recovery control of an unknown operation
is dropped (R452), an unknown serving operation is answered with E_RANGE (R396). -/
def deliverMessage (s : State) (c : Ctx) (e : DataExt) : State :=
  let m : InMsg := { ctx := c.num, src := c.peer, kind := e.kind, bytes := e.payload, serial := s.net.messages
                     forStep := s.job.step + (if s.net.admitClosed then 2 else 1) }
  let s := modNet s fun x => { x with inbox := x.inbox ++ [m], messages := x.messages + 1 }
  let undo := modNet s fun x => { x with inbox := x.inbox.dropLast }
  match e.kind with
  | 2 => undo
  | 5 => undo
  | 6 => if byteAt e.payload 0 > 10 then drop undo 0 else s
  | 4 =>
    if byteAt e.payload 0 > 2 then
      modNet undo fun x => { x with refusals := x.refusals ++
        [(c.num, beBytes 8 (fieldBE e.payload 8 8 % 2 ^ 40 + eRANGE * 2 ^ 40) ++ beBytes 8 0)] }
    else s
  | _ => s

/-- An accepted payload written (R370): collective payload stays in the receive buffer (R371); any other leaves it at once,
and the message is delivered when it is whole. -/
def takePayload (s : State) (c : Ctx) (e : DataExt) : State :=
  if e.kind = 0 then modCtx s c.num fun c => { c with held := c.held ++ [e] }
  else
    let m := joined c e
    let s := returnUnits s c.num (unitsOf e.payload.length)
    let s := if e.kind = 3 then writeFetched s m.payload e.offset else s
    if m.payload.length ≥ e.mlen then deliverMessage (modCtx s c.num fun c => { c with arriving := none }) c m
    else modCtx s c.num fun c => { c with arriving := some m }

/-- A DATA packet after the checks of the context (R368): duplicates are acknowledged, a gap is reported once in TBK_RTO,
a packet beyond the credit is dropped. The Boolean says whether it was accepted. -/
def takeData (s : State) (h : TbkHdr) (e : DataExt) : State × Bool :=
  match ctxOf s h.dstCtx with
  | none => (s, false)
  | some c =>
    if h.psn ≠ c.nextPsn then
      if atMost h.psn c.nextPsn then (sendAck (drop s 7) c.num, false)
      else
        let s := drop s 6
        let due := (c.nakAt.map fun t => elapsed s t (reg s Obj.tbkRto)).getD true
        (if due then send (modCtx s c.num fun c => { c with nakAt := some s.clk }) (.nak c.num (ackExt s c 0)) else s, false)
    else if c.recvUnits + unitsOf e.payload.length > c.limit then (drop s 8, false)
    else
      let s := modCtx s c.num fun c => { c with
        nextPsn := (c.nextPsn + 1) % 2 ^ 32, recvUnits := c.recvUnits + unitsOf e.payload.length
        unackedAt := if c.unacked = 0 then s.clk else c.unackedAt, unacked := c.unacked + 1 }
      (takePayload s c e, true)

/-- KIND, OFFSET and lengths of a DATA extension (R368, R369). -/
def DataExt.ok (e : DataExt) : Bool :=
  decide (e.kind ≤ 6 ∧ 1 ≤ e.payload.length ∧ e.payload.length ≤ 8192 ∧ 1 ≤ e.mlen ∧ e.mlen < 2 ^ 32
    ∧ e.offset + e.payload.length ≤ e.mlen)

/-! ### Acknowledgements and retransmission (R372 to R377) -/

/-- Packets of a context sent again, counted (R376). -/
def resend (s : State) (n : Nat) : State :=
  match ctxOf s n with
  | none => s
  | some c =>
    let s := c.outstanding.foldl (fun t p => send t (.data n c.path true p)) s
    bump s Obj.tbkRetx c.outstanding.length

/-- A context moved to the other path (R376). -/
def movePath (s : State) (n : Nat) : State :=
  bump (modCtx s n fun c => { c with path := 1 - c.path, timeouts := 0 }) Obj.tbkPathSwitch 1

/-- NEXT_PSN and the credit limit of an acknowledgement registered (R372, R374). -/
def takeAck (s : State) (n : Nat) (e : AckExt) : State :=
  match ctxOf s n with
  | none => s
  | some c =>
    let k := match c.outstanding with
      | [] => 0
      | p :: _ => (e.next + 2 ^ 32 - p.psn) % 2 ^ 32
    let k := if k ≤ c.outstanding.length then k else 0
    let s := modCtx s n fun c => { c with
      outstanding := c.outstanding.drop k, peerLimit := e.limit
      timeouts := if k = 0 then c.timeouts else 0, since := if k = 0 then c.since else s.clk }
    pumpAll s n

/-! ### Heartbeats (R380, R381, R12) -/

/-- The watchers of the module (R380); none in a job of one module (R561). -/
def watchers (s : State) : List Nat :=
  let n := reg s Obj.jobModules
  let r := ownRank s
  if n < 2 then []
  else (([r + 2 * n - 2, r + 2 * n - 1, r + 1, r + 2].map (· % n)).filter (· != r)).eraseDups

/-- A HEARTBEAT sent to every watcher on both paths (R380, R12). -/
def sendHeartbeat (s : State) : State :=
  let w := watchers s
  if w.isEmpty then s
  else
    send (modNet s fun x => { x with hbSeq := (x.hbSeq + 1) % 2 ^ 32, hbAt := s.clk })
      (.heartbeat w { time := ptpNow s, step := s.job.step - 1, state := s.dev.code, mode := s.mode.code, seq := s.net.hbSeq })

/-- A bit of STATUS of a rank-map entry set or cleared (R384). -/
def putStatus (s : State) (rank path bit : Nat) (v : Bool) : State :=
  let k := Obj.rankMap + 2 * rank + path
  let b := reg s k
  let m := 2 ^ (200 + bit)
  setReg s k (if v then (if bitOf (b / 2 ^ 200) bit then b else b + m) else (if bitOf (b / 2 ^ 200) bit then b - m else b))

/-- PATH_DOWN of an entry (R384). -/
def pathDown (s : State) (rank path : Nat) : Bool := bitOf (rankEntry s rank path / 2 ^ 200 % 256) 0

/-- A path of a peer marked down, and the contexts that use it moved (R376, R381). -/
def markPathDown (s : State) (rank path : Nat) : State :=
  let s := putStatus s rank path 0 true
  ((s.net.ctxs.filter fun c => c.isOpen && c.peer == .rank rank && c.path == path).map Ctx.num).foldl movePath s

/-- The open contexts of a path moved to the other one, whoever their peers (R360, R376). -/
def leavePath (s : State) (path : Nat) : State :=
  ((s.net.ctxs.filter fun c => c.isOpen && c.path == path).map Ctx.num).foldl movePath s

/-- The index of a rank among r − 2, r − 1, r + 1, r + 2 (HB_LAST). -/
def watchIndex (s : State) (rank : Nat) : Option Nat :=
  let n := max 1 (reg s Obj.jobModules)
  let r := ownRank s
  [r + 2 * n - 2, r + 2 * n - 1, r + 1, r + 2].findIdx? fun x => x % n == rank

/-- Both fields of a watch, or one of them. -/
def Watch.on (w : Watch) (path : Nat) : Nat := if path = 0 then w.last.1 else w.last.2

/-- One watch changed. -/
def modWatch (s : State) (rank : Nat) (f : Watch → Watch) : State :=
  modNet s fun x => { x with watches := x.watches.map fun w => if w.rank = rank then f w else w }

/-- Whether the module watches other ranks (R12): it is in a job, RUNNING or RECOVERING; a module in READY watches none. -/
def watching (s : State) : Bool := inJob s && (s.dev == .running || s.dev == .recovering)

/-- A heartbeat accepted (R380, R381, R12): the rank is watched from its first heartbeat on (log 44: DEDUCED), its path is not down,
and a heartbeat with MODE IDLE ends the watch. -/
def takeHeartbeat (s : State) (rank path : Nat) (e : HeartbeatExt) : State :=
  let s := match watchIndex s rank with
    | some i => setReg s (Obj.hbLast + i) (ptpNow s)
    | none => s
  if e.mode = 0 ∨ !watching s then modNet s fun x => { x with watches := x.watches.filter fun w => w.rank != rank }
  else
    let s := if s.net.watches.any fun w => w.rank == rank then s
      else if (watchIndex s rank).isNone || rank == ownRank s then s
      else modNet s fun x => { x with watches := { rank := rank, last := (s.clk, s.clk) } :: x.watches }
    let s := modWatch s rank fun w => { w with last := if path = 0 then (s.clk, w.last.2) else (w.last.1, s.clk) }
    putStatus s rank path 0 false

/-! ### Changes of the epoch (R385) -/

/-- A plan context as the image installed it (R385). -/
def Ctx.restart (c : Ctx) : Ctx :=
  if c.plan then
    { num := c.num, peer := c.peer, credit := c.credit, peerCredit := c.peerCredit, path := c.path, peerCtx := c.peerCtx
      limit := c.credit, ackedLimit := c.credit, peerLimit := c.peerCredit }
  else c

/-- Whether a message is a DATA packet of a plan context (R385). -/
def OutMsg.isPlanData (s : State) : OutMsg → Bool
  | .data n _ _ _ => s.net.ctxs.any fun c => c.num == n && c.plan
  | _ => false

/-- JOB_EPOCH changes (R385): plan contexts restart, their DATA packets of the old epoch are discarded, and LOST and PATH_DOWN are
cleared. -/
def newEpoch (s : State) (e : Nat) : State :=
  let s := setReg s Obj.jobEpoch (e % 2 ^ 16)
  let s := modNet s fun x => { x with ctxs := x.ctxs.map Ctx.restart, colls := [] }
  let s := { s with egress := { s.egress with waiting := s.egress.waiting.filter fun f => !f.msg.isPlanData s } }
  let keys := (s.regs.map Prod.fst).filter fun k => decide (Obj.rankMap ≤ k ∧ k < Obj.rankMap + 65536)
  countCtxs (keys.foldl (fun t k => let i := k - Obj.rankMap
    putStatus (putStatus t (i / 2) (i % 2) 0 false) (i / 2) (i % 2) 1 false) s)

/-! ### Commands of the transport -/

/-- ACK_TIMER (R373): 0.5 µs after the first unacknowledged DATA packet an ACK is sent. -/
def execAckTimer (n : Nat) (s : State) : Host.Outcome State Fault Refusal :=
  match ctxOf s n with
  | none => .next s
  | some c => .next (if decide (c.unacked > 0) && elapsed s c.unackedAt 500 then sendAck s n else s)

/-- An OPEN of the module's own sent (R379). -/
def sendOpen (s : State) (c : Ctx) : State :=
  send s (.openCtx c.peer { ctx := c.num, kind := c.kind, psn := c.initPsn, limit := c.limit, nonce := c.nonce })

/-- TBK_RTO_EXPIRY (R376, R379): NEXT_PSN of a context did not advance within TBK_RTO, or an OPEN was not answered. `late`
says that the awaited packet is registered in the same cycle (R314). -/
def execTbkRtoExpiry (n : Nat) (late : Bool) (s : State) : Host.Outcome State Fault Refusal :=
  match ctxOf s n with
  | none => .next s
  | some c =>
    if !(c.opening || !c.outstanding.isEmpty) || !elapsed s c.since (reg s Obj.tbkRto) then .next s
    else if late then .next (lateAccept s 5)
    else if c.opening then
      if c.opens ≥ 9 then .next (closeCtx s n)
      else .next (sendOpen (modCtx s n fun c => { c with opens := c.opens + 1, since := s.clk }) c)
    else
      let s := modCtx s n fun c => { c with timeouts := c.timeouts + 1, since := s.clk }
      .next (resend (if c.timeouts + 1 ≥ 3 then movePath s n else s) n)

/-- The lowest free context number (R378). -/
def freeCtx (s : State) : Option Nat :=
  (List.range 16384).find? fun n => !(s.net.ctxs.any fun c => c.num == n)

/-- An endpoint context created (R375, R378). -/
def addCtx (s : State) (c : Ctx) : State :=
  countCtxs (modNet s fun x => { x with ctxs := x.ctxs ++ [c], pool := x.pool - c.credit })

/-- OPEN (R378, R379): an endpoint opens a context of a kind that its KINDS allows, or is answered with a code. An OPEN
that is repeated finds its context (log 45: DEDUCED). The INIT_PSN of the new context is a free value (log 14: DESIGN CHOICE). -/
def execOpen (h : TbkHdr) (e : OpenExt) (s : State) : Host.Outcome State Fault Refusal :=
  .next (accepted s .open h true fun s =>
    let ep := h.src.num
    let kinds := byteAt (regBytes s (Obj.endpoint + ep)) 0x12
    let allowed := (e.kind == 2 && bitOf kinds 0) || (e.kind == 4 && bitOf kinds 1)
    let answer := fun (s : State) (x : OpenExt) => send s (.openAck h.src { x with kind := e.kind, nonce := e.nonce })
    let again := s.net.ctxs.find? fun c => c.peer == h.src && c.peerCtx == e.ctx && c.nonce == e.nonce && c.kind == e.kind
    match again with
    | some c => answer s { ctx := c.num, kind := e.kind, psn := c.initPsn, limit := c.credit }
    | none =>
      if !allowed then answer s { ctx := 0, kind := e.kind, code := eACCESS }
      else
        let g := reg s Obj.endpointGrant
        match freeCtx s with
        | none => answer s { ctx := 0, kind := e.kind, code := eRANGE }
        | some n =>
          if s.net.pool < g then answer s { ctx := 0, kind := e.kind, code := eRANGE }
          else
            let (psn, s) := takeFree s
            answer (addCtx s { num := n, plan := false, peer := h.src, kind := e.kind, credit := g, path := h.path
                               peerCtx := e.ctx, nonce := e.nonce, nextPsn := e.psn, limit := g, ackedLimit := g
                               peerLimit := e.limit, sendPsn := psn.toNat, initPsn := psn.toNat })
              { ctx := n, kind := e.kind, psn := psn.toNat, limit := g })

/-- OPEN_ACK (R378, R379): the opening of a fetch context ends, with the peer's context and limit, or with its code. -/
def execOpenAck (h : TbkHdr) (e : OpenExt) (s : State) : Host.Outcome State Fault Refusal :=
  .next (accepted s .openAck h true fun s =>
    match ctxOf s h.dstCtx with
    | none => s
    | some c =>
      if !c.opening || c.nonce != e.nonce then s
      else if e.code ≠ 0 then closeCtx s c.num
      else pumpAll (modCtx s c.num fun c => { c with
          opening := false, peerCtx := e.ctx, nextPsn := e.psn, peerLimit := e.limit }) c.num)

/-- TBK_CLOSE (R379): every incomplete message of the context fails and its credit is freed. -/
def execTbkClose (h : TbkHdr) (_e : OpenExt) (s : State) : Host.Outcome State Fault Refusal :=
  .next (accepted s .close h true fun s => closeCtx s h.dstCtx)

/-- HEARTBEAT (R380, R381): an accepted heartbeat of a watched rank. -/
def execHeartbeat (h : TbkHdr) (e : HeartbeatExt) (s : State) : Host.Outcome State Fault Refusal :=
  .next (accepted s .heartbeat h true fun s => takeHeartbeat s h.src.num h.path e)

/-- STRETCH (R382, R383, R419): an accepted stretch request. -/
def execStretch (h : TbkHdr) (m : StretchMsg) (s : State) : Host.Outcome State Fault Refusal :=
  .next (accepted s .stretch h true (takeStretch m))

/-- HEARTBEAT_TIMER (R380): 200 µs after the last heartbeat, the next is sent while the module is in a job. -/
def execHeartbeatTimer (s : State) : Host.Outcome State Fault Refusal :=
  .next (if inJob s && portUp s && elapsed s s.net.hbAt 200000 then sendHeartbeat s else s)

/-- HEARTBEAT_LOSS (R12, R314, R381, R427 code 0x0F): no heartbeat from a rank for 600 µs, on both paths or on one. `late` says that
one registers in the same clock: it is accepted, and the rank's paths stay as they are. -/
def execHeartbeatLoss (rank : Nat) (late : Bool) (s : State) : Host.Outcome State Fault Refusal :=
  match s.net.watches.find? fun w => w.rank == rank with
  | none => .next s
  | some w =>
    let out := fun p => elapsed s (w.on p) 600000
    let due := fun p => out p && !pathDown s rank p
    if !watching s then .next s
    else if late then .next (if (out 0 && out 1) || due 0 || due 1 then lateAccept s 4 else s)
    else if out 0 && out 1 then
      let s := modNet s fun x => { x with watches := x.watches.filter fun y => y.rank != rank }
      let s := bump (putStatus (putStatus s rank 0 1 true) rank 1 1 true) Obj.hbLost 1
      .next (reportFault s 0x0F 1 0 eTIMEOUT 0xFF rank)
    else
      let one := fun (s : State) p => if out p && !pathDown s rank p then markPathDown s rank p else s
      .next (one (one s 0) 1)

/-- LINK_LOSS (R357): the link is lost; contexts keep their state and a link restart begins, which takes PORT_MODE
(R355). -/
def execLinkLoss (s : State) : Host.Outcome State Fault Refusal :=
  .next (if !portUp s then s
    else modNet (setReg s Obj.linkState 1) fun x => { x with portMode := reg s Obj.portMode })

/-- Every configured gateway asked for (R360). -/
def resolveGateways (s : State) : State :=
  let gs := [reg s Obj.pathGateway, reg s (Obj.pathGateway + 1)].filter (· != 0)
  gs.foldl (fun t g => send t (.resolve g)) (modNet s fun x => { x with gatewayAt := s.clk })

/-- LINK_UP (R357, R360): the link comes up and the gateways are resolved. -/
def execLinkUp (s : State) : Host.Outcome State Fault Refusal :=
  .next (if reg s Obj.linkState = 1 then resolveGateways (setReg s Obj.linkState 2) else s)

/-- GATEWAY_RESOLVE (R360): 30 s after the last time, the gateways are resolved again; a gateway that fails for 3 s marks
its path, one of `failed`, down for every peer, ranks and endpoints. -/
def execGatewayResolve (failed : List (Fin 2)) (s : State) : Host.Outcome State Fault Refusal :=
  if !portUp s || !elapsed s s.net.gatewayAt 30000000000 then .next s
  else
    let s := resolveGateways s
    let down := failed.filter fun p => reg s (Obj.pathGateway + p.val) != 0
    .next (down.foldl (fun t p => leavePath ((List.range (reg t Obj.jobModules)).foldl (fun u r => markPathDown u r p.val) t) p.val) s)

/-- NEIGHBOUR_RESOLUTION (R360): a solicitation or ARP request for an address of the module's own is answered. -/
def execNeighbourResolution (p : Fin 2) (requester target : Nat) (s : State) : Host.Outcome State Fault Refusal :=
  .next (if portUp s && reg s (Obj.pathAddr + p.val) != 0 && reg s (Obj.pathAddr + p.val) == target then
    send s (.neighbour requester target) else s)

/-- ICMP_ECHO (R362): an echo request of at most 1,024 payload bytes is answered, at most 1,000 times a second. -/
def execIcmpEcho (src : Nat) (payload : List Byte) (s : State) : Host.Outcome State Fault Refusal :=
  if !portUp s || decide (payload.length > 1024) then .next s
  else
    let s := if elapsed s s.net.icmpAt 1000000000 then modNet s fun x => { x with icmpAt := s.clk, icmpSent := 0 } else s
    .next (if s.net.icmpSent ≥ 1000 then s
      else send (modNet s fun x => { x with icmpSent := x.icmpSent + 1 }) (.echoReply src payload))

/-! ### PTP (R399, R400) -/

/-- A signed number as the bits of an I32. -/
def i32Bits (x : Int) : Nat := (x % 2 ^ 32).toNat

/-- PTP_STATE becomes UNLOCKED and PTP_UNLOCKED is raised (R400). -/
def ptpUnlock (s : State) : State := raiseEvent (setReg s Obj.ptpState 4) 9 (beBytes 4 (reg s Obj.ptpOffset))

/-- A Sync interval measured (R400): the module's time is corrected by the offset (log 46: DESIGN CHOICE). -/
def takeSync (s : State) (offset : Int) : State :=
  let st := reg s Obj.ptpState
  let s := setReg s Obj.ptpOffset (i32Bits offset)
  let good := if offset.natAbs < 1000 then s.net.syncGood + 1 else 0
  let s := modNet s fun x => { x with syncGood := good, ptpBase := x.ptpBase - offset }
  if offset.natAbs > 2000 ∧ (st = 2 ∨ st = 3) then ptpUnlock s
  else if good ≥ 16 then setReg s Obj.ptpState 2
  else s

/-- Whether an Announce makes its sender the selected master, or leaves it so (R399): the data set is better than the selected
one's (log 139: PRESUMED). -/
def masterTaken (s : State) (src data : Nat) : Bool :=
  match s.net.ptpBest with
  | none => true
  | some (m, b) => m == src || decide (data < b)

/-- PTP_MESSAGE (R399, R400): from one of the configured masters, in the domain configured. An Announce takes part in the selection of
the master; a Sync of the selected one is measured, and answered with a Delay_Req. -/
def execPtpMessage (src domain : Nat) (k : PtpKind) (s : State) : Host.Outcome State Fault Refusal :=
  let known := (List.range 4).any fun i => reg s (Obj.ptpMaster + i) != 0 && reg s (Obj.ptpMaster + i) == src
  if !portUp s || !known || domain != reg s Obj.ptpDomain then .next s
  else match k with
    | .announce d =>
      if !masterTaken s src d then .next s
      else
        let s := modNet s fun x => { x with announceAt := s.clk, ptpBest := some (src, d) }
        .next (if reg s Obj.ptpState = 0 then setReg s Obj.ptpState 1 else s)
    | .sync o => .next (if s.net.ptpBest.map Prod.fst = some src then takeSync (send s (.delayReq src)) o else s)

/-- PTP_ANNOUNCE_TIMEOUT (R400): 3 announce intervals pass with no Announce of the selected master. HOLDOVER is not entered again before an Announce
has come since (log 46: DESIGN CHOICE). -/
def execPtpAnnounceTimeout (s : State) : Host.Outcome State Fault Refusal :=
  let st := reg s Obj.ptpState
  .next (if st = 1 ∨ st = 2 ∨ (st = 4 ∧ s.net.holdoverAt < s.net.announceAt) then
    modNet (setReg s Obj.ptpState 3) fun x => { x with holdoverAt := s.clk, syncGood := 0, ptpBest := none } else s)

/-- PTP_HOLDOVER_EXPIRY (R400): 10 s in HOLDOVER. -/
def execPtpHoldoverExpiry (s : State) : Host.Outcome State Fault Refusal :=
  .next (if reg s Obj.ptpState = 3 ∧ elapsed s s.net.holdoverAt 10000000000 then ptpUnlock s else s)

end Sys2Proof.Machine
end

