-- ==== Sys2Proof/Machine/Flashing.lean ====
section
/-!
DEFINITION. Collectives (R388 to R391) and the commands that bring their data: DATA, ACK and NAK packets (R368 to R376).
-/
namespace Sys2Proof.Machine

/-- An entry of the collective plan (R388). -/
structure PlanEntry where
  kind : Nat
  group : Nat
  self : Nat
  peer : Nat
  count : Nat
  ctx : Nat
  chunk : Nat
  deriving DecidableEq, Repr

/-- The plan entry that 32 bytes spell (R388). -/
def parsePlan (b : List Byte) : PlanEntry :=
  { kind := byteAt b 0, group := fieldLE b 2 2, self := fieldLE b 4 2, peer := fieldLE b 6 2, count := fieldLE b 8 8
    ctx := fieldLE b 0x10 2, chunk := fieldLE b 0x14 4 }

/-- Entry i of the collective plan. -/
def planAt (s : State) (i : Nat) : PlanEntry := parsePlan (readBytes s (s.net.planBase + 32 * i) 32)

/-! ### Reductions (R390) -/

/-- Elementwise W32 sums of two byte strings. -/
def addW32s (a b : List Byte) : List Byte :=
  (List.range (a.length / 4)).flatMap fun i => leBytes 4 (w32Add (w32At a (4 * i)) (w32At b (4 * i))).toNat

/-- T of R390 over the contributions of consecutive members. -/
def treeAdd : Nat → List (List Byte) → List Byte
  | 0, l => l.headD []
  | f + 1, l =>
    if l.length ≤ 1 then l.headD []
    else
      let m := 2 ^ (l.length - 1).log2
      addW32s (treeAdd f (l.take m)) (treeAdd f (l.drop m))

/-! ### Routes (R390, log 47: DEDUCED) -/

/-- The chunks of P members whose index agrees with q in the low n bits. -/
def alike (p n q : Nat) : List Nat := (List.range p).filter fun i => decide (i % 2 ^ n = q % 2 ^ n)

/-- Total bytes of some chunks. -/
def bytesOf (chunks : List (List Byte)) (is : List Nat) : Nat := (is.map fun i => (chunks.getD i []).length).foldl (· + ·) 0

/-- Recursive halving at member distances 1, 2, 4 and so on (R390). -/
def halving (e : PlanEntry) (p : Nat) (chunks : List (List Byte)) : List CollStep :=
  (List.range p.log2).map fun j =>
    let recv := alike p (j + 1) e.self
    { ctx := e.ctx + j, send := alike p (j + 1) (e.self ^^^ 2 ^ j), recv := recv, bytes := bytesOf chunks recv, op := .add }

/-- The exchanges back, which gather every chunk. -/
def doubling (e : PlanEntry) (p : Nat) (chunks : List (List Byte)) : List CollStep :=
  ((List.range p.log2).reverse).map fun j =>
    let recv := alike p (j + 1) (e.self ^^^ 2 ^ j)
    { ctx := e.ctx + j, send := alike p (j + 1) e.self, recv := recv, bytes := bytesOf chunks recv, op := .put }

/-- The other members in ascending order, each with its context: that of the partner in the order visited (R388). -/
def partners (e : PlanEntry) (p : Nat) : List (Nat × Nat) :=
  (((List.range p).filter (· != e.self)).zipIdx).map fun (m, i) => (m, e.ctx + i)

/-- The exchanges of a plan entry on a member (R389, R390): recursive for a group of a power of two, direct for another. -/
def routeOf (e : PlanEntry) (p : Nat) (chunks : List (List Byte)) : List CollStep :=
  let pow := 2 ^ p.log2 == p
  let whole := List.range chunks.length
  let all := bytesOf chunks whole
  let others := partners e p
  match e.kind with
  | 0 => if pow then halving e p chunks
    else others.map fun (m, c) => { ctx := c, send := [m], recv := [e.self], bytes := bytesOf chunks [e.self], op := .keep m }
  | 1 => if pow then ((doubling e p chunks).zipIdx).map fun (x, i) => { x with ctx := e.ctx + i }
    else others.map fun (m, c) => { ctx := c, send := [e.self], recv := [m], bytes := bytesOf chunks [m], op := .put }
  | 2 => if pow then halving e p chunks ++ doubling e p chunks
    else others.map fun (m, c) => { ctx := c, send := whole, recv := whole, bytes := all, op := .keep m }
  | 3 => if e.self = e.peer then others.map fun (_, c) => { ctx := c, send := whole, op := .await }
    else [{ ctx := e.ctx, recv := whole, bytes := all }]
  | 4 => [{ ctx := e.ctx, send := whole, op := .await }]
  | 5 => [{ ctx := e.ctx, recv := whole, bytes := all }]
  | 6 => if pow then (List.range p.log2).map fun j => { ctx := e.ctx + j, send := [0], bytes := 1, op := .await }
    else others.map fun (_, c) => { ctx := c, send := [0], bytes := 1, op := .await }
  | _ => if pow then (List.range p.log2).map fun j => { ctx := e.ctx + j, send := [0], recv := [0], bytes := 88, op := .norm }
    else others.map fun (_, c) => { ctx := c, send := [0], recv := [0], bytes := 88, op := .norm }

/-- A byte string cut or filled with zeros to n bytes. -/
def padTo (n : Nat) (b : List Byte) : List Byte := (b ++ List.replicate n 0#8).take n

/-- n bytes of a source in p chunks of `size`, the last ones shorter or empty. -/
def cutChunks (n size p : Nat) (src : List Byte) : List (List Byte) :=
  (List.range p).map fun i => padTo (min size (n - i * size)) (src.drop (i * size))

/-- The chunks that a member begins with. -/
def chunksOf (e : PlanEntry) (p : Nat) (src : List Byte) : List (List Byte) :=
  match e.kind with
  | 0 => cutChunks (4 * e.count) (4 * (e.count / p)) p src
  | 1 => (List.range p).map fun i => padTo (e.count / p) (if i = e.self then src else [])
  | 2 => cutChunks (4 * e.count) (4 * ((e.count + p - 1) / p)) p src
  | 3 => [padTo e.count src]
  | 4 => [padTo e.count src]
  | 5 => [padTo e.count []]
  | 6 => [[0#8]]
  | _ => [padTo 88 src]

/-! ### The run of a collective -/

/-- Chunks sent over a context in messages of CHUNK bytes (R388). -/
def sendChunks (s : State) (r : CollRun) (st : CollStep) : State :=
  let b := (st.send.map fun i => r.chunks.getD i []).flatten
  let n := if r.msgBytes = 0 then max 1 b.length else r.msgBytes
  (piecesOf n b.length b).foldl (fun t x => sendMessage t st.ctx 0 r.plan x) s

/-- Payload of the plan entry taken from the receive buffer, as far as the exchange needs it (R371, R374). -/
def drawHeld : Nat → State → Nat → Nat → Nat → List Byte → State × List Byte
  | 0, s, _, _, _, got => (s, got)
  | f + 1, s, n, plan, need, got =>
    if got.length ≥ need then (s, got)
    else match ctxOf s n with
      | none => (s, got)
      | some c =>
        match c.held with
        | [] => (s, got)
        | e :: h =>
          if e.plan ≠ plan then (s, got)
          else drawHeld f (ackIfDue (returnUnits (modCtx s n fun c => { c with held := h }) n (unitsOf e.payload.length)) n)
            n plan need (got ++ e.payload)

/-- Received bytes laid into chunks. -/
def layChunks (f : List Byte → List Byte → List Byte) : List Nat → List (List Byte) → List Byte → List (List Byte)
  | [], c, _ => c
  | i :: r, c, b =>
    let n := (c.getD i []).length
    layChunks f r (c.set i (f (c.getD i []) (b.take n))) (b.drop n)

/-- What an exchange does once its bytes are here (R390, R187). -/
def applyStep (r : CollRun) (st : CollStep) : CollRun :=
  match st.op with
  | .add => { r with chunks := layChunks addW32s st.recv r.chunks r.got }
  | .put => { r with chunks := layChunks (fun _ b => b) st.recv r.chunks r.got }
  | .norm => { r with chunks := [((parseAcc (r.chunks.headD [])).add (parseAcc r.got)).bytes] }
  | .await => r
  | .keep m => { r with parts := (m, r.got) :: r.parts }

/-- The kept contributions and the module's own reduced in member order (R390). -/
def reduceKept (r : CollRun) : List Byte :=
  let own := if r.kind = 0 then r.chunks.getD r.self [] else r.chunks.flatten
  let ps := sortBy (fun a b => decide (a.1 ≤ b.1)) ((r.self, own) :: r.parts)
  treeAdd ps.length (ps.map Prod.snd)

/-- The bytes that a member's destination holds (R389). -/
def resultOf (r : CollRun) : List Byte :=
  if r.parts.isEmpty then (if r.kind = 0 then r.chunks.getD r.self [] else r.chunks.flatten) else reduceKept r

/-- The words of a byte string. -/
def wordsOf (b : List Byte) : List W32 := (List.range (b.length / 4)).map fun i => w32At b (4 * i)

/-- The sums of the data-parallel group reach the layers (R200, log 43: DESIGN CHOICE). -/
def takeRatios (s : State) (b : List Byte) : State :=
  { s with num := { s.num with layers := s.num.layers.zipIdx.map fun (y, i) =>
      { y with suGroup := some (w32At b (8 * i)), swGroup := some (w32At b (8 * i + 4)) } } }

/-- The result written, squared into the norm accumulator when OPF[0] is set (R390), and the norm known (R187). -/
def writeResult (s : State) (r : CollRun) : State :=
  let b := resultOf r
  let s := match r.dst with
    | some d => if r.kind = 6 ∨ r.kind = 4 then s else putRowBytes s d b
    | none => s
  let s := match r.norm with
    | some d => writeBytes s d.base ((wordsOf b).foldl NormAcc.square (parseAcc (readBytes s d.base 88))).bytes
    | none => s
  let s := if r.kind = 7 then setNorm s (parseAcc b) else s
  if s.net.ratioPlan = some r.plan then takeRatios s b else s

/-- Exchanges made as far as the data allow. -/
def collProgress : Nat → State → CollRun → State × CollRun
  | 0, s, r => (s, r)
  | f + 1, s, r =>
    match r.steps with
    | [] => if r.written then (s, r) else (writeResult s r, { r with written := true })
    | st :: rest =>
      let (s, r) := if r.started then (s, r) else (sendChunks s r st, { r with started := true })
      let (s, got) := drawHeld (st.bytes + 1) s st.ctx r.plan st.bytes r.got
      let r := { r with got := got }
      if got.length < st.bytes then (s, r)
      else collProgress f s { applyStep r st with steps := rest, started := false, got := [] }

/-- Whether a sent packet of the plan entry is not yet acknowledged (R391). -/
def unackedPlan (s : State) (plan : Nat) : Bool :=
  s.net.ctxs.any fun c => (c.queue ++ c.outstanding).any fun p => p.ext.kind == 0 && p.ext.plan == plan

/-- One collective taken as far as it goes; it ends when its result is written and its messages are acknowledged
(R391). -/
def collTry (s : State) (r : CollRun) : State :=
  let same := fun (x : CollRun) => x.core == r.core && x.idx == r.idx
  let (s, r) := collProgress (r.steps.length + 1) s r
  if r.written && !unackedPlan s r.plan then
    let s := modNet s fun x => { x with colls := x.colls.filter fun y => !same y }
    if h : r.core < 128 then stageTen (markDone s ⟨r.core, h⟩ r.idx) r.kind else s
  else modNet s fun x => { x with colls := x.colls.map fun y => if same y then r else y }

/-- Every collective taken as far as it goes. -/
def collAll (s : State) : State := s.net.colls.foldl collTry s

/-- The bytes that a member contributes: the source, or the layer sums rounded once (R200). -/
def collSource (s : State) (plan : Nat) (src : Option Desc) : List Byte :=
  if s.net.ratioPlan = some plan then
    s.num.layers.flatMap fun y => leBytes 4 (sumW32 y.su).toNat ++ leBytes 4 (sumW32 y.sw).toNat
  else match src with
    | some d => rowBytesOf s d
    | none => []

/-- Whether every contribution of an entry is the member's own, so that it goes out at issue (log 47: DEDUCED). -/
def directRoute (e : PlanEntry) (p : Nat) : Bool := e.kind == 3 || e.kind == 4 || 2 ^ p.log2 != p

/-- Every part of a direct route sent, which leaves only what is to be received. -/
def presend (s : State) (r : CollRun) : State × CollRun :=
  (r.steps.foldl (fun t st => sendChunks t r st) s, { r with steps := r.steps.map fun st => { st with send := [] } })

/-- COLL (R388 to R391): a collective operation issues and runs its plan entry. -/
def execColl (l : Core) (idx : Nat) (s : State) : Host.Outcome State Fault Refusal :=
  match streamWord s l idx with
  | none => .next s
  | some w =>
    if !canIssue s l idx w .coll then .next s
    else
      let plan := opImm w 15 0
      let e := planAt s plan
      let p := (s.net.groups.getD e.group []).length
      if e.kind > 7 ∨ p = 0 then .next (opFault s l .flashing idx 0 (s.net.planBase + 32 * plan) eSCHED 0x10)
      else .next (orFault s l .flashing idx (do
        let src ← operand s l (opArg w 0)
        let dst ← if opArg w 1 = noDesc then .ok none else (dest! s l (opArg w 1)).map some
        let nrm ← if opFlags w % 2 = 1 then (dest! s l (opArg w 2)).map some else .ok none
        let chunks := chunksOf e p (collSource s plan src)
        let r : CollRun :=
          { core := l.val, idx := idx, plan := plan, kind := e.kind, self := e.self, msgBytes := e.chunk, chunks := chunks
            steps := routeOf e p chunks, dst := dst, norm := nrm }
        let s := traffic (issue s l idx w .coll true) l idx .flashing src.toList (dst.toList ++ nrm.toList)
        let (s, r) := if directRoute e p then presend s r else (s, r)
        .ok (collTry (modNet s fun x => { x with colls := x.colls ++ [r] }) r)))

/-! ### DATA, ACK and NAK (R368 to R376) -/

/-- DATA_RX (R368 to R371, R373): an accepted DATA packet's payload goes to its message, and collectives that wait for it
go on. -/
def execDataRx (h : TbkHdr) (e : DataExt) (s : State) : Host.Outcome State Fault Refusal :=
  .next (accepted s .data h e.ok fun s =>
    let (s, ok) := takeData s h e
    if ok then collAll (ackIfDue s h.dstCtx) else s)

/-- ACK_RX (R372, R374): NEXT_PSN and the credit limit advance; a collective whose messages are acknowledged ends. -/
def execAckRx (h : TbkHdr) (e : AckExt) (s : State) : Host.Outcome State Fault Refusal :=
  .next (accepted s .ack h true fun s => collAll (takeAck s h.dstCtx e))

/-- NAK_RX (R372, R376): a gap or E_STATE sends again from NEXT_PSN; E_AUTH or E_RANGE closes the context. -/
def execNakRx (h : TbkHdr) (e : AckExt) (s : State) : Host.Outcome State Fault Refusal :=
  .next (accepted s .nak h true fun s =>
    if e.code = eAUTH ∨ e.code = eRANGE then closeCtx s h.dstCtx
    else if e.code = 0 ∨ e.code = eSTATE then collAll (resend (takeAck s h.dstCtx e) h.dstCtx)
    else s)

end Sys2Proof.Machine
end

