-- ==== Sys2Proof/Machine/Batten.lean ====
section
/-!
DEFINITION. Batten: the input log and the step log (R433 to R435), the secured image and its coding (R436 to R439), and
what a generation restores (R178, R210, R234, R437).
-/
namespace Sys2Proof.Machine

/-- Securing and recovery's state changed. -/
def modRec (s : State) (f : RecovState → RecovState) : State := { s with recov := f s.recov }

/-- Whether the job has one module (R561). -/
def oneModule (s : State) : Bool := decide (reg s Obj.jobModules ≤ 1)

/-- A buddy-stream message: image data begin with 0 and log data with 1 (log 41: DESIGN CHOICE). -/
def toBuddy (s : State) (rank : Nat) (b : List Byte) : State := if oneModule s then s else send s (.buddy rank b)

/-! ### The input log (R434, R435) -/

/-- The bytes of an entry, a multiple of 16 (R434). -/
def LogEntry.bytes (e : LogEntry) : List Byte :=
  let n := (16 + e.payload.length + 15) / 16 * 16
  padTo n (leBytes 4 n ++ leBytes 1 e.kind ++ leBytes 3 0 ++ leBytes 8 e.step ++ e.payload)

/-- Bytes of the log held. -/
def logBytesOf (l : List LogEntry) : Nat := (l.map fun e => e.bytes.length).foldl (· + ·) 0

/-- LOG_BYTES counted again. -/
def countLog (s : State) : State := setReg s Obj.logBytes (logBytesOf s.recov.log)

/-- Bytes written into the log region from a position on, which wraps at its end (log 48: DEDUCED). -/
def writeLog (s : State) (b : List Byte) : State :=
  let cap := reg s Obj.logCapacity
  let p := s.recov.logPos % max 1 cap
  let s := writeBytes (writeBytes s (s.recov.logBase + p) (b.take (cap - p))) s.recov.logBase (b.drop (cap - p))
  modRec s fun r => { r with logPos := p + b.length }

/-- An entry put into the log region and sent to the buddy (R435); alone, a module has it written at once (R561). -/
def storeEntry (s : State) (e : LogEntry) : State :=
  let s := writeLog s e.bytes
  let s := modRec s fun r => { r with log := r.log ++ [{ e with acked := oneModule s }] }
  countLog (toBuddy s (reg s Obj.buddyRank) (1#8 :: e.bytes))

/-- An entry appended (R435): when the region cannot take it, securing is forced at the next boundary and the entry
waits. -/
def appendLog (s : State) (kind step : Nat) (payload : List Byte) : State :=
  let e : LogEntry := { kind := kind, step := step, payload := payload }
  if logBytesOf s.recov.log + e.bytes.length > reg s Obj.logCapacity then
    let s := bumpIf s (!s.recov.forced) Obj.secureForced 1
    modRec s fun r => { r with forced := true, waiting := r.waiting ++ [e] }
  else storeEntry s e

/-- Entries of steps before `step` freed, and those that waited for room stored (R435). -/
def freeLog (s : State) (step : Nat) : State :=
  let w := s.recov.waiting
  let s := countLog (modRec s fun r => { r with log := r.log.filter (fun e => decide (step ≤ e.step)), waiting := [] })
  w.foldl (fun t e => appendLog t e.kind e.step e.payload) s

/-- Whether every entry counts as written, for the commits of R29 (R435): none waits for room, and the buddy has acknowledged
each. -/
def logWritten (s : State) : Bool := s.recov.waiting.isEmpty && s.recov.log.all LogEntry.acked

/-- Whether the entries of the fetched shards count as written, for condition 4 of R28 (R435). One that the log has no room for
does not hold the boundary back from the securing that it waits for (log 49: DESIGN CHOICE). -/
def shardsWritten (s : State) : Bool :=
  (s.recov.log.all fun e => e.kind != 1 || e.acked)
    && (s.recov.securing.isNone || s.recov.waiting.all fun e => e.kind != 1)

/-- The first entry that waits for its acknowledgement counts as written. -/
def ackFirst : List LogEntry → List LogEntry
  | [] => []
  | e :: r => if e.acked then e :: ackFirst r else { e with acked := true } :: r

/-- The logged inputs of a kind that a replay takes at a step's boundary or in its fetch (R443). -/
def loggedAt (s : State) (kind step : Nat) : List (List Byte) :=
  (s.recov.log.filter fun e => e.replay && e.kind == kind && e.step == step).map LogEntry.payload

/-- Entries of steps after the restored generation are the inputs of the replay (R443). -/
def markReplay (s : State) (g : Nat) : State :=
  modRec s fun r => { r with log := r.log.map fun e => if e.step > g then { e with replay := true } else e }

/-- The logged inputs of a step have been taken. -/
def endReplay (s : State) (step : Nat) : State :=
  modRec s fun r => { r with log := r.log.map fun e => if e.step ≤ step then { e with replay := false } else e }

/-- The entries that bytes of log data spell; `n` at most. -/
def parseLog : Nat → List Byte → List LogEntry
  | 0, _ => []
  | f + 1, b =>
    let n := fieldLE b 0 4
    if b.length < 16 ∨ n < 16 then []
    else { kind := byteAt b 4, step := fieldLE b 8 8, payload := (b.drop 16).take (n - 16), acked := true } :: parseLog f (b.drop n)

/-! ### The Sloe state (R234, R235) -/

/-- The Sloe state record at the boundary of a step (R234). -/
def sloeRecord (s : State) (step : Nat) : List Byte :=
  leBytes 8 s.job.seed ++ leBytes 8 step ++ (List.range 6).flatMap fun i => leBytes 8 (reg s (Obj.sloeBase + i))

/-! ### The context (R178, R210, R437) -/

/-- Objects whose writes the input log records (R177, R217, R237, R280). -/
def loggedWrite (idx : Nat) : Bool :=
  decide (0x5010 ≤ idx ∧ idx ≤ 0x5016) || decide (0xA010 ≤ idx ∧ idx ≤ 0xA012) || idx == 0x5300 || idx == 0x5401
    || decide (0x6012 ≤ idx ∧ idx ≤ 0x6016)

/-- The elements of the logged objects whose writes take effect at a step boundary: a rollback takes back the writes of the steps
after the restored boundary (R177, log 126: DEDUCED). -/
def boundaryKeys : List Nat :=
  (dictionary.filter fun r => r.nextBoundary && loggedWrite r.idx).flatMap fun r =>
    (List.range (max 1 r.elems)).map fun e => objKey r.idx r.sub e

/-- The channel list of a tracker as the context holds it, with what says whether the image's own list is still in use (R159,
log 126: DEDUCED). -/
def Tracker.listBytes (t : Tracker) : List Byte :=
  leBytes 1 (if t.everUsed then 1 else 0) ++ leBytes 2 t.chanList.length ++ t.chanList.flatMap (leBytes 2)

/-- The parts of the context that are not memory (R178, R210, R234), in the order of log 51: DESIGN CHOICE. -/
def contextParts (s : State) : List Byte :=
  leBytes 8 (reg s Obj.versionCurrent)
    ++ (s.num.slots.flatMap fun x => leBytes 1 x.state.code ++ leBytes 4 x.refs ++ leBytes 8 x.version)
    ++ (s.num.layers.flatMap fun y => leBytes 1 y.offset ++ leBytes 2 y.clean ++ leBytes 4 y.mu.toNat ++ leBytes 1 y.weight)
    ++ ((allTrackers s).flatMap fun x => x.2.2.bytes ++ x.2.2.listBytes)
    ++ (boundaryKeys.flatMap fun k => leBytes 8 (reg s k))
    ++ sloeRecord s s.job.step
    ++ (if s.mode = .serve then
        leBytes 4 (reg s Obj.kvPagesFree) ++ leBytes 2 (liveSeqs s).length
          ++ ((liveSeqs s).flatMap fun x => leBytes 2 x.1 ++ x.2.bytes)
          ++ leBytes 2 s.net.served.length
          ++ s.net.served.flatMap fun x =>
              leBytes 2 x.entry ++ leBytes 5 x.id ++ leBytes 2 x.ctx ++ leBytes 4 x.maxNew ++ leBytes 4 x.made
      else [])

/-- The bytes of a descriptor and of its scale plane. -/
def descRegions (d : Desc) : List (Nat × Nat) :=
  (d.base, d.spanBytes) :: (if d.planeBytes = 0 then [] else [(d.splane, d.planeBytes)])

/-- The contents of every slot that is not FREE: what the versioned descriptors of the cores' tables name in it (R202,
R210). -/
def slotRegions (s : State) : List (Nat × Nat) :=
  let ds := (allCores.flatMap fun l => (List.range (s.job.tables.getD l.val (0, 0)).2).map (descAt s l)).filter Desc.versioned
  (s.num.slots.filter fun x => x.state != .free).flatMap fun x =>
    ds.flatMap fun d => (descRegions d).map fun r => (x.base + r.1, r.2)

/-- The master, remainder and moment tensors and the moment records, which the optimizer steps of the image name (R210). -/
def trainRegions (s : State) : List (Nat × Nat) :=
  allCores.flatMap fun l => ((streamOps s l).filter fun w => opcodeOf w == some .optstep).flatMap fun w =>
    let at_ := fun (k : Nat) => if opArg w k = noDesc then [] else [descAt s l (opArg w k)]
    (at_ 1 ++ at_ 2).flatMap descRegions ++ (at_ 3 ++ at_ 4).flatMap (fun d => descRegions { d with blk := 1 })
      ++ (at_ 5 ++ at_ 6).map fun d => (d.base, 16)

/-- The section of regions that no CTXSAVE names (log 51: DESIGN CHOICE). -/
abbrev ownSection : Nat := 65536

/-- Regions of a context section (R286). -/
def inSection (k : Nat) (l : List (Nat × Nat)) : List (Nat × Nat × Nat) := l.map fun r => (k, r.1, r.2)

/-- Regions of memory that a secured image holds beside those that CTXSAVE names (R210, R437). -/
def fixedRegions (s : State) : List (Nat × Nat × Nat) :=
  inSection ownSection <| (slotRegions s ++ trainRegions s).eraseDups ++ (if s.job.hyperCount = 0 then [] else [(s.job.hyperBase, 64 * s.job.hyperCount)])
    ++ (if s.mode = .serve then
        [(s.kv.pageWords, 8 * reg s Obj.kvPagesTotal), (s.kv.freeList, 4 * reg s Obj.kvPagesTotal)] ++ s.kv.secured
          ++ (liveSeqs s).map fun x => (x.2.ptBase, 4 * x.2.npages)
      else [])

/-- Bytes of a memory that is not the running one. -/
def memBytes (m : Mem) (a : Nat) : Nat → List Byte
  | 0 => []
  | n + 1 => memGet m a :: memBytes m (a + 1) n

/-- Bytes of a chunk (R437). -/
abbrev chunkBytes : Nat := 65536

/-- The content of a generation: its parts, then each region in the order of its context section, as section, address, length and
bytes; filled with zeros to whole chunks (R437, log 51: DESIGN CHOICE). -/
def Securing.content (x : Securing) : List Byte :=
  let rs := sortBy (fun a b => decide (a.1 ≤ b.1)) x.regions
  let b := leBytes 4 x.parts.length ++ x.parts ++ leBytes 4 rs.length
    ++ rs.flatMap fun r => leBytes 4 r.1 ++ leBytes 8 r.2.1 ++ leBytes 8 r.2.2 ++ memBytes x.snap r.2.1 r.2.2
  padTo ((b.length + chunkBytes - 1) / chunkBytes * chunkBytes) b

/-- A number of n bytes read off the front. -/
def pull (n : Nat) (b : List Byte) : Nat × List Byte := (fieldLE b 0 n, b.drop n)

/-- The slots' headers restored (R203, R210). -/
def pullSlots : List VSlot → List Byte → List VSlot × List Byte
  | [], b => ([], b)
  | x :: r, b =>
    let st : SlotState := match byteAt b 0 with | 0 => .free | 1 => .filling | 2 => .current | _ => .held
    let y := pullSlots r (b.drop 13)
    ({ x with state := st, refs := fieldLE b 1 4, version := fieldLE b 5 8 } :: y.1, y.2)

/-- The layers' Spar state restored (R178). -/
def pullLayers : List Layer → List Byte → List Layer × List Byte
  | [], b => ([], b)
  | x :: r, b =>
    let y := pullLayers r (b.drop 8)
    ({ x with offset := byteAt b 0, clean := fieldLE b 1 2, mu := w32At b 3, weight := byteAt b 7 } :: y.1, y.2)

/-- The trackers of a cluster restored (R178, R180). -/
def pullTrackers : List Tracker → List Byte → List Tracker × List Byte
  | [], b => ([], b)
  | x :: r, b =>
    let z := x.restored b
    let c := b.drop x.bytes.length
    let n := fieldLE c 1 2
    let y := pullTrackers r (c.drop (3 + 2 * n))
    ({ z with everUsed := byteAt c 0 == 1, chanList := (List.range n).map fun i => fieldLE c (3 + 2 * i) 2 } :: y.1, y.2)

/-- The trackers of every cluster restored. -/
def pullTables : List (List Tracker) → List Byte → List (List Tracker) × List Byte
  | [], b => ([], b)
  | x :: r, b =>
    let h := pullTrackers x b
    let y := pullTables r h.2
    (h.1 :: y.1, y.2)

/-- Sequence entries restored (R437). -/
def pullSeqs : Nat → State → List Byte → State × List Byte
  | 0, s, b => (s, b)
  | n + 1, s, b => pullSeqs n (putSeq s (fieldLE b 0 2) (parseSeq ((b.drop 2).take 64))) (b.drop 66)

/-- Sequences of front-ends restored. -/
def pullServed : Nat → List Byte → List Served
  | 0, _ => []
  | n + 1, b =>
    { entry := fieldLE b 0 2, id := fieldLE b 2 5, ctx := fieldLE b 7 2, maxNew := fieldLE b 9 4, made := fieldLE b 13 4 }
      :: pullServed n (b.drop 17)

/-- The key-value part restored. -/
def restoreKv (s : State) (b : List Byte) : State :=
  let s := (liveSeqs s).foldl (fun t x => putSeq t x.1 {}) s
  let s := setReg s Obj.kvPagesFree (fieldLE b 0 4)
  let (s, b) := pullSeqs (fieldLE b 4 2) s (b.drop 6)
  let s := countSeqs { s with kv := { s.kv with runs := [], waiting := [], ran := [], sampled := [] } }
  modNet s fun x => { x with served := pullServed (fieldLE b 0 2) (b.drop 2) }

/-- The logged objects restored (R177). -/
def restoreObjects (s : State) (b : List Byte) : State :=
  (boundaryKeys.zipIdx).foldl (fun t x => setReg t x.1 (fieldLE b (8 * x.2) 8)) s

/-- The Sloe state restored (R234). The seed of a job whose head is in the log is that of the log (R236). -/
def restoreSloe (s : State) (b : List Byte) : State :=
  let head := s.recov.log.find? fun e => e.kind == 0
  let s := (List.range 6).foldl (fun t i => setReg t (Obj.sloeBase + i) (fieldLE b (16 + 8 * i) 8)) s
  let v := reg s Obj.versionCurrent
  { s with job := { s.job with seed := (head.map fun e => fieldLE e.payload 0 8).getD (fieldLE b 0 8), step := fieldLE b 8 8
                               stepVersion := v } }

/-- The parts of a generation restored (R178, R210, R234). -/
def restoreParts (s : State) (b : List Byte) : State :=
  let (v, b) := pull 8 b
  let (slots, b) := pullSlots s.num.slots b
  let (layers, b) := pullLayers s.num.layers b
  let (tables, b) := pullTables s.num.trackers b
  let s := setReg s Obj.versionCurrent v
  let s := storeTrackers { s with num := { s.num with slots := slots, layers := layers, trackers := tables, samples := [] } }
  let s := restoreSloe (restoreObjects s b) (b.drop (8 * boundaryKeys.length))
  if s.mode = .serve then restoreKv s (b.drop (8 * boundaryKeys.length + 64)) else s

/-- The regions of a generation written back. -/
def restoreRegions : Nat → State → List Byte → State
  | 0, s, _ => s
  | n + 1, s, b =>
    let len := fieldLE b 12 8
    restoreRegions n (writeBytes s (fieldLE b 4 8) ((b.drop 20).take len)) (b.drop (20 + len))

/-- A content restored: the state is that of the boundary of its step (R443). -/
def restoreContent (s : State) (b : List Byte) : State :=
  let n := fieldLE b 0 4
  let s := restoreParts s ((b.drop 4).take n)
  let r := b.drop (4 + n)
  restoreRegions (fieldLE r 0 4) s (r.drop 4)

/-! ### Chunks (R437) -/

/-- A chunk in the tags of R213, 8-bit elements in blocks of 64, each behind a byte with its tag (log 52: DESIGN CHOICE). -/
def codeBlocks (b : List Byte) : List Byte :=
  (piecesOf 64 b.length b).flatMap fun x =>
    let cs := x.map BitVec.toNat
    let t := chooseTag .k8 0 cs true
    BitVec.ofNat 8 t.code :: storeBlock .k8 0 cs t

/-- The elements of n blocks. -/
def decodeBlocks : Nat → List Byte → List Byte
  | 0, _ => []
  | n + 1, b =>
    let r := loadBlock .k8 0 64 (b.drop 1) (BlockTag.ofCode (byteAt b 0))
    r.1.map (BitVec.ofNat 8) ++ decodeBlocks n (b.drop (1 + r.2))

/-- A chunk with its 8-byte header. -/
def chunkOf (mode : Nat) (b : List Byte) : List Byte := leBytes 1 mode ++ leBytes 3 0 ++ leBytes 4 b.length ++ b

/-- A chunk in the shortest mode of R437; `prev` is the same chunk of generation PREV, for the stream. -/
def codeChunk (b : List Byte) (prev : Option (List Byte)) : List Byte :=
  if b.all (· == 0#8) then chunkOf 1 []
  else
    let coded := codeBlocks b
    let best := if coded.length < b.length then chunkOf 2 coded else chunkOf 0 b
    match prev with
    | none => best
    | some p =>
      let d := codeBlocks (List.zipWith (· ^^^ ·) b p)
      if d.length + 8 < best.length then chunkOf 3 d else best

/-- The header of a generation's image (R437). -/
def imageHeader (s : State) (g : Gen) (full : Bool) (prev : Nat) (coded : List Byte) : List Byte :=
  padTo 96 (leBytes 8 g.step ++ leBytes 2 g.rank ++ leBytes 2 g.epoch ++ leBytes 2 (reg s Obj.arithRev)
    ++ leBytes 1 g.mode ++ leBytes 1 (if full then 1 else 0) ++ leBytes 4 (reg s Obj.jobTag)
    ++ leBytes 4 (g.content.length / chunkBytes) ++ leBytes 8 g.content.length ++ leBytes 8 coded.length ++ leBytes 8 prev
    ++ sha256 g.content)

/-- The image of a generation: FULL, or against the generation that the buddy holds (R437, R438). -/
def genImage (s : State) (g : Gen) (prev : Option Gen) : List Byte :=
  let cs := piecesOf chunkBytes g.content.length g.content
  let ps := (prev.map fun g => piecesOf chunkBytes g.content.length g.content).getD []
  let coded := (cs.zipIdx).flatMap fun (c, i) => codeChunk c (ps[i]?)
  imageHeader s g prev.isNone ((prev.map Gen.step).getD 0) coded ++ coded

/-- The image of a generation of the module's own (R437). -/
def imageOf (s : State) (gen : Nat) (content : List Byte) (prev : Option Gen) : List Byte :=
  genImage s { step := gen, rank := ownRank s, epoch := reg s Obj.jobEpoch, mode := s.mode.code, content := content } prev

/-- n chunks decoded; `prev` are the chunks of generation PREV. -/
def decodeChunks (prev : List (List Byte)) : Nat → Nat → List Byte → List Byte
  | 0, _, _ => []
  | n + 1, i, b =>
    let len := fieldLE b 4 4
    let d := (b.drop 8).take len
    let x := match byteAt b 0 with
      | 0 => padTo chunkBytes d
      | 1 => List.replicate chunkBytes 0#8
      | 2 => decodeBlocks 1024 d
      | _ => List.zipWith (· ^^^ ·) (decodeBlocks 1024 d) (prev.getD i (List.replicate chunkBytes 0#8))
    x ++ decodeChunks prev n (i + 1) (b.drop (8 + len))

/-- The generation that an image holds, and whether its digest matches (R437, R443). -/
def decodeImage (b : List Byte) (held : List Gen) : Gen × Bool :=
  let prev := ((held.find? fun g => g.step == fieldLE b 0x28 8).map fun g => piecesOf chunkBytes g.content.length g.content).getD []
  let content := decodeChunks prev (fieldLE b 0x14 4) 0 (b.drop 96)
  ({ step := fieldLE b 0 8, rank := fieldLE b 8 2, epoch := fieldLE b 0x0A 2, mode := byteAt b 0x0E, content := content }
  , sha256 content == (b.drop 0x30).take 32)

/-- The local image as it stands in memory (R437, R443). -/
def localImage (s : State) : Gen × Bool :=
  let h := readBytes s s.recov.localBase 96
  decodeImage (readBytes s s.recov.localBase (96 + fieldLE h 0x20 8)) []

/-! ### Upward messages (R452) -/

/-- The coordinator in charge: the standby while it runs recovery (R441). -/
def coordOf (s : State) : Nat := s.recov.root.getD (reg s Obj.coordRank)

/-- A rank's offset from the coordinator in the pattern of R383. -/
def offsetOf (s : State) (rank : Nat) : Nat :=
  let n := max 1 (reg s Obj.jobModules)
  (rank + n - coordOf s % n) % n

/-- The rank to which upward messages go: the relay of the module's group of 256, or the coordinator (R383, R452). -/
def parentOf (s : State) : Nat :=
  let n := max 1 (reg s Obj.jobModules)
  let o := offsetOf s (ownRank s)
  let p := (coordOf s + o / 256 * 256) % n
  if o < 256 ∨ o % 256 = 0 ∨ rankLost s p then coordOf s else p

/-- Ranks that a relay speaks for, itself included (R452). -/
def relaySpan (s : State) : Nat :=
  let n := max 1 (reg s Obj.jobModules)
  let o := offsetOf s (ownRank s)
  if o < 256 ∨ o % 256 ≠ 0 then 1
  else ((List.range 256).filter fun d => decide (o + d < n) && !rankLost s ((coordOf s + o + d) % n)).length

/-- An upward message of the module or of one of its children: a relay waits for all of them and sends one message with
the count and the first code that is not 0 (R452). -/
def sendUp (s : State) (m : RecMsg) : State :=
  let span := relaySpan s
  if span ≤ 1 then recTo s (parentOf s) m
  else
    let old := (s.recov.ups.find? fun u => u.op == m.op && u.step == m.step).getD
      { op := m.op, step := m.step, count := 0, code := 0, rank := ownRank s }
    let new := { old with count := old.count + m.count, code := if old.code = 0 then m.code else old.code
                          rank := if old.code = 0 ∧ m.code ≠ 0 then m.rank else old.rank }
    let rest := s.recov.ups.filter fun u => !(u.op == m.op && u.step == m.step)
    if new.count < span then modRec s fun r => { r with ups := new :: rest }
    else recTo (modRec s fun r => { r with ups := rest }) (parentOf s) { m with count := new.count, code := new.code, rank := new.rank }

/-! ### Securing (R436 to R439) -/

/-- SECURED(s) reported once the local image of s is whole and s is held for the rank whose buddy the module is
(R439). The standby receives each report itself (log 41: DESIGN CHOICE). -/
def reportSecured (s : State) (g : Nat) : State :=
  if s.recov.reported = some g ∨ s.recov.localDone ≠ g ∨ !(oneModule s || s.recov.held.any fun x => x.step == g) then s
  else
    let m : RecMsg := { op := 8, rank := ownRank s, step := g, epoch := reg s Obj.jobEpoch, time := ptpNow s }
    let s := sendUp (modRec (setReg s Obj.securedStep g) fun r => { r with reported := some g }) m
    if reg s Obj.standbyRank = coordOf s then s else recTo s (reg s Obj.standbyRank) m

/-- Securing of the running step's boundary begins (R436, R438): the context is held as it stands in `c`, and the local image is no
longer whole. -/
def beginSecuring (s c : State) : State :=
  modRec s fun r => { r with
    securing := some { gen := s.job.step, since := s.clk, snap := c.mem, parts := contextParts c, regions := fixedRegions c }
    localWhole := false, forced := false, deferTo := none }

/-- The end of a securing (R435, R436, R438, R439): the generation commits and the log before the older generation is
freed. -/
def commitSecuring (s : State) (x : Securing) : State :=
  let older := if oneModule s then x.gen else (s.recov.streamed.map Gen.step).getD 0
  let s := modRec s fun r => { r with
    securing := none, interval := reg s Obj.secureInterval
    streamed := some { step := x.gen, rank := ownRank s, content := x.content } }
  let s := setReg s Obj.secureTime ((s.clk - x.since) * 5 / 8)
  reportSecured (freeLog s older) x.gen

/-- Batten foresees that a securing ends at `e`, after the update phase is to begin: a stretch request for the update phase
(R33, R438, log 73: DESIGN CHOICE). -/
def foresee (s : State) (e : Option Nat) : State :=
  match e, s.job.phases.findIdx? fun p => p.kind == 3 with
  | some t, some ph =>
    if s.recov.securing.isSome ∧ currentStart s ph < t then projectPhase s ph (slotEnd s ph + (t - currentStart s ph)) else s
  | _, _ => s

/-- Whether the running step secures (R317): the securing of the boundary before it has not captured yet. -/
def secures (s : State) : Bool := s.recov.securing.any fun x => !x.captured && x.gen + 1 == s.job.step

/-- The regions of a context save named to Batten, in its context section (R286, R437). -/
def nameRegions (s : State) (section_ : Nat) (regions : List (Nat × Nat)) : State :=
  modRec s fun r => { r with securing := r.securing.map fun x => { x with regions := x.regions ++ inSection section_ regions } }

/-- CTXSAVE (R299, R303, R317): Batten reads the regions named, as they stood at the boundary, through the core's slots; in a step
that does not secure it completes at issue and captures nothing. `e` is the time at which Batten foresees the end of the securing. -/
def execCtxsave (l : Core) (idx : Nat) (e : Option Nat) (s : State) : Host.Outcome State Fault Refusal :=
  match streamWord s l idx with
  | none => .next s
  | some w =>
    if !canIssue s l idx w .ctxsave then .next s
    else .next (orFault s l .batten idx (do
      let ds ← (List.range 8).mapM fun k => operand s l (opArg w k) false
      let regions := (ds.filterMap id).flatMap descRegions
      if secures s then
        let s := askRuns (issue s l idx w .ctxsave true) l idx .batten false regions
        .ok (foresee (markDone (nameRegions s (opImm w 15 0) regions) l idx) e)
      else .ok (setTokens (issue s l idx w .ctxsave false) l (opSets w))))

/-- Whether some core's stream holds a context save that has not issued, or one whose regions Batten does not hold yet (R317). -/
def saveWaits (s : State) : Bool :=
  allCores.any fun l => ((coreOf s l).flight.any fun f => opcodeOf f.word == some .ctxsave)
    || ((streamOps s l).zipIdx).any fun (w, i) => opcodeOf w == some .ctxsave && !issuedAt (coreOf s l) i

/-- The capture of a securing ends (R437 to R439, R561): the local image is whole, and the image goes to the buddy; alone, the
module commits the generation. `e` is the time at which Batten foresees the end of the stream. -/
def endCapture (s : State) (x : Securing) (e : Option Nat) : State :=
  let content := x.content
  let img := imageOf s x.gen content none
  let s := writeBytes s s.recov.localBase img
  let s := setReg (setReg s Obj.localImageStep x.gen) Obj.imageDigest (ofLE (sha256 content))
  let s := setReg s Obj.secureRawBytes content.length
  let s := modRec s fun r => { r with localWhole := true, localDone := x.gen, securing := some { x with captured := true } }
  if oneModule s then commitSecuring (setReg s Obj.secureStreamBytes 0) x
  else
    let out := imageOf s x.gen content s.recov.streamed
    foresee (reportSecured (toBuddy (setReg s Obj.secureStreamBytes out.length) (reg s Obj.buddyRank) (0#8 :: out)) x.gen) e

end Sys2Proof.Machine
end

