-- ==== Sys2Proof/Machine/Pauses.lean ====
section
/-!
DEFINITION. Host-assisted pauses: how one begins, what its decision must be, and what it answers (R176, R191, R277, R386,
R395, R424, R440, R450, R476, R477, R560).
-/
namespace Sys2Proof.Machine

/-- Dunrel's state changed. -/
def modDun (s : State) (f : DunrelState → DunrelState) : State := { s with dunrel := f s.dunrel }

/-- STATE codes of a pause entry (R476). -/
def PauseState.code : PauseState → Nat
  | .waiting => 1 | .decided => 2 | .timedOut => 3

/-- The 32 bytes of a pause-table entry (R476). -/
def Pause.entry (p : Pause) : List Byte :=
  leBytes 4 p.id ++ leBytes 2 p.selector ++ leBytes 1 p.state.code ++ leBytes 1 0 ++ leBytes 8 p.step
    ++ leBytes 8 p.deadline ++ leBytes 4 p.report.length ++ leBytes 4 0

/-- Bytes of an element of PAUSE_REPORT (R476). -/
abbrev reportMax : Nat := 4194304

/-- The key of a function's timeout object: subindex 1 of its selector. -/
def timeoutKey (selector : Nat) : Nat := objKey selector 1 0

/-- The key of a function's mode object. -/
def modeKey (selector : Nat) : Nat := objKey selector 0 0

/-- Whether a function is in host-assisted mode. -/
def hostMode (s : State) (selector : Nat) : Bool := reg s (modeKey selector) == 1

/-- The lowest free element of the pause table. -/
def pauseSlot (s : State) : Option Nat := (List.range 16).find? fun k => !(s.dunrel.pauses.any fun p => p.slot == k)

/-- Pauses that wait. -/
def waitingPauses (s : State) : List Pause := s.dunrel.pauses.filter fun p => p.state == .waiting

/-- A pause begins (R476), or none is made: then the timeout action applies at once. -/
def beginPause (s : State) (selector : Nat) (report : List Byte) : State × Bool :=
  match pauseSlot s with
  | none => (s, false)
  | some k =>
    if report.length > reportMax then (s, false)
    else
      let p : Pause := { slot := k, id := s.dunrel.nextPause % 2 ^ 32, selector := selector, step := s.job.step
                         deadline := ptpNow s + reg s (timeoutKey selector), report := report }
      let s := modDun s fun d => { d with pauses := d.pauses ++ [p], nextPause := d.nextPause + 1 }
      (raiseEvent s 3 p.entry, true)

/-- One pause changed. -/
def modPause (s : State) (id : Nat) (f : Pause → Pause) : State :=
  modDun s fun d => { d with pauses := d.pauses.map fun p => if p.id = id then f p else p }

/-- Elements of pauses that have ended are freed at a step boundary (R477). -/
def freePauses (s : State) : State := modDun s fun d => { d with pauses := d.pauses.filter fun p => p.state == .waiting }

/-- The segments of a decision put together. -/
def joinSegs (segs : List (Nat × List Byte)) (total : Nat) : List Byte :=
  (List.range total).map fun i =>
    ((segs.findSome? fun x => if x.1 ≤ i ∧ i < x.1 + x.2.length then x.2[i - x.1]? else none)).getD 0#8

/-- The decision that a pause accepted. -/
def Pause.answer (p : Pause) : Option (List Byte) :=
  if p.state = .decided then p.decision.head?.map Prod.snd else none

/-- The accepted decision of a function at the running boundary. -/
def decidedAt (s : State) (selector : Nat) : Option (List Byte) :=
  (s.dunrel.pauses.find? fun p => p.selector == selector && p.step == s.job.step).bind Pause.answer

/-- The value that the input log holds for a host decision at the running step's boundary (R177, R434 kind 2): object index
and subindex, then the value. -/
def loggedDecision (s : State) (selector : Nat) : Option (List Byte) :=
  ((loggedAt s 2 s.job.step).find? fun b => fieldLE b 0 2 == selector && byteAt b 2 == 0 && byteAt b 3 == 1).map fun b => b.drop 4

/-- A host decision entered in the input log (R177), when it does not come from there. The fourth byte tells a decision from
an object write (log 50: DESIGN CHOICE). -/
def logDecision (s : State) (selector : Nat) (b : List Byte) : State :=
  if (loggedDecision s selector).isSome then s else appendLog s 2 s.job.step (leBytes 2 selector ++ [0#8, 1#8] ++ b)

/-- The decision that the running boundary uses: the logged one in a replay, else the accepted one (R177). -/
def decisionNow (s : State) (selector : Nat) : Option (List Byte) :=
  (loggedDecision s selector).orElse fun _ => decidedAt s selector

/-! ### Limits of decisions (R477) -/

/-- The proposed spares of a recovery report are entries of SPARE_LIST that name a serial. -/
def spareOf (s : State) (serial : Nat) : Option Nat :=
  (List.range 16).find? fun i => reg s (Obj.spareList + i) != 0 && fieldLE (regBytes s (Obj.spareList + i)) 16 8 == serial

/-- Whether every rank that is not lost has reported a generation (R442, R450). -/
def reportedByAll (s : State) (g : Nat) : Bool :=
  (List.range (reg s Obj.jobModules)).all fun r => s.recov.lost.contains r || s.recov.securedBy.contains (r, g)

/-- 0xA010: a rung offset for each forward layer, to at most rung 4 (R161). -/
def checkOffsets (s : State) (b : List Byte) : Nat :=
  if b.length ≠ s.num.layers.length then eTYPE
  else if (s.num.layers.zip b).all fun (y, x) => decide (y.base + x.toNat ≤ 4) then eOK else eRANGE

/-- 0xA013: entries that R276 makes candidates, none twice (R277). -/
def checkEvictions (s : State) (b : List Byte) : Nat :=
  if b.length < 4 ∨ b.length ≠ 4 + 8 * fieldLE b 0 4 then eTYPE
  else if evictListOk s (parseEvictList b) then eOK else eRANGE

/-- 0xA015: all ones to halt, or a generation that every surviving rank has reported and listed spares (R450). -/
def checkRecovery (s : State) (b : List Byte) : Nat :=
  if b.length < 10 ∨ b.length ≠ 10 + 16 * fieldLE b 8 2 then eTYPE
  else if fieldLE b 0 8 = 2 ^ 64 - 1 then eOK
  else
    let spares := (List.range (fieldLE b 8 2)).all fun i => (spareOf s (fieldLE b (18 + 16 * i) 8)).isSome
    if reportedByAll s (fieldLE b 0 8) && spares then eOK else eRANGE

/-- 0xA016: entries of ranks of the job (R386). -/
def checkRedraw (s : State) (b : List Byte) : Nat :=
  if b.length < 4 ∨ b.length ≠ 4 + 36 * fieldLE b 0 4 then eTYPE
  else if (List.range (fieldLE b 0 4)).all fun i => decide (fieldLE b (4 + 36 * i) 4 / 2 < reg s Obj.jobModules) then eOK
  else eRANGE

/-- An endpoint of the storage kind (R395). -/
def isStorage (s : State) (e : Nat) : Bool :=
  let b := regBytes s (Obj.endpoint + e)
  decide (e < 1024) && bitOf (byteAt b 0x13) 0 && bitOf (byteAt b 0x12) 0

/-- The code that a decision gets (R477). -/
def checkDecision (s : State) (selector : Nat) (b : List Byte) : Nat :=
  let sized := fun n ok => if b.length ≠ n then eTYPE else if ok then eOK else eRANGE
  match selector with
  | 0xA010 => checkOffsets s b
  | 0xA011 => checkScale s b
  | 0xA012 => checkOutlier s b
  | 0xA013 => checkEvictions s b
  | 0xA014 => sized 2 (fieldLE b 0 2 == 0xFFFF || decide (fieldLE b 0 2 < reg s Obj.jobModules))
  | 0xA015 => checkRecovery s b
  | 0xA016 => checkRedraw s b
  | 0xA017 => sized 4 (let x := w32At b 0; w32IsZero x || (!w32IsNan x && !w32IsInf x && w32Lt 0#32 x))
  | 0xA018 => sized 2 (decide (fieldLE b 0 2 ≤ 10000))
  | 0xA019 => sized 1 (decide (byteAt b 0 ≤ 1))
  | 0xA01A => sized 2 (isStorage s (fieldLE b 0 2))
  | 0xA01B => sized 1 (byteAt b 0 == 0 || decide (16 ≤ byteAt b 0 ∧ byteAt b 0 ≤ 80))
  | _ => eRANGE

/-- Functions that pause at a step boundary. -/
def atBoundary (selector : Nat) : Bool :=
  [0xA010, 0xA011, 0xA012, 0xA013, 0xA014, 0xA017, 0xA018, 0xA01A].contains selector

/-- Whether a pause holds the boundary of the running step. -/
def boundaryHeld (s : State) : Bool := (waitingPauses s).any fun p => atBoundary p.selector

/-! ### Reports of the boundary functions (R560) -/

/-- The report of 0xA010. -/
def fallbackReport (s : State) (all : Bool) : List Byte :=
  leBytes 1 (if all then 1 else 0) ++ leBytes 7 0
    ++ (List.range s.num.layers.length).flatMap fun i => leBytes 8 (reg s (Obj.layerHealth + i))

/-- The origin with the largest sum of a phase, 0xFFFF when no quanta were applied. -/
def topOrigin (s : State) (ph : Nat) : Nat :=
  let l := s.job.sums.filter fun x => x.step == s.job.step && x.phase == ph && x.quanta != 0
  match sortBy (fun a b => decide (a.quanta > b.quanta ∨ (a.quanta = b.quanta ∧ a.origin ≤ b.origin))) l with
  | [] => 0xFFFF
  | x :: _ => x.origin

/-- The report of 0xA014. -/
def stretchReport (s : State) : List Byte :=
  leBytes 2 s.job.phases.length ++ leBytes 6 0 ++ (List.range s.job.phases.length).flatMap fun ph =>
    leBytes 4 (appliedQuanta s s.job.step ph) ++ leBytes 2 (topOrigin s ph) ++ leBytes 2 0

/-- The report of 0xA017. -/
def clipReport (s : State) : List Byte :=
  leBytes 4 (reg s Obj.globalNorm) ++ leBytes 4 (reg s Obj.clipFactor)
    ++ leBytes 1 ((if s.num.norm.nan then 1 else 0) + (if s.num.norm.inf then 2 else 0)) ++ leBytes 7 0

/-- The report of 0xA018. -/
def secureReport (s : State) : List Byte :=
  leBytes 8 (reg s Obj.securedStep) ++ leBytes 8 (reg s Obj.logBytes) ++ leBytes 8 (reg s Obj.logCapacity)

/-- The report of 0xA01A. -/
def fetchReport (s : State) : List Byte :=
  let l := s.net.fetches.filter fun f => !f.done
  leBytes 4 l.length ++ l.flatMap fun f => leBytes 4 f.entry ++ leBytes 2 f.endpoint ++ leBytes 1 f.code ++ leBytes 1 0

/-- The report of 0xA016. -/
def redrawReport (entries : List (Nat × List Byte)) : List Byte :=
  leBytes 4 entries.length ++ entries.flatMap fun e => leBytes 4 e.1 ++ padTo 32 e.2

/-- Entries that a redraw's report or decision names. -/
def parseRedraw (b : List Byte) : List (Nat × List Byte) :=
  (List.range (fieldLE b 0 4)).map fun i => (fieldLE b (4 + 36 * i) 4, (b.drop (8 + 36 * i)).take 32)

end Sys2Proof.Machine
end

