-- ==== Sys2Proof/Machine/Serving.lean ====
section
/-!
DEFINITION. The data-fetch service (R392 to R395) and serving requests (R396 to R398).
-/
namespace Sys2Proof.Machine

/-! ### Data fetch (R392 to R395) -/

/-- The context that the service uses towards a storage endpoint. -/
def fetchCtx (s : State) (e : Nat) : Option Ctx :=
  s.net.ctxs.find? fun c => !c.plan && c.isOpen && c.peer == .endpoint e && c.kind == 2

/-- A fetch context, opened when there is none (R379); none when no number or too little pool is free. NONCE and INIT_PSN
are free values (log 14: DESIGN CHOICE). -/
def openFetch (s : State) (e : Nat) : State :=
  match fetchCtx s e, freeCtx s with
  | none, some n =>
    let g := reg s Obj.endpointGrant
    if s.net.pool < g then s
    else
      let (nonce, s) := takeFree s
      let (psn, s) := takeFree s
      let c : Ctx := { num := n, plan := false, peer := .endpoint e, kind := 2, credit := g, opening := true, opens := 1
                       nonce := nonce.toNat, limit := g, ackedLimit := g, since := s.clk
                       sendPsn := psn.toNat, initPsn := psn.toNat }
      sendOpen (addCtx s c) c
  | _, _ => s

/-- A fetch request message (R393). -/
def fetchRequest (s : State) (f : Fetch) (req : Nat) : List Byte :=
  let a := fetchEntry s s.net.fetchFor f.entry
  beBytes 4 req ++ beBytes 4 0 ++ beBytes 8 (readLE s a 8) ++ beBytes 8 (readLE s (a + 8) 8)
    ++ beBytes 4 (readLE s (a + 0x10) 4) ++ beBytes 4 (s.net.fetchFor % 2 ^ 32)

/-- One shard's fetch changed. -/
def modFetch (s : State) (i : Nat) (f : Fetch → Fetch) : State :=
  modNet s fun x => { x with fetches := x.fetches.map fun y => if y.entry = i then f y else y }

/-- A shard requested from its endpoint (R394). -/
def sendFetch (s : State) (f : Fetch) : State :=
  let s := openFetch s f.endpoint
  let req := s.net.fetchId
  let s := modNet s fun x => { x with fetchId := (x.fetchId + 1) % 2 ^ 32 }
  let s := modFetch s f.entry fun y => { y with sent := y.sent + 1, at_ := s.clk, reqId := req }
  match fetchCtx s f.endpoint with
  | some c => sendMessage s c.num 2 0 (fetchRequest s f req)
  | none => s

/-- Requests sent while fewer than 256 are outstanding, in ascending entry order (R394). -/
def fillFetches (s : State) : State :=
  let out := (s.net.fetches.filter fun f => f.sent != 0 && !f.done).length
  let next := (s.net.fetches.filter fun f => f.sent == 0).take (256 - out)
  next.foldl sendFetch s

/-- The service begins the shards of a step (R11, R394). -/
def startFetches (s : State) (step : Nat) : State :=
  let l := if s.mode = .train ∧ s.net.fetchSteps ≠ 0 then
      (List.range s.net.shards).map fun i =>
        ({ entry := i, endpoint := readLE s (fetchEntry s step i + 0x14) 2 } : Fetch)
    else []
  fillFetches (modNet s fun x => { x with fetchFor := step, fetches := l, fetchDone := l.isEmpty })

/-- The endpoint of the next try: after 2 further failures ALT and the endpoint of the table alternate (R394). -/
def nextEndpoint (s : State) (f : Fetch) (fails : Nat) : Nat :=
  let e := readLE s (fetchEntry s s.net.fetchFor f.entry + 0x14) 2
  let alt := fieldLE (regBytes s (Obj.endpoint + e)) 0x14 2
  if fails < 3 ∨ alt = 0xFFFF then f.endpoint else if f.endpoint = e then alt else e

/-- A request that failed is sent again (R394). -/
def retryFetch (s : State) (f : Fetch) (code : Nat) : State :=
  let n := f.fails + 1
  let e := nextEndpoint s f n
  let s := modFetch (bump s Obj.fetchRetries 1) f.entry fun y => { y with fails := n, endpoint := e, code := code }
  sendFetch s { f with fails := n, endpoint := e }

/-- The input-log payload of a shard (R394, log 50: DESIGN CHOICE). -/
def shardEntry (s : State) (f : Fetch) (seed crc : Nat) : List Byte :=
  let a := fetchEntry s s.net.fetchFor f.entry
  leBytes 8 s.net.fetchFor ++ leBytes 4 f.entry ++ leBytes 8 (readLE s a 8) ++ leBytes 8 (readLE s (a + 8) 8)
    ++ leBytes 4 (readLE s (a + 0x10) 4) ++ leBytes 8 seed ++ leBytes 4 crc

/-- A replay mismatch (R445, R394): fault 0x11. -/
def replayMismatch (s : State) : State :=
  reportFault (bump s Obj.replayMismatch 1) 0x11 1 0 eDIVERGE 0xFF 0

/-- A whole shard: its log entry, or in a replay the comparison with the entry it has (R394, R443). -/
def shardDone (s : State) (f : Fetch) (seed crc : Nat) : State :=
  let e := shardEntry s f seed crc
  let old := (loggedAt s 1 s.net.fetchFor).find? fun b => fieldLE b 8 4 == f.entry
  let s := modFetch s f.entry fun y => { y with done := true, code := 0 }
  let s := match old with
    | some b => if b.take 44 = e then s else replayMismatch s
    | none => appendLog s 1 s.net.fetchFor e
  let s := modNet s fun x => { x with fetchDone := x.fetches.all Fetch.done }
  if s.net.fetchDone ∧ s.net.fetchFor = s.job.step then startFetches s (s.job.step + 1) else fillFetches s

/-- The first message of the inbox that satisfies a condition, taken out of it. -/
def takeMessage (s : State) (p : InMsg → Bool) : Option (InMsg × State) :=
  match s.net.inbox.findIdx? p with
  | none => none
  | some i => (s.net.inbox[i]?).map fun m => (m, modNet s fun x => { x with inbox := x.inbox.eraseIdx i })

/-- FETCH_RESPONSE (R393, R394): the first whole response is checked; its shard is fetched, or asked for again. -/
def execFetchResponse (s : State) : Host.Outcome State Fault Refusal :=
  match takeMessage s fun m => m.kind == 3 with
  | none => .next s
  | some (m, s) =>
    match fetchOf s (fieldBE m.bytes 0 4) with
    | none => .next s
    | some f =>
      let a := fetchEntry s s.net.fetchFor f.entry
      let data := m.bytes.drop 24
      if byteAt m.bytes 4 ≠ 0 then .next (retryFetch s f (byteAt m.bytes 4))
      else if data.length ≠ readLE s (a + 0x10) 4 then .next (retryFetch s f eRANGE)
      else if fieldBE m.bytes 0x10 4 ≠ (crc32c data).toNat then .next (retryFetch (bump s Obj.fetchCrcErr 1) f 0)
      else .next (shardDone s f (fieldBE m.bytes 8 8) (fieldBE m.bytes 0x10 4))

/-- FETCH_TIMEOUT (R394): a request is not complete within FETCH_TIMEOUT, or its context was closed. -/
def execFetchTimeout (entry : Nat) (late : Bool) (s : State) : Host.Outcome State Fault Refusal :=
  match s.net.fetches.find? fun f => f.entry == entry && f.sent != 0 && !f.done with
  | none => .next s
  | some f =>
    let out := elapsed s f.at_ (reg s Obj.fetchTimeout)
    if !out && (fetchCtx s f.endpoint).isSome then .next s
    else if out && late then .next (lateAccept s 6)
    else .next (retryFetch s f eTIMEOUT)

/-! ### Serving requests (R396 to R398) -/

/-- A message as a serving request. -/
def InMsg.request (m : InMsg) : ServeReq := { ctx := m.ctx, bytes := m.bytes, serial := m.serial }

/-- The first whole serving request that satisfies a condition on its operation joins those of the next step, or of the
one after it when it was completed after the admission phase had closed (R397). -/
def admitRequest (s : State) (op : Nat → Bool) : State :=
  if s.mode ≠ .serve then s
  else match takeMessage s fun m => m.kind == 4 && op (byteAt m.bytes 0) with
    | none => s
    | some (m, s) =>
      modNet s fun x => if m.forStep ≤ s.job.step + 1 then { x with admits := x.admits ++ [m.request] }
        else { x with admitsLater := x.admitsLater ++ [m.request] }

/-- The requests that were complete when the admission phase closed and that no command has taken yet are admitted too, at the
boundary (R397). -/
def sweepRequests (s : State) : State :=
  if s.mode ≠ .serve then s
  else
    let due := fun (m : InMsg) => m.kind == 4 && decide (m.forStep ≤ s.job.step + 1)
    modNet s fun x => { x with inbox := x.inbox.filter fun m => !due m, admits := x.admits ++ (x.inbox.filter due).map InMsg.request }

/-- The requests admitted to the next step in the order of their completion (R397). -/
def admitted (s : State) : List ServeReq := sortBy (fun a b => decide (a.serial ≤ b.serial)) s.net.admits

/-- SERVING_REQUEST_ADMIT (R396, R397). A request of an operation that does not exist is taken here too, to be answered
with E_RANGE at the boundary. -/
def execServingRequestAdmit (s : State) : Host.Outcome State Fault Refusal :=
  .next (admitRequest s fun o => o == 0 || decide (2 < o))

/-- SERVING_REQUEST_FORK (R396, R397). -/
def execServingRequestFork (s : State) : Host.Outcome State Fault Refusal := .next (admitRequest s (· == 1))

/-- SERVING_REQUEST_RETIRE (R396, R397). -/
def execServingRequestRetire (s : State) : Host.Outcome State Fault Refusal := .next (admitRequest s (· == 2))

/-- The edit that a serving request asks for (R396), none for an operation that does not exist: its page list lies at the slot of the entry that it receives. -/
def serveEdit (s : State) (b : List Byte) : Option KvEdit :=
  let id := fieldBE b 8 8 % 2 ^ 40
  let slot := reg s Obj.kvPlSlot
  let base := s.kv.pageLists + (freeEntry s).getD 0 * 4 * slot
  match byteAt b 0 with
  | 0 => some (.admitSeq id base slot (byteAt b 1))
  | 1 => some (.fork (fieldBE b 0x10 8 % 2 ^ 40) id (fieldBE b 0x18 4) base slot (byteAt b 1))
  | 2 => some (.retire id)
  | _ => none

/-- A response record (R398). -/
def responseRecord (id code : Nat) (last : Bool) (pos token : Nat) : List Byte :=
  beBytes 8 (id + code * 2 ^ 40 + (if last then 2 ^ 48 else 0)) ++ beBytes 4 pos ++ beBytes 4 token

/-- A serving request's edit applied at the boundary (R397): the prompt goes to the request region, and a refusal is
answered (log 53: DEDUCED). -/
def serveOne (acc : State × List Nat) (q : ServeReq) : State × List Nat :=
  let (s, freed) := acc
  let b := q.bytes
  let entry := (freeEntry s).getD 0
  let id := fieldBE b 8 8 % 2 ^ 40
  match (serveEdit s b).elim (Except.error eRANGE) (applyEdit s) with
  | .error c => (modNet s fun x => { x with refusals := x.refusals ++ [(q.ctx, responseRecord id c false 0 0)] }, freed)
  | .ok (t, f) =>
    if byteAt b 0 = 2 then
      (modNet t fun x => { x with served := x.served.filter fun y => y.id != id }, freed ++ f)
    else
      let n := fieldBE b 4 4
      let t := writeBytes t (t.kv.requestRegion + entry * t.kv.requestSlot)
        ((leBytes 4 n ++ (List.range n).flatMap fun i => leBytes 4 (fieldBE b (32 + 4 * i) 4)).take t.kv.requestSlot)
      (modNet t fun x => { x with served := x.served ++ [{ entry := entry, id := id, ctx := q.ctx, maxNew := fieldBE b 0x1C 4 }] }
      , freed ++ f)

/-- The sequences whose next step would need a page beyond PT_CAP (R396). -/
def overCap (s : State) (x : Served) : Bool :=
  let q := seqAt s x.entry
  q.state != 0 && decide ((q.len + q.append + 63) / 64 > q.ptCap)

/-- The response records of the tokens sampled in the step, by entry and position, each with its context, and the served
sequences that go on (R398): one that has reached MAXNEW is finished. -/
def tokenRecords (s : State) : List (Nat × List Byte) × List Served :=
  let toks := sortBy (fun a b => decide (a.entry < b.entry ∨ (a.entry = b.entry ∧ a.pos ≤ b.pos))) s.kv.sampled
  (sortBy (fun a b => decide (a.entry ≤ b.entry)) s.net.served).foldl (fun (acc : List (Nat × List Byte) × List Served) (x : Served) =>
    let mine := toks.filter fun t => t.entry == x.entry
    let recs := (mine.zipIdx).map fun (t, i) =>
      (x.ctx, responseRecord x.id 0 (x.maxNew != 0 && decide (x.made + i + 1 ≥ x.maxNew)) t.pos t.token)
    let made := x.made + mine.length
    (acc.1 ++ recs, if x.maxNew ≠ 0 ∧ made ≥ x.maxNew then acc.2 else acc.2 ++ [{ x with made := made }])) ([], [])

/-- The last records of sequences that would need a page beyond PT_CAP (R396). -/
def capRecords (s : State) : List (Nat × List Byte) :=
  (sortBy (fun a b => decide (a.entry ≤ b.entry)) (s.net.served.filter (overCap s))).map fun x =>
    (x.ctx, responseRecord x.id eRANGE true (seqAt s x.entry).len 0)

/-- Sequences that would need a page beyond PT_CAP are retired (R396): the state and the pages freed. -/
def retireCapped (s : State) : State × List Nat :=
  let above := s.net.served.filter (overCap s)
  let s := modNet s fun x => { x with served := x.served.filter fun y => !above.contains y }
  above.foldl (fun (acc : State × List Nat) x =>
    let r := retireSeq acc.1 x.entry (seqAt acc.1 x.entry)
    (r.1, acc.2 ++ r.2)) (s, [])

end Sys2Proof.Machine
end

