-- ==== Sys2Proof/Machine/Image.lean ====
section
/-!
DEFINITION. Schedule images: what a load and a swap install, and the rules that refuse an image (R282 to R293, R301, R316,
R317, R342, R346, R375, R388, R408 to R412, R435, R439, R441, R489, R490, R559).
-/
namespace Sys2Proof.Machine

/-! ### What an image installs -/

/-- A 16-byte phase entry (R412). -/
def PhaseEntry.bytes (p : PhaseEntry) : List Byte :=
  leBytes 4 p.start ++ leBytes 4 p.base ++ leBytes 4 p.reserve ++ leBytes 1 p.kind ++ leBytes 1 (if p.timed then 1 else 0)
    ++ leBytes 2 0

/-- The digest of the phase table and the step period (R413). -/
def phaseDigestOf (img : Image) : List Byte := sha256 (img.phases.flatMap PhaseEntry.bytes ++ leBytes 8 img.stepPeriod)

/-- A list of values written to the elements of an array object. -/
def setElems (s : State) (k : Nat) (l : List Nat) : State := (l.zipIdx).foldl (fun t (v, i) => setReg t (k + i) v) s

/-- The elements of an array object back at their defaults. -/
def clearElems (s : State) (k n : Nat) : State :=
  { s with regs := s.regs.filter fun r => !(decide (k ≤ r.1 ∧ r.1 < k + n)) }

/-- The objects that an image sets (R342, R346, R402, R412, R426, R458, R237, R217). -/
def installObjects (s : State) (img : Image) : State :=
  let s := clearElems (clearElems s Obj.phaseEntry 1024) Obj.mirrorRange 16
  let s := setElems s Obj.phaseEntry (img.phases.map fun p => ofLE p.bytes)
  let s := setReg (setReg s Obj.phaseCount img.phases.length) Obj.stepPeriod img.stepPeriod
  let s := setReg s Obj.phaseDigest (ofLE (phaseDigestOf img))
  let s := setReg (setReg s Obj.jobTag img.jobTag) Obj.jobModules img.jobModules
  let s := setReg s Obj.retireReserve img.retireReserve
  let s := setElems s Obj.mirrorRange (img.mirrors.map fun m => m.1 + m.2 * 2 ^ 64)
  let s := setReg s Obj.clipThreshold img.clip
  let s := setElems s Obj.sloeBase ((img.sloeBases ++ List.replicate 6 0).take 6)
  let s := setReg (setReg s Obj.coordRank img.coord) Obj.standbyRank img.standby
  let s := setReg s Obj.buddyRank (if img.jobModules ≤ 1 then 0xFFFF else img.buddies.getD (reg s Obj.ownRank) 0xFFFF)
  let s := setReg (setReg s Obj.logCapacity img.logBytes) Obj.kvPlSlot (if img.pages = 0 then 0 else img.plSlot)
  setReg s Obj.imageLoadedHash (reg s Obj.imageHash)

/-- Numerics control as the image carries it (R180); the ring is set apart. -/
def installNum (s : State) (img : Image) : State :=
  { s with num := { s.num with
      trackers := img.trackers, trackerTables := img.trackerTables, shadowAreas := img.shadowAreas, shadowSlot := img.shadowSlot
      layers := img.layers, microBatches := img.microBatches, weightTrackers := img.weightTrackers
      rungs := [], tiles := [], accepted := [], samples := [], norm := {}, hyperDone := [], moments := [] } }

/-- The job's tables (R282, R290, R409, R412, R559). -/
def installJob (s : State) (img : Image) : State :=
  { s with job := { s.job with
      streams := img.streams, tables := img.tables, windows := img.windows, swapAreas := img.swapAreas, opInfo := img.opInfo, slices := img.slices
      hyperBase := img.hyperBase, hyperCount := img.hyperCount, phases := img.phases } }

/-- The port's tables (R388, R392). -/
def installNet (s : State) (img : Image) : State :=
  modNet s fun x => { x with
    groups := img.groups, planBase := img.planBase, ratioPlan := img.ratioPlan
    fetchBase := img.fetchBase, fetchSteps := img.fetchSteps, shards := img.shards }

/-- The key-value memory's places (R262, R264, R396). -/
def installKv (s : State) (img : Image) : State :=
  { s with kv := { s.kv with
      pageWords := img.pageWords, freeList := img.freeList, massPlane := img.massPlane, layerRecords := img.layerRecords
      sampleRecords := img.sampleRecords, seqTable := img.seqTable, pageLists := img.pageLists
      requestRegion := img.requestRegion, requestSlot := img.requestSlot, secured := img.kvSecured } }

/-- The regions of Batten (R433, R435, R437). -/
def installRecov (s : State) (img : Image) : State :=
  modRec s fun r => { r with
    logBase := img.logBase, localBase := img.localBase, lossAt := img.lossAt
    buddies := if img.jobModules ≤ 1 then [] else img.buddies }

/-- The bytes that the load places in Thatch and local SRAM. -/
def placeBytes (s : State) (img : Image) : State := img.writes.foldl (fun t w => writeBytes t w.1 w.2) s

/-- LAYER_HEALTH and UPDATE_RATIO of layers that the image does not have read their defaults (R175, R200). -/
def dropLayers (s : State) (n : Nat) : State :=
  clearElems (clearElems s (Obj.layerHealth + n) (4096 - n)) (Obj.updateRatio + n) (4096 - n)

/-- What a load and a swap both install; the trackers go to their places in Thatch (R180). Zero maps are no longer valid
(R102). -/
def installCommon (s : State) (img : Image) : State :=
  let s := dropLayers (installObjects s img) img.layers.length
  let s := placeBytes (installRecov (installKv (installNet (installJob (installNum s img) img) img) img) img) img
  let s := storeTrackers s
  allCores.foldl (fun t l => modCore t l fun c => { c with zeroMaps := [], lines := [], windows := [], guards := [] }) s

/-- A plan context as installed (R375, R378). -/
def PlanCtx.ctx (p : PlanCtx) : Ctx :=
  Ctx.restart { num := p.num, peer := .rank p.peer, credit := p.credit, peerCredit := p.peerCredit, path := p.path, peerCtx := p.peerCtx }

/-- The plan contexts installed beside the endpoint contexts that are open (R375, R378). -/
def installContexts (s : State) (img : Image) : State :=
  countCtxs (modNet s fun x =>
    let ends := x.ctxs.filter fun c => !c.plan
    { x with ctxs := img.contexts.map PlanCtx.ctx ++ ends, colls := []
             pool := img.endpointPool - (ends.map Ctx.credit).foldl (· + ·) 0 })

/-- The version ring of a load (R202, R203): the CURRENT slot, the others FREE. -/
def installRing (s : State) (img : Image) : State :=
  let slots := (img.slots.zipIdx).map fun (b, i) =>
    if i = img.current then ({ state := .current, version := img.version, base := b } : VSlot) else { base := b }
  setReg { s with num := { s.num with slots := slots }, job := { s.job with stepVersion := img.version } }
    Obj.versionCurrent img.version

/-- The ring of a swap keeps the CURRENT slot under the index of the new image (R209). -/
def swapRing (s : State) (img : Image) : State :=
  let cur := (s.num.slots.find? fun x => x.state == .current).getD {}
  { s with num := { s.num with slots := (img.slots.zipIdx).map fun (b, i) =>
      if i = img.current then { cur with base := b } else ({ base := b } : VSlot) } }

/-- Every entry of the sequence table FREE, its copies in the four Thatches with it (R267). -/
def clearSeqs (s : State) : State :=
  let s := clearElems s Obj.seqEntry 8192
  match s.kv.seqTable with
  | none => s
  | some o => (List.finRange 4).foldl (fun t (d : Die) => clearMem t (thatchAddr d + o) (64 * 8192)) s

/-- The key-value memory empty: every page free, every entry FREE (R264 to R267, log 55: DEDUCED). -/
def clearKv (s : State) (img : Image) : State :=
  let s := clearSeqs s
  let s := setReg (setReg s Obj.kvPagesTotal img.pages) Obj.kvPagesFree img.pages
  let s := clearMem s s.kv.pageWords (8 * img.pages)
  let s := (List.range img.pages).foldl (fun t i => writeLE t (t.kv.freeList + 4 * i) 4 (img.pages - 1 - i)) s
  countSeqs { s with kv := { s.kv with runs := [], waiting := [], ran := [], sampled := [] } }

/-- The secured images, the input log and what recovery has gathered are gone (R448, R12: they stay until the next load). -/
def clearRecov (s : State) : State :=
  let r := s.recov
  let s := { s with recov := { storeDue := r.storeDue, logBase := r.logBase, localBase := r.localBase, lossAt := r.lossAt, buddies := r.buddies
                               interval := reg s Obj.secureInterval } }
  let s := setReg (setReg (setReg s Obj.localImageStep 0) Obj.securedStep 0) Obj.logBytes 0
  setElems s Obj.buddyGenStep [0, 0]

/-- No image is loaded (R490): its tables are gone, and what is read "from the image" reads as without one (R175, R217, R237,
R281). -/
def unloadImage (s : State) : State :=
  let s := clearElems (dropLayers (clearSeqs s) 0) Obj.sloeBase 6
  let s := [Obj.kvPlSlot, Obj.kvPagesTotal, Obj.kvPagesFree, Obj.kvActiveSeq, Obj.imageLoadedHash].foldl (fun t k => setReg t k 0) s
  { s with job := {}, num := {}, kv := {} }

/-- A load (R489, R490, R180, R217, R237); it takes JOB_SEED (R236), and it alone sets the modes of the groups (R328). -/
def installLoad (s : State) (img : Image) : State :=
  let s := setElems s Obj.memInterleave ((img.interleave ++ List.replicate 16 0).take 16)
  let s := dropLayers (clearRecov (installContexts (installRing (installCommon s img) img) img)) 0
  let s := { s with job := { s.job with seed := reg s Obj.jobSeed } }
  let s := clearKv s img
  modNet s fun x => { x with inbox := [], fetches := [], fetchDone := false, admits := [], admitsLater := [], served := [], refusals := [] }

/-- A swap (R209, R490): new plan contexts join those installed (log 55: DEDUCED). -/
def installSwap (s : State) (img : Image) : State :=
  let s := swapRing (installCommon s img) img
  countCtxs (modNet s fun x => { x with ctxs := x.ctxs ++
    (img.contexts.map PlanCtx.ctx).filter fun c => !(x.ctxs.any fun y => y.num == c.num) })

/-! ### Which slots an operation names (R286) -/

/-- Required and optional descriptor slots of an opcode, and which of them are written (R286). -/
def argUse : Opcode → List Nat × List Nat × List Nat
  | .tiedsum => ([0, 1], [], [0])
  | .convert => ([0, 1], [2, 3, 4], [1, 3, 4])
  | .append => ([0], [], [])
  | .sample => ([0, 1], [], [1])
  | .optstep => ([0, 1, 2, 3], [4, 5, 6], [1, 2, 3, 4])
  | .copy => ([0, 1], [], [1])
  | .prefetch => ([0, 1], [], [1])
  | .save => ([0, 1], [2], [1, 2])  -- a plane for a scaled source (R211), by `formatsOk`
  | .load => ([0, 1], [2], [1])
  | .fill => ([0], [1], [0])
  | .coll => ([], [0, 1, 2], [1, 2])
  | .norm => ([0, 1], [], [1])
  | .ctxsave => ([], [0, 1, 2, 3, 4, 5, 6, 7], [])
  | _ => ([], [], [])

/-- Whether a body has form B (R285). -/
def formB : Opcode → Bool
  | .fwd => true
  | .bwd => true
  | .bpair => true
  | .attn => true
  | _ => false

/-- Descriptor indices that a product block names. -/
def ProdBlock.descs (b : ProdBlock) : List Nat :=
  (b.status :: b.stage :: b.splits.flatMap fun x =>
    [x.streamed, x.stationary, x.start, x.acc0, x.acc1, x.zeroMap, x.mask, x.hip, x.wide, x.saved]).filter (· != noDesc)

/-- Descriptor indices that an attention block names. -/
def AttnBlock.descs (b : AttnBlock) : List Nat :=
  [b.q, b.qpos, b.k, b.v, b.acc0, b.acc1, b.out, b.lse, b.status].filter (· != noDesc)

/-- The product block of an operation as it stands in the core's local SRAM. -/
def blockAt (s : State) (l : Core) (w : BitVec 256) : ProdBlock := parseProd (readBytes s (sramAddr l + opBlock w) prodBytes)

/-- Descriptor indices that the list region of a tied sum holds (R286). -/
def tiedUses (s : State) (l : Core) (w : BitVec 256) : List Nat :=
  (List.range (opImm w 4 0)).map fun u => readLE s ((descAt s l (opArg w 1)).base + 2 * u) 2

/-- Descriptor indices that an operation names. -/
def opDescs (s : State) (l : Core) (w : BitVec 256) (op : Opcode) : List Nat :=
  if op = .attn then (attnBlock s l w).descs
  else if formB op then (blockAt s l w).descs
  else if op = .tiedsum then [opArg w 0, opArg w 1] ++ tiedUses s l w
  else let u := argUse op; ((u.1 ++ u.2.1).map (opArg w)).filter (· != noDesc)

/-! ### The rules of one operation -/

/-- R284, R285: counts of tokens, slots that the opcode does not use, and slots that it needs. -/
def headerOk (w : BitVec 256) (op : Opcode) : Bool :=
  let u := argUse op
  decide (opNWait w ≤ 4) && decide (opNSet w ≤ 2)
  && (formB op || (List.range 8).all fun k =>
      if u.1.contains k then opArg w k != noDesc else u.2.1.contains k || opArg w k == noDesc)

/-- R287: listed immediates in their ranges. -/
def immOk (s : State) (w : BitVec 256) (op : Opcode) (i len : Nat) : Bool :=
  match op with
  | .tiedsum => decide (2 ≤ opImm w 4 0 ∧ opImm w 4 0 ≤ 16)
  | .convert => decide (opImm w 15 12 ≤ 8) && opImm w 19 16 != 15
  | .fill => [1, 2, 5].contains (opImm w 3 0) && opImm w 5 4 != 3
  | .norm => opImm w 1 0 != 3
  | .save => opImm w 1 0 != 3
  | .prefetch => decide (1 ≤ opImm w 15 0 ∧ i + opImm w 15 0 < len)
  | .pmark => decide (opImm w 3 0 ≤ 4 ∧ opImm w 5 4 ≤ 2) && (opImm w 3 0 > 1 || decide (opImm w 31 16 < s.job.phases.length))
  | _ => true

/-- Operand formats of Reed (R78) and Slate (R114), and equal block sizes (R55). -/
def pairOk (op : Opcode) (a b : Desc) : Bool :=
  let grid := [Format.b2, .b3, .b4, .s4, .u4]
  let fits := match op with
    | .fwd => (grid.contains a.fmt && grid.contains b.fmt) || (a.fmt == .k8 && b.fmt == .k8)
    | _ => ([Format.k8, .l8].contains a.fmt && [Format.k8, .l8].contains b.fmt) || (a.fmt == .w16 && b.fmt == .w16)
  fits && a.blk == b.blk

/-- The spans that an index names: the tensor or region and its scale plane, in every slot of the ring when it is
VERSIONED (R292). -/
def namedSpans (s : State) (l : Core) (i : Nat) : List (Nat × Nat) :=
  if i = noDesc then []
  else
    let d := descAt s l i
    (if d.versioned then s.num.slots.map VSlot.base else [0]).flatMap fun o =>
      [(o + d.base, d.spanBytes), (o + d.splane, d.planeBytes)]

/-- Whether no span of one list meets a span of the other. -/
def apart (x y : List (Nat × Nat)) : Bool := x.all fun a => y.all fun b => !overlaps a.1 a.2 b.1 b.2

/-- Operand sources of a split entry (R87, R96, R129). -/
def SplitArgs.sources (x : SplitArgs) : List Nat :=
  [x.streamed, x.stationary, x.zeroMap, x.mask, x.hip, x.wide, x.saved]

/-- R87, R127: S, A0 and A1 of a split lie in the core's local SRAM and overlap neither one another nor an operand source of any
split, nor do A0 and A1 overlap a region of another split. -/
def placesOk (s : State) (l : Core) (b : ProdBlock) : Bool :=
  let at_ := fun i => namedSpans s l i
  let local_ := fun i => i == noDesc || windowOf (descAt s l i).base == .sram l
  let sources := b.splits.flatMap fun x => x.sources.flatMap at_
  b.splits.zipIdx.all fun (x, i) =>
    local_ x.start && local_ x.acc0 && local_ x.acc1
    && apart (at_ x.start) (at_ x.acc0) && apart (at_ x.start) (at_ x.acc1) && apart (at_ x.acc0) (at_ x.acc1)
    && apart (at_ x.start ++ at_ x.acc0 ++ at_ x.acc1) sources
    && b.splits.zipIdx.all fun (y, j) => i == j ||
      apart (at_ x.acc0 ++ at_ x.acc1) (at_ y.start ++ at_ y.acc0 ++ at_ y.acc1)

/-- Rows that a staging region holds (R126): those of a tensor, or the whole rows of the streamed operand that the bytes
of a region take. -/
def stageHolds (stage streamed : Desc) : Nat :=
  if stage.kind = 1 then (if streamed.rowBytes = 0 then 0 else stage.dim0 / streamed.rowBytes) else stage.rows

/-- The shapes of each opcode (R288). -/
def shapeOk (op : Opcode) (shape : Nat) : Bool :=
  match op with
  | .fwd => decide (shape ≤ 3)
  | .bwd => shape == 8 || shape == 9
  | _ => shape == 10

/-- Limits of a product block: R79, R87, R92, R114, R115, R126, R127, R128, R288. The two quarters of a row stream of F64x4 have
the same source when their descriptors say the same (log 136: DEDUCED). -/
def productOk (s : State) (l : Core) (w : BitVec 256) (op : Opcode) : Bool :=
  let b := blockAt s l w
  let d := fun i => descAt s l i
  let lanes := shapeLanes b.shape
  let stream := fun i => d (b.splits.getD i {}).streamed
  shapeOk op b.shape
  && decide (1 ≤ b.m ∧ b.m ≤ 2048 ∧ 1 ≤ b.ncb ∧ 1 ≤ b.nkt ∧ 1 ≤ b.klen ∧ 1 ≤ b.n)
  && decide (b.klen ≤ b.nkt * lanes) && decide ((b.nkt - 1) * lanes < b.klen)
  && decide (b.n ≤ b.ncb * 256) && decide ((b.ncb - 1) * 256 < b.n)
  && (op == .fwd || decide (b.deriv < 8)) && (op != .fwd || b.deriv == 0)
  && !([2, 6, 7].contains b.deriv && (w32IsNan b.alpha || w32IsInf b.alpha))
  && b.splits.zipIdx.all (fun (x, i) =>
      x.streamed != noDesc && x.acc0 != noDesc && x.acc1 != noDesc && (x.stationary != noDesc || (op == .bpair && i == 1))
      && pairOk op (d x.streamed) (if op == .bpair && i == 1 then stream 0 else d x.stationary))
  && placesOk s l b
  && (b.shape != 2 || (stream 0 == stream 1 && stream 2 == stream 3))
  && (b.shape != 9 || (b.stage != noDesc && decide (b.m ≤ stageHolds (d b.stage) (stream 0))))

/-- An attention block's limits (R55, R244, R245, R262, R285, R289): a paged one has the block size and the head dimension of its
layer record. -/
def attnOk (s : State) (l : Core) (w : BitVec 256) : Bool :=
  let b := attnBlock s l w
  let q := descAt s l b.q
  let keys := [Format.k8, .b2, .b3, .b4, .s4, .u4]
  let fits := fun (x : Desc) => keys.contains x.fmt && x.blk == q.blk && x.dim0 == q.dim0 && x.kind == 0
  let r := lrecAt s l.die b.lrec
  (if b.paged then b.k == noDesc && b.v == noDesc && decide (b.seq < 8192 ∧ b.lrec < 1024 ∧ b.group < r.ngrp ∧ b.head < r.hg)
      && r.blk == q.blk && r.d == q.dim0
   else b.k != noDesc && b.v != noDesc && fits (descAt s l b.k) && fits (descAt s l b.v) && decide (1 ≤ b.nk))
  && [b.q, b.qpos, b.acc0, b.acc1, b.out, b.lse, b.status].all (· != noDesc)
  && q.fmt == .k8 && q.kind == 0 && decide (16 ≤ q.dim0 ∧ q.dim0 ≤ 128 ∧ q.dim0 % 16 = 0) && decide (1 ≤ b.mq ∧ b.mq ≤ 128)

/-- The other formats that an opcode's operands may have: R48, R49, R77, R211, R215, R278, R310; R148's tracker; and the slots that an
operation needs for what it does (R211, R231, R285, R389). -/
def formatsOk (s : State) (l : Core) (w : BitVec 256) (op : Opcode) : Bool :=
  let d := fun k => descAt s l (opArg w k)
  match op with
  | .convert =>
    let f := (d 1).fmt
    !(([Format.m8, .v8, .rm8] : List Format).contains f)
    && (!f.isScaled || decide (opImm w 11 0 < (s.num.trackers.getD l.cluster.val []).length))
  | .save => [Format.b2, .b3, .b4, .s4, .u4, .k8, .l8, .w16].contains (d 0).fmt
    && (!(d 0).fmt.isScaled || opArg w 2 != noDesc) && (opImm w 1 0 != 2 || [Format.k8, .l8].contains (d 0).fmt)
  | .load => [Format.b2, .b3, .b4, .s4, .u4, .k8, .l8, .w16].contains (d 1).fmt
    && (!(d 1).fmt.isScaled || opArg w 2 != noDesc)
  | .fill => opImm w 3 0 == 1 || opArg w 1 != noDesc
  | .coll =>
    let e := planAt s (opImm w 15 0)
    let has := fun k => opArg w k != noDesc
    (opFlags w % 2 == 0 || has 2) && (s.net.ratioPlan == some (opImm w 15 0) || match e.kind with
      | 3 => has (if e.self = e.peer then 0 else 1)
      | 4 => has 0
      | 5 => has 1
      | 6 => true
      | _ => has 0 && has 1)
  | .optstep => blockSize (d 3).blk == 64 && (opArg w 4 == noDesc || blockSize (d 4).blk == 64)
  | .sample => (d 0).kind == 0 && (d 0).fmt == .w32 && decide (1 ≤ (d 0).dim0 ∧ (d 0).dim0 ≤ 16777216)
  | .copy => opFlags w % 2 == 0 || !(([Format.b2, .b3] : List Format).contains (d 0).fmt)
  | _ => true

/-- Whether an index names a descriptor of the table that passes R293: its spans lie in the job's windows, in every slot of the
ring when it is VERSIONED. -/
def namedOk (s : State) (l : Core) (tensorScale : Bool) (i : Nat) : Bool :=
  decide (i < 4095 ∧ i < (s.job.tables.getD l.val (0, 0)).2) && (descAt s l i).formOk tensorScale
  && (namedSpans s l i).all fun x => covered s.job.windows x.1 x.2

/-- Descriptor indices that an operation writes (R286, R288, R289). -/
def writtenDescs (s : State) (l : Core) (w : BitVec 256) : List Nat :=
  match opcodeOf w with
  | none => []
  | some op =>
    (if op = .attn then let b := attnBlock s l w; [b.acc0, b.acc1, b.out, b.lse, b.status]
     else if formB op then let b := blockAt s l w; b.status :: b.splits.flatMap fun x => [x.acc0, x.acc1, x.zeroMap]
     else (argUse op).2.2.map (opArg w)).filter (· != noDesc)

/-- One operation's rules (R285, R287, R293); the status window is no destination (R327). -/
def opOk (s : State) (l : Core) (i len : Nat) (w : BitVec 256) : Bool :=
  match opcodeOf w with
  | none => false
  | some op =>
    headerOk w op && immOk s w op i len
    && ((opDescs s l w op).all fun i => namedOk s l (op != .optstep && !(op == .convert && i == opArg w 1)) i)
    && ((writtenDescs s l w).all fun i => windowOf (descAt s l i).base != .status && windowOf (descAt s l i).splane != .status)
    && (match op with
        | .fwd => productOk s l w op
        | .bwd => productOk s l w op
        | .bpair => productOk s l w op
        | .attn => attnOk s l w
        | _ => formatsOk s l w op)

/-! ### The rules of a stream -/

/-- R301: each token waited on is set by an earlier operation of the stream, or by a SIGNAL. -/
def tokensOk (streams : List (List (BitVec 256))) (l : Nat) (ops : List (BitVec 256)) : Bool :=
  let signals := streams.flatMap fun st => (st.filter fun w => opcodeOf w == some .signal && opImm w 6 0 == l).map fun w => opImm w 15 8
  (ops.zipIdx).all fun (w, i) => (opWaits w).all fun t =>
    signals.contains t || (ops.take i).any fun v => (opSets v).contains t

/-- The marks of a kind in a stream. -/
def marksOf (ops : List (BitVec 256)) (kind : Nat) : List (BitVec 256) :=
  ops.filter fun w => opcodeOf w == some .pmark && opImm w 3 0 == kind

/-- R316: a stream ends with exactly one step close. -/
def closeOk (ops : List (BitVec 256)) : Bool :=
  (marksOf ops 4).length == 1 && (match ops.getLast? with | some w => opcodeOf w == some .pmark && opImm w 3 0 == 4 | none => false)

/-- R205: opens and closes of micro-batches pair. -/
def pairsOk (ops : List (BitVec 256)) : Bool :=
  let mbs := fun k => (marksOf ops k).map fun w => opImm w 47 32
  let o := mbs 2
  let c := mbs 3
  (o ++ c).eraseDups.all fun m => o.count m == c.count m

/-- R317: context saves stand before the first phase open. -/
def savesOk (ops : List (BitVec 256)) : Bool :=
  let first := ops.findIdx fun w => opcodeOf w == some .pmark && opImm w 3 0 == 0
  (ops.drop first).all fun w => opcodeOf w != some .ctxsave

/-- Spans that an operation writes, in every slot of the ring when a descriptor is VERSIONED (R292). -/
def writtenSpans (s : State) (l : Core) (w : BitVec 256) : List (Nat × Nat) := (writtenDescs s l w).flatMap (namedSpans s l)

/-- Whether no operation of a list writes a span. -/
def unwritten (s : State) (l : Core) (ops : List (BitVec 256)) (a n : Nat) : Bool :=
  ops.all fun v => (writtenSpans s l v).all fun x => !overlaps x.1 x.2 a n

/-- Whether two descriptors name the same bytes: the same base, in the same slot of the ring. -/
def sameBase (a b : Desc) : Bool := a.base == b.base && a.versioned == b.versioned && (!a.versioned || a.lag == b.lag)

/-- R147: no operation between a conversion and the last forward product that streams its result writes the conversion's
source, and none between a forward product of the ladder and the first conversion that reads its result writes that
result, which the sampler may draw. -/
def pinsOk (s : State) (l : Core) (ops : List (BitVec 256)) : Bool :=
  (ops.zipIdx).all fun (w, i) =>
    match opcodeOf w with
    | some .convert =>
      let src := descAt s l (opArg w 0)
      let dst := descAt s l (opArg w 1)
      let uses := (ops.zipIdx).filter fun (v, j) =>
        decide (i < j) && opcodeOf v == some .fwd && ((blockAt s l v).splits.any fun x => sameBase (descAt s l x.streamed) dst)
      (match uses.getLast? with
       | none => true
       | some (_, j) => unwritten s l ((ops.take j).drop (i + 1)) src.base src.spanBytes)
    | some .fwd =>
      let b := blockAt s l w
      let drawn := s.job.opInfo.any fun o => o.core == l.val && o.idx == i
      if !drawn || !b.final then true
      else b.splits.all fun x =>
        let out := descAt s l (if b.nkt % 2 = 1 then x.acc0 else x.acc1)
        let reads := (ops.zipIdx).filter fun (v, j) =>
          decide (i < j) && opcodeOf v == some .convert
            && (let src := descAt s l (opArg v 0); overlaps src.base src.spanBytes out.base out.spanBytes)
        match reads.head? with
        | none => true
        | some (_, j) => unwritten s l ((ops.take j).drop (i + 1)) out.base out.spanBytes
    | _ => true

/-- R269: every sequence that attention reads has its walk ended. -/
def walksOk (s : State) : Bool :=
  let blocks := allCores.flatMap fun l => ((streamOps s l).filter fun w => opcodeOf w == some .attn).map fun w => attnBlock s l w
  (blocks.filter AttnBlock.paged).all fun b => blocks.any fun c => c.paged && c.walkEnd && c.seq == b.seq

/-! ### The rules of the whole image -/

/-- Ascending windows that do not overlap, aligned and mapped (R559). -/
def windowsOk : Nat → List (Nat × Nat) → Bool
  | _, [] => true
  | at_, (a, n) :: r =>
    a % 256 == 0 && n % 256 == 0 && decide (at_ ≤ a) && decide (0 < n)
    && (windowOf a != .unmapped && windowOf (a + n - 1) == windowOf a) && windowsOk (a + n) r

/-- Whether some window overlaps a span. -/
def inWindows (w : List (Nat × Nat)) (a n : Nat) : Bool := w.any fun x => overlaps x.1 x.2 a n

/-- Mirrored ranges (R342): at most 16, in groups 0 to 7 of equal modes, multiples of 32 KiB, their mirrors outside every
window. -/
def mirrorsOk (img : Image) : Bool :=
  decide (img.mirrors.length ≤ 16) && img.mirrors.all fun (a, n) =>
    let k := a / 2 ^ 36
    let full := img.interleave.getD k 0 == 0
    a % 32768 == 0 && n % 32768 == 0 && decide (0 < n) && decide (k < 8 ∧ (a + n - 1) / 2 ^ 36 = k)
    && img.interleave.getD k 0 == img.interleave.getD (k + 8) 0
    && (List.range ((n + 32767) / 32768)).all fun i =>
        let m := mirrorOf full (a + 32768 * i)
        !inWindows img.windows (m / 32768 * 32768) 32768

/-- The reserve (R346). -/
def reserveOk (s : State) (img : Image) : Bool :=
  let r := img.retireReserve
  decide (r ≤ 7) && (r == 0 || img.interleave.getD 15 0 == 0)
  && !inWindows img.windows (memEnd - r * 0x000200000000) (r * 0x000200000000)
  && decide ((retirements s).length ≤ (r + 1) / 2)

/-- The phase table (R412). -/
def phasesOk (img : Image) : Bool :=
  let p := img.phases
  decide (1 ≤ p.length ∧ p.length ≤ 1024)
  && (p.zip (p.drop 1)).all (fun (a, b) => decide (a.start ≤ b.start))
  && p.all fun x => decide (x.start + x.base + x.reserve ≤ img.stepPeriod ∧ x.kind ≤ 5)

/-- Trackers (R52, R148, R150, R156, R160): each cluster's table and the planes lie in its die's Thatch. -/
def trackersOk (img : Image) : Bool :=
  (img.trackers.zipIdx).all fun (l, c) => decide (l.length ≤ 4096)
    && (l.isEmpty || (img.trackerTables[c]?).any fun o => decide (o + 192 * l.length ≤ thatchSize))
    && l.all fun t => recordOk t t.bytes && decide (1 ≤ t.blocks.length ∧ t.blocks.length ≤ 4096)
        && decide (t.blockPlane + 2 * t.blocks.length ≤ thatchSize)
        && (t.omode % 4 != 2 || decide (t.chanPlane + 2 * t.chans.length ≤ thatchSize))

/-- The open references of one core's marks of a lag, after and at most during a stream that begins with n (R205). -/
def markRefs (ops : List (BitVec 256)) (lag n : Nat) : Nat × Nat :=
  ops.foldl (fun acc w =>
    if opcodeOf w != some .pmark || opImm w 5 4 != lag then acc
    else if opImm w 3 0 == 2 then (acc.1 + 1, max acc.2 (acc.1 + 1))
    else if opImm w 3 0 == 3 then (acc.1 - 1, acc.2) else acc) (n, n)

/-- The most references that one slot could hold in a step in which it lags by 0, 1, 2 … in turn (R205): each core adds the most that
its marks leave open at once. -/
def peakRefs (streams : List (List (BitVec 256))) : Nat :=
  let r := (List.range 3).foldl (fun (acc : List Nat × Nat) lag =>
    let now := (streams.zipIdx).map fun (ops, i) => markRefs ops lag (acc.1.getD i 0)
    (now.map Prod.fst, max acc.2 (now.map Prod.snd).sum)) ([], 0)
  r.2

/-- The ring (R202, R204, R205). -/
def ringOk (s : State) (img : Image) : Bool :=
  let nv := img.slots.length
  let marks := allCores.flatMap fun l => marksOf (streamOps s l) 2 ++ marksOf (streamOps s l) 3
  let lags := marks.map (fun w => opImm w 5 4) ++ allCores.flatMap fun l =>
    (streamOps s l).flatMap fun w => match opcodeOf w with
      | none => []
      | some op => (opDescs s l w op).map fun i => (descAt s l i).lag
  decide (2 ≤ nv ∧ nv ≤ 4) && decide (img.current < nv) && lags.all (fun x => decide (x + 2 ≤ nv)) && decide (peakRefs (allCores.map (streamOps s)) ≤ 16383)

/-- Credits (R375). -/
def creditsOk (img : Image) : Bool :=
  let sum := (img.contexts.map PlanCtx.credit).foldl (· + ·) 0
  img.contexts.all (fun c => decide (1 ≤ c.credit ∧ c.num < 16384)) && decide (sum + img.endpointPool ≤ 16384)
  && decide ((img.contexts.map PlanCtx.num).eraseDups.length = img.contexts.length)

/-- The collective plan (R388). -/
def planOk (s : State) (img : Image) : Bool :=
  img.groups.all (fun g => decide (1 ≤ g.length ∧ g.length ≤ 32768) && decide (g.eraseDups.length = g.length))
  && decide (img.planCount ≤ 65536)
  && (List.range img.planCount).all fun i =>
      let e := planAt s i
      let g := img.groups.getD e.group []
      decide (e.kind < 8) && g[e.self]? == some (reg s Obj.ownRank) && e.chunk % 256 == 0
      && (decide (e.kind > 1) || e.count % max 1 g.length == 0)

/-- Coordinator, standby and buddies (R439, R441, R561). -/
def ranksOk (img : Image) : Bool :=
  if img.jobModules ≤ 1 then img.coord == 0 && img.standby == 0 && img.buddies.isEmpty
  else
    img.coord != img.standby && decide (img.coord < img.jobModules ∧ img.standby < img.jobModules)
    && decide (img.buddies.length = img.jobModules ∧ img.buddies.eraseDups.length = img.jobModules)
    && (img.buddies.zipIdx).all fun (b, r) => b != r && decide (b < img.jobModules)

/-- The log region (R435): it lies in a mirrored range and takes a job head and one step's records. -/
def logOk (img : Image) : Bool :=
  decide (img.logBytes ≥ 64 + 144) && img.mirrors.any fun m => decide (m.1 ≤ img.logBase ∧ img.logBase + img.logBytes ≤ m.1 + m.2)

/-- Layer records of the key-value memory (R262): formats, head dimension, heads, zero point, and a FRAME that holds its
layout (R263). -/
def lrecOk (r : LRec) : Bool :=
  let keys := [Format.k8, .b2, .b3, .b4, .s4, .u4]
  let fk := Format.ofCode r.kfmt
  let fv := Format.ofCode r.vfmt
  let rows := 64 * r.hg
  let nb := (r.d + blockSize r.blk - 1) / blockSize r.blk
  let need := up64 (up64 (up64 (rows * packedBytes (fk.getD .k8) r.d) + rows * packedBytes (fv.getD .k8) r.d) + rows * nb) + rows * nb
  (fk.any keys.contains) && (fv.any keys.contains) && w32Normal r.tscaleK && w32Normal r.tscaleV
  && decide (r.blk ≤ 2 ∧ 16 ≤ r.d ∧ r.d ≤ 128 ∧ r.d % 16 = 0 ∧ 1 ≤ r.hg ∧ r.hg ≤ 16 ∧ 1 ≤ r.ngrp ∧ r.ngrp ≤ 64)
  && (r.zp < 15 || (fk != some .u4 && fv != some .u4)) && decide (need ≤ r.frame) && r.frame % 256 == 0

/-- The serving part (R262, R264, R281). -/
def servingOk (s : State) (img : Image) : Bool :=
  decide (img.pages ≤ 1048576 ∧ img.layerCount ≤ 1024) && (img.pages == 0 || decide (1 ≤ img.plSlot ∧ img.plSlot ≤ 262144))
  && (List.range img.layerCount).all fun i => (List.finRange 4).all fun (d : Die) => lrecOk (lrecAt s d i)

/-- The swap areas (R409) lie in module memory and in the windows. -/
def swapOk (img : Image) : Bool :=
  img.swapAreas.length == 128 && img.swapAreas.all fun a => decide (a + sramSize ≤ memEnd) && covered img.windows a sramSize

/-- The streams (R282): at most 65,536 operations each, in Thatch. -/
def streamsOk (img : Image) : Bool :=
  img.streams.length == 128 && img.streams.all fun p => decide (p.2 ≤ 65536 ∧ p.1 + 32 * p.2 ≤ thatchSize)

/-- The first stream and operation that break a rule: the logical core and the stream index. -/
def firstBadOp (s : State) : Option (Nat × Nat) :=
  let streams := allCores.map (streamOps s)
  allCores.findSome? fun l =>
    let ops := streamOps s l
    let bad := (ops.zipIdx).findSome? fun (w, i) => if opOk s l i ops.length w then none else some (l.val, i)
    match bad with
    | some x => some x
    | none =>
      if tokensOk streams l.val ops && closeOk ops && pairsOk ops && savesOk ops && pinsOk s l ops then none
      else some (l.val, 0)

/-- What refuses an image, as the logical core (0xFFFFFFFF for none) and the address or stream index of IMAGE_ERR. The hash
is that of the bytes at IMAGE_ADDR (R490), and `t` is the state as the image would leave it. -/
def imageFault (s t : State) (img : Image) : Option (Nat × Nat) :=
  let a := reg s Obj.imageAddr
  let n := reg s Obj.imageLen
  let whole := fun (ok : Bool) (at_ : Nat) => if ok then none else some (0xFFFFFFFF, at_)
  [whole (sha256 (readBytes s a n) == regBytes s Obj.imageHash) a,
   whole (img.arithRev == reg s Obj.arithRev) a,
   whole (decide (img.windows.length ≤ 256) && windowsOk 0 img.windows) (img.windows.headD (0, 0)).1,
   whole (!inWindows img.windows a n) a,
   whole (mirrorsOk img) (img.mirrors.headD (0, 0)).1,
   whole (reserveOk s img) memEnd,
   whole (swapOk img) (img.swapAreas.headD 0),
   whole (phasesOk img) 0,
   whole (streamsOk img) 0,
   whole (trackersOk img) 0,
   whole (decide (img.hyperCount ≤ 256)) img.hyperBase,
   whole (ringOk t img) 0,
   whole (creditsOk img) 0,
   whole (planOk t img) img.planBase,
   whole (ranksOk img) 0,
   whole (logOk img) img.logBase,
   whole (servingOk t img) 0,
   whole (walksOk t) 0,
   firstBadOp t].findSome? id

/-- IMAGE_ERR (R489). -/
def setImageErr (s : State) (e : Nat × Nat) : State :=
  setRegBytes s Obj.imageErr (leBytes 1 eSCHED ++ leBytes 3 0 ++ leBytes 4 e.1 ++ leBytes 8 e.2)

end Sys2Proof.Machine
end

