-- ==== Sys2Proof/Machine/Steps.lean ====
section
/-!
DEFINITION. How a step begins, how a job starts, ends and halts, and how sessions end (R7 to R12, R161, R171, R295, R394,
R414, R434, R448, R462).
-/
namespace Sys2Proof.Machine

/-! ### Cores and engines at rest -/

/-- Of the logical cores that share a host, all but the lowest begin switched out (R410, log 62: DEDUCED). -/
def outFirst (s : State) (l : Core) : Bool :=
  (hosted s (reg s (Obj.logicalCoreMap + l.val))).any fun x => decide (x.val < l.val)

/-- A core with nothing issued and nothing under way; its current smoothing goes on (R109), and its zero maps stay valid
(R102). -/
def clearCore (s : State) (l : Core) : State :=
  let o := outFirst s l
  modCore s l fun c => { reedAct := c.reedAct, slateAct := c.slateAct, zeroMaps := c.zeroMaps, switchedOut := o, watch := s.clk }

/-- No zero map is valid after a rollback or a context restore (R102). -/
def dropMaps (s : State) : State := allCores.foldl (fun t l => modCore t l fun c => { c with zeroMaps := [] }) s

/-- Every core and engine with nothing under way. -/
def clearWork (s : State) : State :=
  let s := allCores.foldl clearCore s
  let s := { s with kv := { s.kv with runs := [], waiting := [] }
                    job := { s.job with signals := [], opened := [], held := false, stage := 0, schedFault := false } }
  modNet s fun x => { x with colls := [] }

/-- A core as a step begins on it: every token clear, nothing issued (R295), the cache empty and its windows released (R309). -/
def CoreState.beginStep (c : CoreState) (clk : Nat) : CoreState :=
  { c with tokens := 0#256, base := 0, ahead := [], halted := false, closed := false, openPhase := none, published := []
           watch := clk, lines := [], windows := [] }

/-- Step `step` begins (R161, R171, R175, R204, R295, R414): its shifts, its layers and its samples. -/
def beginStep (s : State) (step : Nat) : State :=
  let s := drawSamples s step
  let s := beginShifts (beginLayers s) step
  let s := allCores.foldl (fun t l => modCore t l fun c => c.beginStep t.clk) s
  { s with job := { s.job with step := step, stepVersion := reg s Obj.versionCurrent, signals := [], held := false, stage := 0 } }

/-! ### The start of a job (R11) -/

/-- The job head of the input log (R236, R434). -/
def jobHead (s : State) : List Byte :=
  leBytes 8 s.job.seed ++ regBytes s Obj.imageLoadedHash ++ regBytes s Obj.jobModules ++ regBytes s Obj.ownRank

/-- The key-value part of a step that begins without a boundary before it (R269, R271 items 4 and 6). -/
def firstSeqs (s : State) : State :=
  if s.mode = .serve then allocAll (setAppends s s.job.plan) s.job.plan else s

/-- A job starts with no generation, report or log entry of its own (R438; log 72: DEDUCED): what an earlier job on the same image
left stays in module memory, and no part of the new job uses it. -/
def newJobRecov (s : State) : State :=
  modRec s fun r => { r with
    replaying := false, interval := reg s Obj.secureInterval, forced := false, deferTo := none, securing := none, early := none
    localWhole := false, localDone := 0, reported := none, streamed := none, held := [], heldLog := [], log := [], waiting := []
    securedBy := [], ruledOut := [], lastSched := none }

/-- JOB_START's effect (R11): RUNNING in the mode written, the streams armed for step JOB_S0, and the powers of the
hyperparameter records at 1.0 (R193). -/
def startJob (s : State) (m : JobMode) : State :=
  let s0 := reg s Obj.jobS0
  let s := clearWork s
  let s := { s with job := { s.job with sums := [], nextShift := 0, shifts := [] } }
  let s := setReg s Obj.shiftTotal 0
  let s := setDevMode s .running m
  let s := startPowers (countLog (newJobRecov s))
  let s := firstSeqs (beginStep s s0)
  let s := modNet s fun x => { x with admitClosed := false }
  startFetches (appendLog s 0 s0 (jobHead s)) s0

/-! ### The end of a job (R12, R448) -/

/-- Pauses that serve the job end with it; those of the scrubber and of the thermal response stay (log 63: DEDUCED). -/
def dropJobPauses (s : State) : State :=
  modDun s fun d => { d with pauses := d.pauses.filter fun p => p.selector == 0xA019 || p.selector == 0xA01B }

/-- The module leaves its job for READY and IDLE: no operation, fetch or watch remains. -/
def leaveJob (s : State) : State :=
  let s := dropJobPauses (clearWork s)
  let s := modRec s fun r => { r with replaying := false, securing := none, restoring := none, fromBuddy := none, forced := false
                                      deferTo := none, target := none, joins := [], lost := [], faults := [], ups := []
                                      root := none, spares := [] }
  modNet s fun x => { x with watches := [], fetches := [], fetchDone := false, admits := [], admitsLater := [] }

/-- JOB_END's effect at its boundary (R12): READY in IDLE, and a final heartbeat to each watcher. -/
def endJob (s : State) : State := sendHeartbeat (setDevMode (leaveJob s) .ready .idle)

/-- The newest fault-log entry of a code carries OUTCOME 2 (R448). -/
def markHalted (s : State) (code : Nat) : State :=
  let k := Obj.faultLog + (reg s Obj.faultLogHead + 63) % 64
  let v := reg s k
  if v / 2 ^ 192 % 256 = code then setReg s k (v - v / 2 ^ 200 % 256 * 2 ^ 200 + 2 * 2 ^ 200) else s

/-- The job halts on this module (R448, R10). -/
def haltJob (s : State) (code : Nat) : State :=
  let s := abortWaiting (markHalted s code)
  let s := setDevMode (leaveJob s) .ready .idle
  raiseEvent (bump s Obj.recoveryFails 1) 8 (leBytes 1 code)

/-! ### Sessions (R462) -/

/-- A transaction aborted without an answer of its own. -/
def abortTxn (s : State) (t : Txn) : State := bump (imageIdle (dropTxn s t.handle) t) Obj.txnAborted 1

/-- A session ends (R462): its open transactions are aborted, its subscriptions and events are gone. -/
def endSession (s : State) (i : Sess) : State :=
  match s.dunrel.sessions[i] with
  | none => s
  | some _ =>
    let s := (s.dunrel.txns.filter fun t => t.sess == i).foldl abortTxn s
    { s with dunrel := { s.dunrel with sessions := s.dunrel.sessions.set i none } }

/-- Every session ends. -/
def endSessions (s : State) : State := (List.finRange 16).foldl endSession s

/-- The key that a list entry grants: its hash and its level (R480). -/
def accessEntry (s : State) (i : Nat) : List Byte × Nat :=
  let b := regBytes s (Obj.accessList + i)
  (b.take 32, byteAt b 32)

/-- The level that the access list gives a key; 0 when none does. -/
def listedLevel (s : State) (key : List Byte) : Nat :=
  (((List.range 64).map (accessEntry s)).find? fun e => e.2 != 0 && e.1 == key).elim 0 Prod.snd

/-- Whether an OWNER entry exists (R461). -/
def ownerListed (s : State) : Bool := (List.range 64).any fun i => (accessEntry s i).2 == 3

end Sys2Proof.Machine
end

