-- ==== Sys2Proof/Machine/Startup.lean ====
section
/-!
DEFINITION. The retained store (R498 to R502), the firmware banks and measured start (R525 to R531, R538), start-up tests
and training (R23, R510, R511), and starts, resets and shutdowns (R509, R512, R514, R522).
-/
namespace Sys2Proof.Machine

/-- Power's state changed. -/
def modPower (s : State) (f : PowerState → PowerState) : State := { s with power := f s.power }

/-! ### The retained store (R498 to R502) -/

/-- Whether a key belongs to a retained object (R486). -/
def retainedKey (k : Nat) : Bool :=
  match findRow (keyIdx k) (keySub k) with
  | some r => r.retained && decide (keyElem k < r.count)
  | none => false

/-- POWERED_TIME with the clocks counted since it was last stored (R455). -/
def poweredTime (s : State) : Nat := (reg s Obj.poweredTime + s.power.poweredClk * 5 / 8) % 2 ^ 64

/-- UNAVAIL_TIME likewise (R455). -/
def unavailTime (s : State) : Nat := (reg s Obj.unavailTime + s.power.unavailClk * 5 / 8) % 2 ^ 64

/-- The retained values that differ from their factory defaults, by key: the records of a copy; a value that stands at its
default is restored by its absence all the same (R498, R501). -/
def storeVals (s : State) : List (Nat × Nat) :=
  let s := setReg (setReg s Obj.poweredTime (poweredTime s)) Obj.unavailTime (unavailTime s)
  s.regs.filter fun r => retainedKey r.1

/-- SEQ of a copy that may be invalid. -/
def copySeq (c : Option StoreCopy) : Nat := (c.map StoreCopy.seq).getD 0

/-- The copy that the next store write takes, true for B, and its SEQ (R499). -/
def nextCopy (s : State) : Bool × Nat :=
  match s.power.copyA, s.power.copyB with
  | some a, some b => (decide (b.seq ≤ a.seq), max a.seq b.seq + 1)
  | some a, none => (true, a.seq + 1)
  | none, b => (false, copySeq b + 1)

/-- A copy put in place. -/
def putCopy (s : State) (b : Bool) (c : Option StoreCopy) : State :=
  modPower s fun p => if b then { p with copyB := c } else { p with copyA := c }

/-- A store write begins (R499): the older copy is no longer valid while it is written. -/
def beginStore (s : State) : State :=
  let (b, n) := nextCopy s
  let c : StoreCopy := { seq := n, vals := storeVals s }
  let s := modPower (putCopy s b none) fun p => { p with writing := some (b, c), storeAt := s.clk }
  modRec s fun r => { r with storeDue := false }

/-- The copy has been written and read back (R499). -/
def endStore (s : State) : State :=
  match s.power.writing with
  | none => s
  | some (b, c) => setReg (modPower (putCopy s b (some c)) fun p => { p with writing := none }) Obj.retainedSeq c.seq

/-- Whether a record passes the checks of R501. -/
def recordFits (r : Nat × Nat) : Bool :=
  retainedKey r.1 && (match findRow (keyIdx r.1) (keySub r.1) with
    | some o => o.range.admits o.ty r.2 && decide (r.2 < 2 ^ (8 * o.ty.size))
    | none => false)

/-- The restore of a start (R501, R502). -/
def restoreStore (s : State) : State :=
  let a := s.power.copyA
  let b := s.power.copyB
  let status := (if a.isSome then 1 else 0) + (if b.isSome then 2 else 0)
  let pick := if b.isSome && (a.isNone || decide (copySeq a < copySeq b)) then b else a
  match pick with
  | none =>
    let s := setReg (setReg s Obj.retainedStatus 4) Obj.retainedSeq 1
    putCopy s false (some { seq := 1, vals := [] })
  | some c =>
    let good := c.vals.filter recordFits
    let s := good.foldl (fun t r => setReg t r.1 r.2) s
    let s := setReg s Obj.retainedSkipped ((c.vals.length - good.length) % 2 ^ 16)
    if a.isSome && b.isSome then setReg (setReg s Obj.retainedStatus status) Obj.retainedSeq c.seq
    else
      let s := putCopy s a.isSome (some { seq := c.seq + 1, vals := storeVals s })
      setReg (setReg s Obj.retainedStatus (status + 8)) Obj.retainedSeq (c.seq + 1)

/-! ### Firmware banks (R525 to R531, R538) -/

/-- A bank by its number. -/
def bankOf' (s : State) (b : Nat) : Bank := if b = 0 then s.power.banks.1 else s.power.banks.2

/-- A field of the firmware of manufacture, which the manual does not give (log 60: DESIGN CHOICE). -/
def factoryField (b stage field : Nat) : Nat := Config.fuseValue (2 ^ 64 + 1024 * b + 16 * stage + field)

/-- Bytes of a staged bank. -/
def stagedBytes (m : Mem) (o n : Nat) : List Byte := memRead m o n

/-- A 48-byte measurement entry without its reserved tail (R531). -/
def measEntry (stage bank result svn version len : Nat) (digest : List Byte) : List Byte :=
  leBytes 1 stage ++ leBytes 1 bank ++ leBytes 1 result ++ leBytes 1 0 ++ leBytes 4 svn ++ leBytes 4 version ++ leBytes 4 len
    ++ padTo 32 digest

/-- The entries of stages i to 6 of a staged bank, and its RESULT (R527). -/
def checkStages (m : Mem) (b svn len : Nat) (key : List Byte) : Nat → Nat → List (List Byte) × Nat
  | 0, _ => ([], 0)
  | n + 1, i =>
    let e := stagedBytes m (128 + 128 * i) 128
    let off := fieldLE e 4 4
    let k := fieldLE e 8 4
    let entry := fun r d => measEntry (i + 1) b r (fieldLE e 0x0C 4) (fieldLE e 0x10 4) k d
    if byteAt e 0 ≠ i + 1 ∨ fieldLE e 0x0C 4 ≠ svn ∨ off + k > len ∨ off < 896 then ([entry 5 []], 5)
    else
      let d := sha256 (stagedBytes m off k)
      let r := if !Config.ecdsaVerify key (sha256 (e.take 0x40)) ((e.drop 0x40).take 64) then 1
        else if d ≠ (e.drop 0x20).take 32 then 2 else 0
      if r ≠ 0 then ([entry r d], r)
      else
        let (l, q) := checkStages m b svn len key n (i + 1)
        (entry r d :: l, q)

/-- check_bank of R527: the entries that it logs and its RESULT. The firmware of manufacture passes (log 60: DESIGN CHOICE). -/
def checkBank (s : State) (b : Nat) : List (List Byte) × Nat :=
  match bankOf' s b with
  | .factory => ((List.range 6).map fun i => measEntry (i + 1) b 0 (factoryField b 0 0) (factoryField b (i + 1) 1)
      (factoryField b (i + 1) 2) (leBytes 32 (factoryField b (i + 1) 3)), 0)
  | .staged m =>
    let h := stagedBytes m 0 128
    let svn := fieldLE h 8 4
    let len := fieldLE h 0x0C 4
    let key := (h.drop 0x20).take 65
    let fail := fun r => ([measEntry 0 b r svn (fieldLE h 4 4) len []], r)
    if fieldLE h 0 2 ≠ 1 ∨ byteAt h 2 ≠ 6 ∨ len > 67108864 then fail 5
    else if sha256 key ≠ regBytes s Obj.vendorKeyHash then fail 4
    else if svn < reg s Obj.securityVersion ∨ svn > 64 then fail 3
    else checkStages m b svn len key 6 0

/-- A bank's record (R538). -/
def bankRecord (s : State) (b : Nat) : List Byte := regBytes s (Obj.fwBank + b)

/-- STATE and SELECT of a bank's record written. -/
def setBank (s : State) (b state select : Nat) : State :=
  setRegBytes s (Obj.fwBank + b) (leBytes 1 state ++ leBytes 1 select ++ (bankRecord s b).drop 2)

/-- The record of a staged bank that was checked, from its header (R538). -/
def recordOf (s : State) (b state select : Nat) : State :=
  match bankOf' s b with
  | .factory => setBank s b state select
  | .staged m =>
    let h := stagedBytes m 0 128
    setRegBytes s (Obj.fwBank + b) (padTo 32 (leBytes 1 state ++ leBytes 1 select ++ leBytes 2 0 ++ (h.drop 4).take 14)
      ++ sha256 (stagedBytes m 0 896))

/-- The measurement chain over entries (R531). -/
def measChain (l : List (List Byte)) : List Byte := l.foldl (fun c e => sha256 (c ++ e)) (List.replicate 32 0#8)

/-- MEAS_LOG of a start (R531). -/
def measLogOf (s : State) (cause first ran : Nat) (l : List (List Byte)) : List Byte :=
  padTo 32 (leBytes 2 1 ++ leBytes 2 l.length ++ leBytes 4 (reg s Obj.startCount) ++ leBytes 1 cause ++ leBytes 1 first
    ++ leBytes 1 ran) ++ measChain l ++ l.flatMap (padTo 64)

/-- The firmware that runs gives FW_VERSION and ARITH_REV (R525, R538); its record's SELECT has had its effect and is cleared
(log 137: DESIGN CHOICE). -/
def runBank (s : State) (b : Nat) : State :=
  let s := setReg (recordOf s b 4 0) Obj.fwActive b
  match bankOf' s b with
  | .factory => s
  | .staged m => setReg (setReg s Obj.fwVersion (ofLE (stagedBytes m 4 4))) Obj.arithRev (ofLE (stagedBytes m 0x10 2))

/-- Measured start (R527 to R531): whether a bank runs. -/
def measure (s : State) (cause : Nat) : State × Bool :=
  let first := if byteAt (bankRecord s 0) 1 = 1 then 0 else if byteAt (bankRecord s 1) 1 = 1 then 1 else reg s Obj.fwActive % 2
  let other := 1 - first
  let (l1, r1) := checkBank s first
  let finish := fun (t : State) (ran : Nat) (l : List (List Byte)) =>
    let b := measLogOf t cause first ran l
    setReg (setReg t Obj.measLog (ofLE b)) Obj.measLogLen b.length
  if r1 = 0 then (finish (runBank s first) first l1, true)
  else
    let s := setBank s first 3 0
    let (l2, r2) := checkBank s other
    if r2 = 0 then (finish (runBank s other) other (l1 ++ l2), true)
    else (finish (setBank s other 3 0) 0xFF (l1 ++ l2), false)

/-! ### Start-up tests and training (R23, R510, R511) -/

/-- LOGICAL_CORE_MAP rebuilt from the retired cores (R23): placement of manufacture, then R21 for each retired core in
ascending order. The flag says that a logical core finds no place. -/
def rebuildMap (s : State) : State × Bool :=
  let retired := (List.range 136).filter fun p => reg s (Obj.physCoreState + p) == 2
  let s := clearElems s Obj.logicalCoreMap 128
  let s := (List.range 136).foldl (fun t p =>
    if retired.contains p then t else setReg t (Obj.physCoreState + p) (if p % 34 < 32 then 0 else 1)) s
  retired.foldl (fun (acc : State × Bool) p =>
    (hosted acc.1 p).foldl (fun (a : State × Bool) l =>
      match moveTarget a.1 l.die.val p with
      | some q => (bindCore a.1 l q, a.2)
      | none => (a.1, true)) acc) (s, false)

/-- A Sloe lane removed (R233, R510). -/
def dropLane (s : State) (d i : Nat) : State :=
  let m := reg s (Obj.sloeLaneMap + d)
  if bitOf m i then s
  else setReg (setReg s (Obj.sloeLaneMap + d) (m + 2 ^ i)) (Obj.sloeLanes + d) (reg s (Obj.sloeLanes + d) - 1)

/-- A channel retired at start: ORDER is the number already retired (R511). -/
def retireAtStart (s : State) (c : Nat) : State :=
  if chanState s c = 2 then s
  else setReg s (Obj.memChanState + c) (2 ^ 15 + (retirements s).length % 8 * 2 ^ 11)

/-- Whether some compute die has four or more retired channels (R511). -/
def dieLost (s : State) : Bool :=
  (List.range 4).any fun d => decide (4 ≤ ((List.range 32).filter fun i => chanState s (32 * d + i) == 2).length)

/-- The units that fail their tests taken out of service (R510). The flag is that of `rebuildMap`. -/
def startTests (s : State) (x : StartRun) : State × Bool :=
  let s := x.cores.foldl (fun t p => setReg t (Obj.physCoreState + p.val) 2) s
  let s := x.pipes.foldl (fun t q => setReg t (Obj.quinceState + q.val) 1) s
  let s := x.gutters.foldl (fun t g => setReg t (Obj.gutterState + g.val) 1) s
  let s := x.lanes.foldl (fun t l => dropLane t l.1.val l.2.val) s
  rebuildMap s

/-! ### Resets and stops (R509, R512, R514, R522) -/

/-- Dictionary values that neither a reset nor a loss of power touches: those of fuses and of the firmware flash. -/
def flashRegs (s : State) : List (Nat × Nat) :=
  s.regs.filter fun r => decide (r.1 = Obj.securityVersion ∨ r.1 = Obj.fwActive ∨ (Obj.fwBank ≤ r.1 ∧ r.1 < Obj.fwBank + 2))

/-- Every volatile part cleared (R512): sessions, transactions, pauses, images, every object at its default. `keep` keeps
module memory, as a warm reset does. -/
def wipe (s : State) (keep : Bool) : State :=
  let p := s.power
  let r := s.ras
  { State.reset with
    pending := s.pending, clk := s.clk, part := s.part, fresh := s.fresh, regs := flashRegs s, sent := s.sent, egress := { wire := s.egress.wire }
    mem := if keep then s.mem.filter (fun c => decide (c.1 < memEnd)) else []
    ras := if keep then { suspect := r.suspect, lost := r.lost, clobbered := r.clobbered, localMode := r.localMode, bad := r.bad }
           else {}
    power := { pwrEn := p.pwrEn, rstLow := p.rstLow, inputOk := p.inputOk, refs := p.refs, locked := p.locked
               awaitInput := p.awaitInput, cause := p.cause, alertHeld := p.alertHeld, signatures := p.signatures
               copyA := p.copyA, copyB := p.copyB, storeAt := p.storeAt, banks := p.banks, program := p.program } }

/-- Domains of R27 that are locked in a state (R505, R507, log 65: DEDUCED). -/
def pllState (s : State) : Nat :=
  let r25 := bitOf s.power.refs 0
  let r156 := bitOf s.power.refs 1
  let bit := fun (c : Bool) n => if c then 2 ^ n else 0
  match s.dev with
  | .off => 0
  | .asleep => bit r25 3 + bit r156 4 + bit r156 5 + bit r25 6
  | _ => bit r25 0 + bit r25 1 + bit r25 2 + bit r25 3 + bit r156 4 + bit r156 5 + bit r25 6

/-- The start proper, from the boot ROM at 20 ms on (R509 to R512). -/
def runStart (s : State) (kind : StartKind) (x : StartRun) : State :=
  let cold := kind == .cold
  let cause := match kind with | .cold => s.power.cause | .warm c => c
  let s := modPower (wipe s (!cold)) fun p => { p with start := none, cause := 0, pwrgd := true, startedAt := s.clk }
  let s := restoreStore s
  let s := setReg (bump s Obj.startCount 1) Obj.resetCause cause
  let (s, runs) := measure s cause
  if !runs then { modPower s fun p => { p with alertHeld := true } with dev := .faulted }
  else
    let s := modPower s fun p => { p with dormer := true }
    let s := modNet (setReg s Obj.linkState 1) fun n => { n with portMode := reg s Obj.portMode }
    let (s, homeless) := startTests s x
    let s := if cold then x.channels.foldl (fun t c => retireAtStart t c.val) s else s
    let s := setReg s Obj.activePhysCount (activePhysCount s)
    let s := endStore (beginStore s)
    let down := fun (t : State) code die unit => { reportFault t code 1 0 0 die unit with dev := .faulted }
    let s := { s with dev := .ready }
    match x.engine with
    | some (d, u) => down s 0x08 d.val u
    | none => if homeless then down s 0x06 0xFF 0 else if dieLost s then down s 0x0C 0xFF 0
      else stateEvent (modPower s fun p => { p with reachedReady := true })

/-- A start that waits at 20 ms while RST_N is low or a reference is absent (R509, R512). -/
def beginStart (s : State) (kind : StartKind) (x : StartRun) : State :=
  if s.power.rstLow || s.power.refs != 3 then
    modPower (wipe s (kind != .cold)) fun p => { p with start := some kind, pwrgd := true }
  else runStart s kind x

/-- The module without its rails (R514, R522): memory is lost. -/
def powerOff (s : State) : State := modPower (wipe s false) fun p => { p with pwrgd := false, program := [] }

end Sys2Proof.Machine
end

