-- ==== Sys2Proof/Machine/Ligger.lean ====
section
/-!
DEFINITION. Ligger, the commit unit: the values that the dictionary shows, the checks of R558, commit points and pins
(R471, R472), and what each object's write does at its commit (R7 to R12, R35, R268, R385, R387, R436, R461, R469 to
R474, R481 to R493, R508, R537).
-/
namespace Sys2Proof.Machine

/-! ### What an object reads as -/

/-- Text as the stored number of its bytes. -/
def textValue (t : List Nat) : Nat := ofLE (t.map (BitVec.ofNat 8))

/-- The order code of the part: LB-HZ1-1T01, with -E on an engineering sample (R487). -/
def orderCodeOf (p : Part) : List Nat :=
  [0x4C, 0x42, 0x2D, 0x48, 0x5A, 0x31, 0x2D, 0x31, 0x54, 0x30, 0x31] ++ (if p = .sample then [0x2D, 0x45] else [])

/-- SECURITY_VERSION: the anti-rollback fuses blown, at most 64 (R523, R532). -/
def securityVersion (s : State) : Nat := min 64 (reg s Obj.securityVersion)

/-- FUSE_STATE (R523). -/
def fuseWord (s : State) : Nat :=
  (if s.part = .sample then 2 ^ 63 else 0) + 2 ^ 62 + 2 ^ 61 + reg s Obj.fuseState / 2 ^ 48 % 256 * 2 ^ 48 + securityVersion s

/-- SESSION_INFO of a slot (R480). -/
def sessionInfo (s : State) (i : Nat) : List Byte :=
  match s.dunrel.sessions[i]? with
  | some (some x) => padTo 64 (leBytes 1 1 ++ leBytes 1 x.level ++ leBytes 6 0 ++ beBytes 16 x.peer ++ padTo 32 x.key)
  | _ => []

/-- VERSION_SLOT of a slot (R203). -/
def slotWord (s : State) (i : Nat) : Nat :=
  match s.num.slots[i]? with
  | some x => x.state.code * 2 ^ 62 + x.refs % 2 ^ 14 * 2 ^ 48 + x.version % 2 ^ 48
  | none => 0

/-- The pause that holds an element of the pause table. -/
def pauseAt (s : State) (i : Nat) : Option Pause := s.dunrel.pauses.find? fun p => p.slot == i

/-- REF_STATE (R492): the references, while the module has power. -/
def refState (s : State) : Nat := if s.dev = .off then 0 else s.power.refs

/-- An entry of DIRECTORY: those of vendor-test objects are locked on the production part (R485, R497). -/
def directoryEntry (s : State) (i : Nat) : Nat :=
  let v := reg s (Obj.directory + i)
  if s.part = .production ∧ dictionary.length ≤ i ∧ v ≠ 0 then v + 2 ^ 118 else v

/-- What an element reads as: the objects that show something the state holds elsewhere, and every other register. -/
def liveValue (s : State) (k : Nat) : Nat :=
  match keyIdx k, keySub k with
  | 0x0011, _ => directoryEntry s (keyElem k)
  | 0x1000, 3 => textValue (orderCodeOf s.part)
  | 0x1004, _ => (s.clk - s.power.startedAt) * 5 / 8
  | 0x1010, _ => s.dev.code
  | 0x1011, _ => s.mode.code
  | 0x1021, _ => ((List.finRange 16).filter fun i => s.dunrel.sessions[i].isSome).length
  | 0x1023, _ => ofLE (sessionInfo s (keyElem k))
  | 0x1040, _ => s.dunrel.txns.length
  | 0x2012, _ => activePhysCount s
  | 0x4064, _ => ptpNow s
  | 0x5341, _ => slotWord s (keyElem k)
  | 0x7050, _ => poweredTime s
  | 0x7051, _ => unavailTime s
  | 0x8030, _ => pllState s
  | 0x8031, _ => refState s
  | 0x9000, _ => securityVersion s
  | 0x9001, _ => fuseWord s
  | 0xA001, _ => ((pauseAt s (keyElem k)).map fun p => ofLE p.entry).getD 0
  | 0xA002, _ => ((pauseAt s (keyElem k)).map fun p => ofLE p.report).getD 0
  | _, _ => reg s k

/-- The elements whose values the registers do not hold: index, subindex and number of elements. -/
def liveObjects : List (Nat × Nat × Nat) :=
  [(0x1000, 3, 1), (0x1004, 0, 1), (0x1010, 0, 1), (0x1011, 0, 1), (0x1021, 0, 1), (0x1023, 0, 16), (0x1040, 0, 1)
  , (0x2012, 0, 1), (0x4064, 0, 1), (0x5341, 0, 4), (0x7050, 0, 1), (0x7051, 0, 1), (0x8030, 0, 1), (0x8031, 0, 1)
  , (0x9000, 0, 1), (0x9001, 0, 1), (0xA001, 0, 16), (0xA002, 0, 16)]

/-- The dictionary as it stands now, for the reads of a transaction (R483). -/
def snapshot (s : State) : List (Nat × Nat) :=
  (liveObjects.flatMap fun o => (List.range o.2.2).map fun e => objKey o.1 o.2.1 e).foldl
    (fun l k => regPut l k (liveValue s k)) s.regs

/-! ### Objects and their checks (R482, R558) -/

/-- Bytes of a segment at most (R463). -/
def segMax (s : State) : Nat := if 8400 ≤ reg s Obj.maxFrame then 8192 else 1024

/-- Order 1 of R558 for the vendor-test range (R3, R4, R497): whether a request there is locked, for every level on the production
part and for those below VENDOR on the sample. -/
def vendorLocked (s : State) (level index : Nat) : Bool := decide (0xF000 ≤ index) && (s.part == .production || decide (level < 4))

/-- Order 3 of R558 for elements: those of a scalar, or of an array from `elem` on. -/
def ObjRow.elemsOk (r : ObjRow) (elem count : Nat) : Bool :=
  if r.elems = 0 then elem == 0 && count == 1 else decide (1 ≤ count ∧ elem + count ≤ r.elems)

/-- R461: whether a session may write an element of ACCESS_LIST, the value given; `single` says that nothing else of the
list is written with it. -/
def accessListOk (s : State) (x : Session) (single : Bool) (b : List Byte) : Bool :=
  if ownerListed s then decide (3 ≤ x.level) else single && b.take 32 == padTo 32 x.key && byteAt b 32 == 3

/-- Order 2 of R558 for a write; ACCESS_LIST is judged by its value (R461). -/
def writeLevelOk (x : Session) (r : ObjRow) : Bool := r.idx == 0x1030 || (r.wr != 0 && decide (r.wr ≤ x.level))

/-- The device address of a MEM_ACCESS element (R491). -/
def memElement (e : Nat) : Nat := e * 0x100000

/-- What R327 and R491 say of a MEM_ACCESS element: its window. -/
def memCode (write : Bool) (e : Nat) : Nat :=
  match windowOf (memElement e) with
  | .unmapped => eRANGE
  | .status => if write then eACCESS else eOK
  | _ => eOK

/-- The staged value of an element of an object in a transaction. -/
def Txn.staged (t : Txn) (idx sub e : Nat) : Option StagedVal :=
  (t.writes.find? fun w => w.index == idx && w.sub == sub).bind fun w => w.vals.find? fun v => v.elem == e

/-- Whether every byte of a value is staged. -/
def StagedVal.whole (v : StagedVal) : Bool := (v.segs.map fun x => x.2.length).foldl (· + ·) 0 == v.total

/-- The bytes of a staged value, on the wire. -/
def StagedVal.bytes (v : StagedVal) : List Byte := joinSegs v.segs v.total

/-- Reserved fields ignore writes (R14): the stored value of an element. -/
def keepFields (idx : Nat) (v : Nat) : Nat :=
  match idx with
  | 0x1030 => v % 2 ^ 264
  | 0x4800 => v % 2 ^ 193
  | 0x4900 => v % 2 ^ 146 + v / 2 ^ 152 % 2 * 2 ^ 152 + v / 2 ^ 160 % 2 ^ 16 * 2 ^ 160
  | 0x7012 => v % 2 ^ 192
  | _ => v

/-- The value that an element takes. -/
def StagedVal.value (r : ObjRow) (v : StagedVal) : Nat := keepFields r.idx (r.ty.ofWire v.bytes)

/-- The value of a scalar that a transaction writes. -/
def Txn.scalar (t : Txn) (idx sub : Nat) : Option Nat :=
  match findRow idx sub, t.staged idx sub 0 with
  | some r, some v => some (v.value r)
  | _, _ => none

/-- A scalar as the transaction would leave it (R280). -/
def Txn.orNow (t : Txn) (s : State) (k : Nat) : Nat := (t.scalar (keyIdx k) (keySub k)).getD (reg s k)

/-- Order 5 of R558 for one value. -/
def valueOk (s : State) (t : Txn) (r : ObjRow) (e v : Nat) : Bool :=
  r.range.admits r.ty v && (r.cond != .zero || v == 0) &&
  match r.idx with
  | 0x1020 => v != t.orNow s Obj.tbkUdpPort
  | 0x1030 => decide (v / 2 ^ 256 % 256 ≤ 3)
  | 0x2410 => decide (ptpNow s + 10000000 ≤ v)
  | 0x3200 => memCode true e != eRANGE
  | 0x4803 => decide (v < reg s Obj.jobModules)
  | 0x5300 => decide (v < 2 ^ 31) || w32IsZero (BitVec.ofNat 32 v)
  | 0x6012 => decide (v ≤ t.orNow s Obj.kvFreeHigh)
  | 0x6013 => decide (t.orNow s Obj.kvFreeLow ≤ v)
  | 0x6030 => decide (v % 256 ≤ 3)
  | _ => true

/-- Whether a code of STATE_REQ is accepted (R508). -/
def stateReqOk (s : State) (v : Nat) : Bool :=
  s.power.trans.isNone && (v == s.dev.code
    || (match v with
        | 1 => s.dev == .ready
        | 2 => s.dev == .asleep || (s.dev == .maint && reg s Obj.fwState != 2)
        | 5 => s.dev == .ready
        | _ => false))

/-- Whether a code of FW_CMD is accepted in MAINT (R537). -/
def fwCmdOk (s : State) (v : Nat) : Bool :=
  let f := reg s Obj.fwState
  if v = 1 then f == 0 || f == 3 || f == 5 || (f == 1 && s.power.program.isEmpty) else f == 3

/-- Order 6 of R558 for one object write: the present state. -/
def stateOk (s : State) (r : ObjRow) (e v : Nat) (inTxn : Bool) : Bool :=
  (match r.cond with
   | .txn => inTxn
   | .txnReady => inTxn && s.dev == .ready
   | .txnRunning => inTxn && s.dev == .running
   | .txnMaint => inTxn && s.dev == .maint
   | .readyMaint => s.dev == .ready || s.dev == .maint
   | .maint => s.dev == .maint
   | .idle => s.mode == .idle
   | .free => true
   | .zero => true)
  && match r.idx with
     | 0x1012 => stateReqOk s v
     | 0x2001 => if v = 1 then s.dev == .ready else s.dev == .running
     | 0x3200 => !((s.dev == .running || s.dev == .recovering) && inWindows s.job.windows (memElement e) 0x100000)
     | 0x4000 => !(s.dev == .running || s.dev == .recovering)
     | 0x8040 => s.dev == .ready || s.dev == .maint || s.dev == .faulted
     | 0x9012 => reg s Obj.fwState != 2 && reg s Obj.fwState != 4
     | 0x9013 => fwCmdOk s v
     | _ => true

/-- The checks of R470 on one object write, in the order of R558. -/
def checkWrite (s : State) (x : Session) (t : Txn) (w : ObjWrite) : Nat :=
  match objectRow w.index w.sub with
  | none => eRANGE
  | some r =>
    let vals := w.vals.map fun v => (v.elem, v.value r)
    if !writeLevelOk x r then eACCESS
    else if r.idx == 0x1030 && !(w.vals.all fun v => accessListOk s x (w.vals.length == 1) v.bytes) then eACCESS
    else if r.idx == 0x3200 && w.vals.any fun v => memCode true v.elem == eACCESS then eACCESS
    else if !(w.vals.all StagedVal.whole) then eRANGE
    else if !(vals.all fun v => valueOk s t r v.1 v.2) then eRANGE
    else if !(vals.all fun v => stateOk s r v.1 v.2 (!t.once)) then eSTATE
    else eOK

/-- The first failing code of a list. -/
def firstBad (l : List Nat) : Nat := (l.find? fun c => c != eOK).getD eOK

/-- The per-object checks of a transaction (R470). -/
def objChecks (s : State) (t : Txn) : Nat :=
  match s.dunrel.sessions[t.sess] with
  | none => eSTATE
  | some x => firstBad (t.writes.map (checkWrite s x t))

/-! ### The job rules (R9, R11, R12, R35, R444) -/

/-- The mode that a code names. -/
def modeOf (v : Nat) : JobMode := match v with | 1 => .train | 2 => .serve | _ => .idle

/-- Whether a transaction writes an object. -/
def Txn.touches (t : Txn) (idx : Nat) : Bool := t.writes.any fun w => w.index == idx

/-- The image command of a transaction. -/
def Txn.imageCmd (t : Txn) : Nat := (t.scalar 0x2001 0).getD 0

/-- Whether a transaction is a join (R444). -/
def Txn.joins (t : Txn) : Bool := t.touches 0x1011 && t.touches 0x4800 && t.touches 0x4803 && t.touches 0x7013

/-- The job rules judged at TXN_COMMIT (R470). No job starts while the module leaves READY (R508, log 74: DEDUCED). -/
def jobRules (s : State) (t : Txn) : Nat :=
  if t.touches 0x1014 ∧ t.scalar 0x1011 0 ≠ some 0 then eSTATE
  else match t.scalar 0x1011 0 with
  | none => eOK
  | some v =>
    let m := modeOf v
    if s.dev = .running then
      if m = s.mode then eOK
      else if m = .idle then
        match t.scalar 0x1014 0 with
        | none => eSTATE
        | some n => if n < s.job.step then eRANGE else eOK
      else if t.imageCmd = 2 then eOK else eSCHED
    else if s.dev = .ready then
      if m = .idle then eOK
      else if s.power.trans.isSome ∨ t.touches 0x1012 then eSTATE
      else if reg s Obj.imageState = 2 ∧ ((t.touches 0x2410 ∧ t.touches 0x2411) ∨ t.joins) then eOK else eSTATE
    else eSTATE

/-! ### Commit points, pins and order (R471 to R473) -/

/-- A commit point (R471). -/
inductive Point where
  | now
  | boundary
  | last (step : Nat)
  deriving DecidableEq, Repr

/-- Whether the module runs a job's steps, in time or in a replay. -/
def inSteps (s : State) : Bool := s.dev == .running || s.dev == .recovering

/-- The commit point of a transaction: the latest among its objects (R471). -/
def commitPoint (s : State) (t : Txn) : Point :=
  let mode := t.scalar 0x1011 0
  if s.dev = .running ∧ mode = some 0 then .last ((t.scalar 0x1014 0).getD 0)
  else
    let later := t.writes.any fun w =>
      (match objectRow w.index w.sub with | some r => r.nextBoundary | none => false)
      || ((w.index == 0x4800 || w.index == 0x4803) && inSteps s)
      || (w.index == 0x2001 && t.imageCmd == 2)
      || (w.index == 0x1011 && s.dev == .running && mode != some s.mode.code)
    if later then .boundary else .now

/-- The edits of a transaction, in staged order (R474). -/
def Txn.edits (t : Txn) : List KvEdit :=
  (t.writes.filter fun w => w.index == 0x6030).flatMap fun w => w.vals.filterMap fun v => parseEdit v.bytes

/-- The trackers that operations in flight read (R472): a conversion's own, and those behind the operands of a product. -/
def flightTrackers (s : State) : List (Nat × Nat) :=
  allCores.flatMap fun l => (coreOf s l).flight.flatMap fun f =>
    if opcodeOf f.word = some .convert then [(l.cluster.val, opImm f.word 11 0)]
    else (s.job.opInfo.filter fun o => o.core == l.val && o.idx == f.idx).map fun o => (o.cluster, o.tracker)

/-- A tracker's record and planes in Thatch (R148, R150). -/
def trackerSpans (s : State) (c i : Nat) : List (Nat × Nat) :=
  match trackerPlace s c i, (s.num.trackers.getD c [])[i]? with
  | some a, some t =>
    [(a, 192), (clusterThatch c + readLE s (a + 0x28) 4, 2 * t.blocks.length), (clusterThatch c + readLE s (a + 0x24) 4, 2 * t.chans.length)]
  | _, _ => []

/-- What a walk of a sequence pins beside its edits (R472): the copies of its entry and its page list. -/
def walkSpans (s : State) : List (Nat × Nat) :=
  ((liveSeqs s).filter fun x => x.2.walking).flatMap fun x =>
    (x.2.ptBase, 4 * x.2.ptCap) :: (match s.kv.seqTable with
      | none => []
      | some o => (List.finRange 4).map fun (d : Die) => (thatchAddr d + o + 64 * x.1, 64))

/-- Thatch records that operations in flight read, and what walks hold (R472). -/
def recordSpans (s : State) : List (Nat × Nat) :=
  let inFlight := fun (op : Opcode) => allCores.any fun l => (coreOf s l).flight.any fun f => opcodeOf f.word == some op
  (if inFlight .optstep then (s.job.hyperBase, 64 * s.job.hyperCount) :: s.num.moments.map fun u => (u.record, 64) else [])
    ++ (if inFlight .append || inFlight .attn then (List.finRange 4).map fun (d : Die) => (thatchAddr d + s.kv.layerRecords, 65536) else [])
    ++ (if inFlight .sample then (List.finRange 4).map fun (d : Die) => (thatchAddr d + s.kv.sampleRecords, 65536) else [])
    ++ ((flightTrackers s).flatMap fun x => trackerSpans s x.1 x.2) ++ walkSpans s

/-- Whether an object of a transaction is pinned (R209, R270, R472). -/
def pinned (s : State) (t : Txn) : Bool :=
  let fromTrain := s.mode == .train && s.dev == .running && (t.scalar 0x1011 0).any (fun v => v != s.mode.code)
  (t.edits.any (editPinned s))
  || ((fromTrain || t.imageCmd == 2) && s.num.slots.any fun x => x.state != .current && x.refs != 0)
  || (t.writes.any fun w => w.index == 0x3200 && w.vals.any fun v =>
        (recordSpans s).any fun x => overlaps (memElement v.elem) 0x100000 x.1 x.2)
  || (s.dev == .recovering && (t.touches 0x4800 || t.touches 0x4803))

/-- Whether two transactions touch a common object; edits touch the sequences that they name (R472, R473). -/
def Txn.shares (t u : Txn) : Bool :=
  (t.writes.any fun w => w.index != 0x6030 && u.writes.any fun y => y.index == w.index && y.sub == w.sub)
  || (t.edits.any fun e => u.edits.any fun f => e.names.any f.names.contains)

/-- Whether an earlier waiting transaction wrote an object of this one (R473). -/
def behind (s : State) (t : Txn) : Bool :=
  s.dunrel.txns.any fun u => u.waits && decide (u.order < t.order) && u.handle != t.handle && t.shares u

/-- The place of a transaction in a boundary's order (R29, R471): that of its first R29 item, 0 before them all. -/
def Txn.place (t : Txn) : Nat :=
  if t.touches 0x4800 || t.touches 0x4803 then 2 else if t.touches 0x6030 then 3 else if t.imageCmd = 2 then 4
  else if t.touches 0x1011 then 5 else 0

/-! ### What a write does -/

/-- A write entered in the input log with the step at whose boundary it takes effect (R177, R434, log 50: DESIGN CHOICE). -/
def logWrite (s : State) (r : ObjRow) (e v : Nat) : State :=
  if inJob s ∧ r.nextBoundary ∧ loggedWrite r.idx then
    appendLog s 2 s.job.step (leBytes 2 r.idx ++ leBytes 1 r.sub ++ [0#8]
      ++ (if r.elems = 0 then [] else leBytes 4 e) ++ leBytes r.ty.size v)
  else s

/-- A logged object write applied in a replay (R177, R443). -/
def applyLogged (s : State) (b : List Byte) : State :=
  match findRow (fieldLE b 0 2) (byteAt b 2) with
  | none => s
  | some r =>
    let e := if r.elems = 0 then 0 else fieldLE b 4 4
    setReg s (objKey r.idx r.sub e) (fieldLE b (if r.elems = 0 then 4 else 8) r.ty.size)

/-- An ACCESS_LIST entry written; sessions of a key whose level falls end (R461). -/
def writeAccess (s : State) (e v : Nat) : State :=
  let t := setReg s (Obj.accessList + e) v
  let lowered := (List.finRange 16).filter fun i => match s.dunrel.sessions[i] with
    | some x => decide (listedLevel t x.key < listedLevel s x.key)
    | none => false
  lowered.foldl endSession t

/-- RESTORE_DEFAULTS (R488). -/
def restoreDefaults (s : State) : State :=
  let keep := fun k => [0x1030, 0x1031, 0x1005, 0x2010, 0x3020, 0x5405, 0x5406, 0x6000, 0x7033, 0x7050, 0x7051].contains (keyIdx k)
  { s with regs := s.regs.filter fun r => !retainedKey r.1 || keep r.1 }

/-- A code of STATE_REQ accepted (R508): the transition begins; the present state's code changes nothing. -/
def writeStateReq (s : State) (v : Nat) : State :=
  if v = s.dev.code then s
  else
    let d : DeviceState := match v with | 1 => .asleep | 2 => .ready | _ => .maint
    modPower (setReg s Obj.stateReq v) fun p => { p with trans := some d }

/-- A committed part of FW_STAGE (R537): the inactive bank's record becomes partial, and the part waits to be
programmed. -/
def writeFwStage (s : State) (e : Nat) (b : List Byte) : State :=
  let s := setBank s (1 - reg s Obj.fwActive % 2) 1 0
  modPower (setReg s Obj.fwState 1) fun p => { p with program := p.program ++ [(e, b)] }

/-- FW_CMD (R537). -/
def writeFwCmd (s : State) (v : Nat) : State :=
  if v = 1 then setReg s Obj.fwState 2
  else
    let b := 1 - reg s Obj.fwActive % 2
    setReg (setBank s b (byteAt (bankRecord s b) 0) 1) Obj.fwState 4

/-- An endpoint entry written: its open contexts close first, with E_STATE (R387). -/
def writeEndpoint (s : State) (e v : Nat) : State :=
  let gone := s.net.ctxs.filter fun c => !c.plan && c.isOpen && c.peer == .endpoint e
  let s := gone.foldl (fun t c => closeCtx (send t (.closeCtx c.peer { ctx := c.num, kind := c.kind, code := eSTATE })) c.num) s
  setReg s (Obj.endpoint + e) v

/-- A rank-map entry written: STATUS stays and GEN takes the new generation (R384). -/
def writeRankEntry (s : State) (gen e v : Nat) : State :=
  let k := Obj.rankMap + e
  setReg s k (v % 2 ^ 200 + reg s k / 2 ^ 200 % 256 * 2 ^ 200 + gen % 2 ^ 32 * 2 ^ 224)

/-- A redraw of the rank map (R385): the entries, RANK_MAP_GEN and JOB_EPOCH, which a join sets (R444). -/
def redraw (s : State) (entries : List (Nat × Nat)) (epoch : Nat) : State :=
  let s := bump s Obj.rankMapGen 1
  let s := entries.foldl (fun t x => writeRankEntry t (reg s Obj.rankMapGen) x.1 x.2) s
  newEpoch s epoch

/-- OWN_RANK written, and the buddy that the image gives the rank (R439). -/
def writeOwnRank (s : State) (v : Nat) : State :=
  let s := setReg s Obj.ownRank v
  match s.recov.buddies[v]? with
  | some b => setReg s Obj.buddyRank b
  | none => s

/-- One element written at a commit (R473). The manual does not say what a vendor-test object does with a value, and its reads are
free (R497, log 12: DESIGN CHOICE). -/
def writeElem (s : State) (r : ObjRow) (v : StagedVal) : State :=
  let n := v.value r
  let s := if r.retained then needStore s else s
  if 0xF000 ≤ r.idx then s
  else match r.idx with
  | 0x1011 => s
  | 0x1012 => writeStateReq s n
  | 0x1013 => needStore (restoreDefaults s)
  | 0x1030 => writeAccess s v.elem n
  | 0x2001 => s
  | 0x3200 => writeBytes s (memElement v.elem) v.bytes
  | 0x4803 => writeOwnRank s n
  | 0x4900 => writeEndpoint s v.elem n
  | 0x6030 => s
  | 0x4800 => s
  | 0x8040 => s
  | 0x9012 => writeFwStage s v.elem v.bytes
  | 0x9013 => writeFwCmd s n
  | _ => logWrite (setReg s (objKey r.idx r.sub v.elem) n) r v.elem n

/-- The generic writes of a transaction, in staged order. -/
def writeAll (s : State) (t : Txn) : State :=
  t.writes.foldl (fun u w => match objectRow w.index w.sub with
    | none => u
    | some r => w.vals.foldl (fun q v => writeElem q r v) u) s

/-- The rank-map entries that a transaction writes. -/
def Txn.ranks (t : Txn) : List (Nat × Nat) :=
  (t.writes.filter fun w => w.index == 0x4800).flatMap fun w => w.vals.map fun v => (v.elem, keepFields 0x4800 (ofLE v.bytes))

/-- The key-value edits of a commit (R268, R270, R474): all or none, and entered in the input log. -/
def commitEdits (s : State) (t : Txn) : Except Nat State :=
  match applyEdits s t.edits [] with
  | .error c => .error c
  | .ok u =>
    let bytes := (t.writes.filter fun w => w.index == 0x6030).flatMap fun w => w.vals.map StagedVal.bytes
    .ok (if inJob s then bytes.foldl (fun q b => appendLog q 3 s.job.step b) u else u)

/-- A spare joins the job (R444): RECOVERING in the mode written. -/
def joinJob (s : State) (m : JobMode) : State :=
  let s := dropMaps (clearWork s)
  let s := modRec s fun r => { r with replaying := false, rollbackAt := s.clk, streamed := none }
  setDevMode s .recovering m

/-- When the switch to SERVE commits, every slot other than CURRENT becomes FREE (R209). -/
def freeOldSlots (s : State) : State :=
  { s with num := { s.num with slots := s.num.slots.map fun x => if x.state = .current then x else { x with state := .free, refs := 0 } } }

/-- The job-mode part of a commit (R8, R11, R12, R444). -/
def commitMode (s : State) (t : Txn) : State :=
  match t.scalar 0x1011 0 with
  | none => s
  | some v =>
    let m := modeOf v
    if m = s.mode then s
    else match s.dev with
      | .ready => if t.touches 0x2410 && t.touches 0x2411 then startJob s m else joinJob s m
      | .running => if m = .idle then endJob s else setMode (if m = .serve then freeOldSlots s else s) m
      | _ => s

/-- What a commit does, or the code that refuses it: its writes, a redraw, edits, an image swap and a mode, in that order
(R29, R471, R473). -/
def applyTxn (s : State) (t : Txn) : Except Nat State := do
  let s1 := writeAll s t
  let s2 := if t.touches 0x4800 then
      redraw s1 t.ranks (if t.joins && s.dev == .ready then reg s1 Obj.joinEpoch else reg s1 Obj.jobEpoch + 1) else s1
  let s3 ← if t.touches 0x6030 then commitEdits s2 t else .ok s2
  let s4 := match t.image with
    | some img => setReg (installSwap s3 img) Obj.imageState 2
    | none => s3
  .ok (commitMode s4 t)

/-- A transaction's checks repeated and its writes applied (R470); those of a job start too, since it needs its image at the
commit (R11). A transaction that commits is no longer one that its own effects could end (R10, R462). -/
def commitTxn (s : State) (t : Txn) : Except Nat State :=
  let c := firstBad [objChecks s t, if s.dev = .ready then jobRules s t else eOK]
  if c ≠ eOK then .error c else applyTxn (dropTxn s t.handle) t

/-! ### Waiting transactions (R469, R472, R473) -/

/-- A transaction replaced. -/
def putTxn (s : State) (t : Txn) : State :=
  modDun s fun d => { d with txns := d.txns.map fun u => if u.handle = t.handle then t else u }

/-- A transaction enters DEFERRED: its timer starts (R469, R472). -/
def deferTxn (s : State) (t : Txn) : State :=
  match t.state with
  | .deferred _ => s
  | _ =>
    let s := bump (putTxn s { t with state := .deferred s.clk }) Obj.txnDeferred 1
    bumpIf s (t.edits.any (editPinned s)) Obj.kvDeferred 1

/-- The reset that a committed RESET_REQ starts, once its answer has left (R493, R512). -/
def resetAfter (s : State) (t : Txn) (x : StartRun) : State :=
  if t.touches 0x8040 then beginStart s (.warm 2) x else s

/-- A waiting transaction at its commit point: it ends with TXN_DONE, or waits for a pin (R469). -/
def tryWaiting (s : State) (t : Txn) : State :=
  if behind s t then s
  else if pinned s t then deferTxn s t
  else match commitTxn s t with
    | .ok u => resetAfter (endTxn u t eOK) t {}
    | .error c => endTxn s t c

/-- The image checks of a LOAD or SWAP begin (R490). -/
def beginChecks (s : State) (t : Txn) : State :=
  setReg (putTxn s { t with state := .checking }) Obj.imageState (if t.imageCmd = 1 then 1 else 4)

/-- A waiting transaction whose commit point is the commit itself, tried again. -/
def retryTxn (s : State) (h : Nat) : State :=
  match s.dunrel.txns.find? fun t => t.handle == h && t.waits with
  | none => s
  | some t =>
    if t.state == .checking then s
    else if commitPoint s t != .now && !(t.imageCmd == 2 && t.image.isNone) then s
    else if t.imageCmd != 0 && t.image.isNone then (if behind s t then s else beginChecks s t)
    else tryWaiting s t

/-- Waiting transactions in the order in which their TXN_COMMIT reached Ligger (R473). -/
def waitingInOrder (s : State) : List Nat :=
  (sortBy (fun a b => decide (a.order ≤ b.order)) (s.dunrel.txns.filter Txn.waits)).map Txn.handle

/-- A pin released or a transaction ended: those that wait for the present point are tried (R472, R473). -/
def settle (s : State) : State := (waitingInOrder s).foldl retryTxn s

/-- The transactions of a place in the boundary of the running step (R29, R471). -/
def boundaryTxns (s : State) (place : Nat) : State :=
  (waitingInOrder s).foldl (fun u h =>
    match u.dunrel.txns.find? fun t => t.handle == h && t.waits with
    | none => u
    | some t =>
      let due := match commitPoint s t with | .now => false | .boundary => true | .last n => decide (n ≤ s.job.step)
      if t.place != place || t.state == .checking || !due || (t.imageCmd == 2 && t.image.isNone) then u else tryWaiting u t) s

/-- TXN_COMMIT reaches Ligger (R469 to R473, R490): the transaction as it then stands, and the code of the response. -/
def submit (s : State) (t : Txn) : State × Nat :=
  let c := firstBad [objChecks s t, jobRules s t]
  if c ≠ eOK then (bump (dropTxn s t.handle) Obj.txnAborted 1, c)
  else
    let t := { t with order := s.dunrel.nextOrder }
    let s := putTxn (modDun s fun d => { d with nextOrder := d.nextOrder + 1 }) t
    if behind s t then (putTxn s { t with state := .due }, eDEFERRED)
    else if t.imageCmd ≠ 0 then (beginChecks s t, eDEFERRED)
    else if commitPoint s t ≠ .now then (putTxn s { t with state := .due }, eDEFERRED)
    else if pinned s t then (deferTxn s t, eDEFERRED)
    else match commitTxn s t with
      | .ok u => (settle (bump (dropTxn u t.handle) Obj.txnCommitted 1), eOK)
      | .error c => (bump (dropTxn s t.handle) Obj.txnAborted 1, c)

/-! ### Image checks (R490) -/

/-- IMAGE_LOAD_DONE (R490): the checks of a LOAD end; the image is in use, or refused and none is. -/
def execImageLoadDone (img : Image) (s : State) : Host.Outcome State Fault Refusal :=
  match s.dunrel.txns.find? fun t => t.state == .checking && t.imageCmd == 1 with
  | none => .next s
  | some t =>
    match commitTxn s t with
    | .error c => .next (settle (endTxn s t c))
    | .ok u =>
      let v := installLoad u img
      match imageFault u v img with
      | none => .next (settle (endTxn (setReg v Obj.imageState 2) t eOK))
      | some e =>
        .next (settle (setReg (setImageErr (unloadImage (endTxn s t eSCHED)) e) Obj.imageState 3))

/-- IMAGE_SWAP_CHECK_DONE (R490): the checks of a SWAP end; it waits for a boundary, or is refused while the old image
runs on. -/
def execImageSwapCheckDone (img : Image) (s : State) : Host.Outcome State Fault Refusal :=
  match s.dunrel.txns.find? fun t => t.state == .checking && t.imageCmd == 2 with
  | none => .next s
  | some t =>
    let u := writeAll s t
    match imageFault u (installSwap u img) img with
    | none => .next (putTxn s { t with state := .due, image := some img })
    | some e => .next (settle (setImageErr (endTxn s t eSCHED) e))

end Sys2Proof.Machine
end

