-- ==== Sys2Proof/Machine/Dunrel.lean ====
section
/-!
DEFINITION. Dunrel: sessions and handshakes (R459 to R462), requests and responses (R463 to R466, R482, R558), events
(R467), transactions over Dunrel (R469, R474), attestation (R535, R536), and the commands that name one object.
-/
namespace Sys2Proof.Machine

/-! ### Sessions (R459 to R462) -/

/-- The lowest free session slot. -/
def freeSession (s : State) : Option Sess := (List.finRange 16).find? fun i => s.dunrel.sessions[i].isNone

/-- Whether Dunrel is served: Dormer runs, no start waits, and the link is up (R431, R507, R509). -/
def dunrelUp (s : State) : Bool := s.power.dormer && s.power.start.isNone && s.dev != .off && portUp s

/-- A handshake refused for its certificate: the alert and the violation entry (R460, R479). -/
def refuseHandshake (s : State) (h : Handshake) (name : String) : State :=
  violation (send s (.alert h.peer name)) 0 0xFFFFFF 2 (h.peer % 2 ^ 64) eAUTH (((h.key.getD []).take 8))

/-- The level that R460 gives a client; 0 refuses it. -/
def handshakeLevel (s : State) (h : Handshake) (key : List Byte) : Nat :=
  if h.vendor then 4
  else if listedLevel s key ≠ 0 then listedLevel s key
  else if reg s Obj.openObserver = 1 then 1 else 0

/-- A session established in a slot (R460). -/
def openSession (s : State) (i : Sess) (h : Handshake) (key : List Byte) (level : Nat) : State :=
  let x : Session := { level := level, peer := h.peer, key := key, last := s.clk, idle := reg s Obj.sessionIdle }
  modDun s fun d => { d with sessions := d.sessions.set i (some x) }

/-- DTLS_HANDSHAKE (R459, R460, R462, R534): the alerts in the order of the handshake, then the session's level. -/
def execDtlsHandshake (h : Handshake) (s : State) : Host.Outcome State Fault Refusal :=
  if !dunrelUp s then .next s
  else if h.inProgress > 4 ∨ (freeSession s).isNone ∨ s.power.noiseBad then .next (send s (.alert h.peer "internal_error"))
  else if !h.version13 then .next (send s (.alert h.peer "protocol_version"))
  else if !h.suiteOk then .next (send s (.alert h.peer "handshake_failure"))
  else match h.key, freeSession s with
    | none, _ => .next (refuseHandshake s h "certificate_required")
    | some key, free =>
      if !h.certOk then .next (refuseHandshake s h "bad_certificate")
      else
        let level := handshakeLevel s h key
        match free with
        | none => .next (send s (.alert h.peer "internal_error"))
        | some i => if level = 0 then .next (refuseHandshake s h "access_denied") else .next (openSession s i h key level)

/-- CLOSE_NOTIFY (R462). -/
def execCloseNotify (i : Sess) (s : State) : Host.Outcome State Fault Refusal := .next (endSession s i)

/-- SESSION_IDLE_EXPIRY (R462, R480): no record for the idle limit that the session began with. -/
def execSessionIdleExpiry (i : Sess) (s : State) : Host.Outcome State Fault Refusal :=
  match s.dunrel.sessions[i] with
  | none => .next s
  | some x => .next (if elapsed s x.last x.idle then endSession s i else s)

/-! ### Requests and responses (R463 to R466) -/

/-- The header fields that a response echoes (R464). -/
def answer (m : DReq) (code : Nat) : DMsg :=
  { type := m.type, code := code, reqId := m.reqId, index := m.index, sub := m.sub, txn := m.txn, element := m.element
    count := m.count }

/-- Responses kept for the last 128 requests of a session (R466), newest first. -/
def keepAnswers (l : List (Nat × DMsg)) : List (Nat × DMsg) :=
  let ids := (l.map Prod.fst).eraseDups.take 128
  l.filter fun x => ids.contains x.1

/-- Responses handed to the port and kept (R464, R466); an E_ACCESS response is a violation (R479). -/
def respond (s : State) (m : DReq) (ds : List DMsg) : State :=
  match s.dunrel.sessions[m.sess] with
  | none => s
  | some x =>
    let denied := ds.any fun d => d.code == eACCESS
    let mem := (m.type == 1 || m.type == 2) && m.index == 0x3200 && memCode (m.type == 2) m.element != eOK
    let addr := if mem then memElement m.element else m.element * 2 ^ 32 + m.index * 2 ^ 16 + m.sub * 2 ^ 8
    let s := if denied || (mem && ds.any fun d => d.code == eRANGE) then
        violation s 0 m.sess.val (if mem then 0 else 1) addr ((ds.map DMsg.code).headD 0) (x.key.take 8)
      else s
    let s := ds.foldl (fun t d => send t (.dunrel m.sess true d)) s
    modSess s m.sess fun y => { y with kept := keepAnswers ((ds.reverse.map fun d => (m.reqId, d)) ++ y.kept) }

/-- One response. -/
def reply (s : State) (m : DReq) (code : Nat) : State := respond s m [answer m code]

/-- A request as it reaches Dunrel (R462, R463, R466): messages that R463 drops change nothing but the idle time, and a
request whose number is kept is answered again. -/
def receive (s : State) (m : DReq) (f : State → Session → State) : State :=
  match s.dunrel.sessions[m.sess] with
  | none => s
  | some x =>
    let s := modSess s m.sess fun y => { y with last := s.clk }
    if m.ver ≠ 1 ∨ !m.lenOk ∨ m.payload.length > segMax s then s
    else
      let old := (x.kept.filter fun k => k.1 == m.reqId).reverse
      if old.isEmpty ∨ m.type = 8 then f s { x with last := s.clk }
      else old.foldl (fun t k => send t (.dunrel m.sess true k.2)) s

/-- The transaction that a request names, for its own session (R469). -/
def ownTxn (s : State) (m : DReq) : Option Txn := s.dunrel.txns.find? fun t => t.handle == m.txn && t.sess == m.sess

/-- A message names a transaction: its idle time starts again (R469). -/
def touchTxn (s : State) (m : DReq) : State :=
  match ownTxn s m with
  | some t => putTxn s { t with last := s.clk }
  | none => s

/-! ### READ (R465, R482, R483, R558) -/

/-- Staged bytes laid over a value as it stands. -/
def overlay (base : List Byte) (v : StagedVal) : List Byte :=
  (base.zipIdx).map fun (b, i) => (v.segs.findSome? fun x => if x.1 ≤ i ∧ i < x.1 + x.2.length then x.2[i - x.1]? else none).getD b

/-- Text without the zeros after it. -/
def trimText (b : List Byte) : List Byte := (b.reverse.dropWhile (· == 0#8)).reverse

/-- n bytes that the manual leaves open (R497, log 12: DESIGN CHOICE). -/
def freeBytes : Nat → State → List Byte × State
  | 0, s => ([], s)
  | n + 1, s =>
    let w := takeFree s
    let r := freeBytes n w.2
    (BitVec.ofNat 8 w.1.toNat :: r.1, r.2)

/-- One element on the wire: as it stands, or as it stood at TXN_OPEN with what the transaction staged (R465, R483). -/
def elementBytes (s : State) (t : Option Txn) (r : ObjRow) (e : Nat) : List Byte :=
  let k := objKey r.idx r.sub e
  let v := match t with
    | none => liveValue s k
    | some x => if r.idx = 0x0011 then liveValue s k else reg { s with regs := x.snapRegs } k
  let b := if r.ty = .str then trimText (leBytes 64 v) else r.ty.toWire v
  match t.bind fun x => x.staged r.idx r.sub e with
  | some v => overlay b v
  | none => b

/-- Part of a MEM_ACCESS element: granule by granule from module memory through the hub queue, none for an error response
(R491). -/
def memPart (s : State) (a n : Nat) : State × Option (List Byte) :=
  if a ≥ memEnd then (s, some (readBytes s a n))
  else
    let r := (granulesOf a n).foldl (fun (acc : State × List Byte × Bool) g =>
      match readGranule acc.1 g [] [] 0x0200 with
      | (t, some d) => (t, acc.2.1 ++ d, acc.2.2)
      | (t, none) => (t, acc.2.1, true)) (s, [], false)
    (r.1, if r.2.2 then none else some ((r.2.1.drop (a % 256)).take n))

/-- A READ that passed its checks: TOTAL and the bytes of the response. -/
def readValue (s : State) (t : Option Txn) (r : ObjRow) (m : DReq) : State × Option (Nat × List Byte) :=
  if r.idx = 0x3200 then
    let n := min (segMax s) (0x100000 - m.offset)
    let old := s.mem
    let s1 := match t with | some x => { s with mem := x.snapMem } | none => s
    let (s2, d) := memPart s1 (memElement m.element + m.offset) n
    let s3 := match t with | some _ => { s2 with mem := old } | none => s2
    let lay := fun b => match t.bind fun x => x.staged r.idx r.sub m.element with
      | some v => overlay b { v with segs := v.segs.filterMap fun g =>
          if g.1 + g.2.length ≤ m.offset then none else some (g.1 - m.offset, g.2.drop (m.offset - g.1)) }
      | none => b
    (s3, d.map fun b => (0x100000, lay b))
  else if 0xF000 ≤ r.idx then
    let x := (List.range m.count).foldl (fun (acc : List Byte × State) i =>
      let y := freeBytes r.ty.size acc.2
      (acc.1 ++ (match t.bind fun x => x.staged r.idx r.sub (m.element + i) with
        | some v => overlay y.1 v
        | none => y.1), y.2)) ([], s)
    (x.2, some (x.1.length, (x.1.drop m.offset).take (segMax s)))
  else
    let b := (List.range m.count).flatMap fun i => elementBytes s t r (m.element + i)
    (s, some (b.length, (b.drop m.offset).take (segMax s)))

/-- The checks of a READ in the order of R558. -/
def readCheck (s : State) (x : Session) (m : DReq) : Nat :=
  if vendorLocked s x.level m.index then eACCESS
  else match objectRow m.index m.sub with
  | none => eRANGE
  | some r =>
    let total := r.ty.size * m.count
    if r.rd = 0 ∨ x.level < r.rd then eACCESS
    else if !r.elemsOk m.element m.count || decide (total < m.offset) || (decide (segMax s < total) && m.count != 1) then eRANGE
    else if r.idx = 0x3200 ∧ memCode false m.element ≠ eOK then eRANGE
    else eOK

/-- READ's response. A payload and a handle that is not the session's own are answered before the object is looked at, those of
the vendor-test range included (R464, R469 before R3 and R558, log 83: DEDUCED). -/
def readReq (m : DReq) (s : State) (x : Session) : State :=
  let s := touchTxn s m
  if m.payload ≠ [] then reply s m eTYPE
  else if m.txn ≠ 0 ∧ (ownTxn s m).isNone then reply s m eSTATE
  else
    let c := readCheck s x m
    if c ≠ eOK then reply s m c
    else match objectRow m.index m.sub with
      | none => reply s m eRANGE
      | some r =>
        match readValue s (if m.txn = 0 then none else ownTxn s m) r m with
        | (t, none) => reply t m eUNCORR
        | (t, some (total, b)) =>
          respond t m [{ answer m eOK with offset := m.offset, total := total, payload := b,
                                            more := decide (m.offset + b.length < total) }]

/-- READ (R465, R482, R483, R558). -/
def execRead (m : DReq) (s : State) : Host.Outcome State Fault Refusal :=
  .next (if m.type ≠ 1 then s else receive s m (readReq m))

/-! ### WRITE (R465, R469, R474, R558) -/

/-- A segment without the bytes that another one covers. -/
def clipSeg (o n : Nat) (g : Nat × List Byte) : List (Nat × List Byte) :=
  let len := g.2.length
  if o + n ≤ g.1 ∨ g.1 + len ≤ o then [g]
  else
    (if g.1 < o then [(g.1, g.2.take (o - g.1))] else []) ++
    (if o + n < g.1 + len then [(o + n, g.2.drop (o + n - g.1))] else [])

/-- Bytes staged: those that they replace go (R469). -/
def putSeg (segs : List (Nat × List Byte)) (o : Nat) (b : List Byte) : List (Nat × List Byte) :=
  if b.isEmpty then segs else (o, b) :: segs.flatMap (clipSeg o b.length)

/-- Bytes staged for one element. -/
def putVal (vals : List StagedVal) (e total o : Nat) (b : List Byte) : List StagedVal :=
  if vals.any fun v => v.elem == e then vals.map fun v => if v.elem = e then { v with segs := putSeg v.segs o b } else v
  else vals ++ [{ elem := e, total := total, segs := putSeg [] o b }]

/-- The bytes of a WRITE laid into the elements that it names. -/
def putVals (vals : List StagedVal) (size : Nat) (m : DReq) : List StagedVal :=
  (List.range m.count).foldl (fun l j =>
    let lo := max m.offset (j * size)
    let hi := min (m.offset + m.payload.length) ((j + 1) * size)
    putVal l (m.element + j) size (lo - j * size) (if lo < hi then (m.payload.drop (lo - m.offset)).take (hi - lo) else [])) vals

/-- A WRITE staged (R469): each WRITE of KV_EDIT is an object write of its own (R474). -/
def stageWrite (t : Txn) (r : ObjRow) (m : DReq) : Txn :=
  if r.idx ≠ 0x6030 ∧ t.writes.any (fun w => w.index == r.idx && w.sub == r.sub) then
    { t with writes := t.writes.map fun w =>
        if w.index = r.idx ∧ w.sub = r.sub then { w with vals := putVals w.vals r.ty.size m } else w }
  else { t with writes := t.writes ++ [{ index := r.idx, sub := r.sub, vals := putVals [] r.ty.size m }] }

/-- Staged bytes of a transaction. -/
def Txn.bytes (t : Txn) : Nat :=
  ((t.writes.flatMap fun w => w.vals.flatMap fun v => v.segs.map fun g => g.2.length)).foldl (· + ·) 0

/-- The limits of R469. -/
def Txn.within (t : Txn) : Bool := decide (t.writes.length ≤ 256 ∧ t.bytes ≤ 4194304)

/-- The checks of a WRITE that R465 gives, in the order of R558; `t` is the transaction as it would stand. -/
def writeCheck (s : State) (x : Session) (t : Txn) (r : ObjRow) (m : DReq) : Nat :=
  let total := r.ty.size * m.count
  let wholeMsg := m.offset == 0 && m.payload.length == m.total
  let list := (t.writes.filter fun w => w.index == 0x1030).flatMap ObjWrite.vals
  if !writeLevelOk x r then eACCESS
  else if r.idx == 0x1030 && !accessListOk s x (list.length == 1) m.payload then eACCESS
  else if r.idx == 0x3200 && memCode true m.element == eACCESS then eACCESS
  else if !r.elemsOk m.element m.count || (decide (segMax s < total) && m.count != 1) then eRANGE
  else if (t.once || r.idx == 0x6030) && !wholeMsg then eRANGE
  else if r.idx == 0x3200 && memCode true m.element == eRANGE then eRANGE
  else if m.total ≠ total ∨ m.offset + m.payload.length > m.total then eTYPE
  else eOK

/-- The lowest free handle (R469). -/
def freeHandle (s : State) : Option Nat :=
  if s.dunrel.txns.length ≥ 4 then none else (List.range 255).findSome? fun i =>
    if s.dunrel.txns.any fun t => t.handle == i + 1 then none else some (i + 1)

/-- Whether an object is written in transactions only (R469, R482). -/
def ObjRow.txnOnly (r : ObjRow) : Bool := r.cond == .txn || r.cond == .txnReady || r.cond == .txnRunning || r.cond == .txnMaint

/-- A WRITE outside a transaction: one of its own (R469). -/
def writeAlone (m : DReq) (s : State) (x : Session) (r : ObjRow) (y : StartRun) : State :=
  match freeHandle s with
  | none => if r.txnOnly then reply s m eSTATE else reply s m eRANGE
  | some h =>
    let t := stageWrite { handle := h, sess := m.sess, once := true, last := s.clk, reqId := m.reqId } r m
    let c := writeCheck s x t r m
    if c ≠ eOK then reply s m c
    else
      let (u, d) := submit (modDun s fun d => { d with txns := d.txns ++ [t] }) t
      let u := reply u m d
      if d = eOK then resetAfter u t y else u

/-- A WRITE in a transaction (R469). -/
def writeStaged (m : DReq) (s : State) (x : Session) (r : ObjRow) : State :=
  match ownTxn s m with
  | none => reply s m eSTATE
  | some t =>
    if t.state != .open then reply s m eSTATE
    else
      let u := stageWrite t r m
      let c := writeCheck s x u r m
      if !u.within then reply s m eRANGE else if c ≠ eOK then reply s m c else reply (putTxn s u) m eOK

/-- WRITE's response. `y` is what the tests of a reset find, when the write starts one. A handle that is not the session's own is
answered before the object is looked at (R469 before R3 and R558, log 83: DEDUCED). -/
def writeReq (m : DReq) (y : StartRun) (s : State) (x : Session) : State :=
  let s := touchTxn s m
  if m.txn ≠ 0 ∧ (ownTxn s m).isNone then reply s m eSTATE
  else if vendorLocked s x.level m.index then reply s m eACCESS
  else match objectRow m.index m.sub with
    | none => reply s m eRANGE
    | some r => if m.txn = 0 then writeAlone m s x r y else writeStaged m s x r

/-- WRITE (R465, R469, R558). -/
def execWrite (m : DReq) (s : State) : Host.Outcome State Fault Refusal :=
  .next (if m.type ≠ 2 then s else receive s m (writeReq m {}))

/-! ### Transactions (R469) -/

/-- TXN_OPEN's response. -/
def openReq (m : DReq) (s : State) (_ : Session) : State :=
  if m.payload ≠ [] then reply s m eTYPE
  else match freeHandle s with
    | none => reply s m eRANGE
    | some h =>
      let t : Txn := { handle := h, sess := m.sess, last := s.clk, reqId := m.reqId, snapRegs := snapshot s, snapMem := s.mem }
      respond (modDun s fun d => { d with txns := d.txns ++ [t] }) m [{ answer m eOK with txn := h }]

/-- TXN_OPEN (R469). -/
def execTxnOpen (m : DReq) (s : State) : Host.Outcome State Fault Refusal :=
  .next (if m.type ≠ 3 then s else receive s m (openReq m))

/-- TXN_COMMIT's response; the reset of a committed RESET_REQ follows it (R493). -/
def commitReq (m : DReq) (y : StartRun) (s : State) (_ : Session) : State :=
  let s := touchTxn s m
  if m.payload ≠ [] then reply s m eTYPE
  else match ownTxn s m with
    | none => reply s m eSTATE
    | some t =>
      if t.state != .open then reply s m eSTATE
      else
        let (u, d) := submit s t
        let u := reply u m d
        if d = eOK then resetAfter u t y else u

/-- TXN_COMMIT (R469, R470). -/
def execTxnCommit (m : DReq) (s : State) : Host.Outcome State Fault Refusal :=
  .next (if m.type ≠ 4 then s else receive s m (commitReq m {}))

/-- TXN_ABORT's response: a waiting transaction is unchanged. -/
def abortReq (m : DReq) (s : State) (_ : Session) : State :=
  let s := touchTxn s m
  if m.payload ≠ [] then reply s m eTYPE
  else match ownTxn s m with
    | none => reply s m eSTATE
    | some t => if t.state != .open then reply s m eSTATE else reply (abortTxn s t) m eOK

/-- TXN_ABORT (R469). -/
def execTxnAbort (m : DReq) (s : State) : Host.Outcome State Fault Refusal :=
  .next (if m.type ≠ 5 then s else receive s m (abortReq m))

/-- TXN_IDLE_EXPIRY (R469): an OPEN transaction that no message has named for TXN_IDLE is aborted. -/
def execTxnIdleExpiry (h : Nat) (s : State) : Host.Outcome State Fault Refusal :=
  match s.dunrel.txns.find? fun t => t.handle == h && t.state == .open with
  | none => .next s
  | some t => .next (if elapsed s t.last (reg s Obj.txnIdle) then abortTxn s t else s)

/-- TXN_DEFER_LIMIT_EXPIRY (R314, R469, R472): `late` says that the release is registered in the cycle of expiry. -/
def execTxnDeferLimitExpiry (h : Nat) (late : Bool) (s : State) : Host.Outcome State Fault Refusal :=
  match s.dunrel.txns.find? fun t => t.handle == h with
  | none => .next s
  | some t =>
    match t.state with
    | .deferred since =>
      if !elapsed s since (reg s Obj.txnDeferLimit) then .next s
      else if late then .next (lateAccept s 3)
      else .next (settle (endTxn s t eCONFLICT))
    | _ => .next s

/-! ### Events (R467) -/

/-- SUBSCRIBE's response: the mask replaced; a session that now takes RETAINED_DEFAULTS after a start with both copies
failing is told (R502, log 66: DEDUCED). -/
def subscribeReq (m : DReq) (s : State) (x : Session) : State :=
  if m.payload.length ≠ 4 then reply s m eTYPE
  else
    let mask := ofBE m.payload % 2 ^ 12
    let s := reply (modSess s m.sess fun y => { y with mask := mask }) m eOK
    if bitOf mask 10 && !bitOf x.mask 10 && bitOf (reg s Obj.retainedStatus) 2 then deliver s m.sess 10 [] else s

/-- SUBSCRIBE (R467). -/
def execSubscribe (m : DReq) (s : State) : Host.Outcome State Fault Refusal :=
  .next (if m.type ≠ 6 then s else receive s m (subscribeReq m))

/-- EVENT_ACK's effect: the event is sent no more. It has no response unless its length is wrong (R464). -/
def eventAckReq (m : DReq) (s : State) (_ : Session) : State :=
  if m.payload ≠ [] then reply s m eTYPE
  else modSess s m.sess fun y => { y with unacked := y.unacked.filter fun e => e.num != m.reqId }

/-- EVENT_ACK (R467). -/
def execEventAck (m : DReq) (s : State) : Host.Outcome State Fault Refusal :=
  .next (if m.type ≠ 8 then s else receive s m (eventAckReq m))

/-- EVENT_RESEND (R467): an event not acknowledged for 20 ms is sent again, or discarded after 8 sends. -/
def execEventResend (i : Sess) (num : Nat) (s : State) : Host.Outcome State Fault Refusal :=
  match s.dunrel.sessions[i] with
  | none => .next s
  | some x =>
    match x.unacked.find? fun e => e.num == num with
    | none => .next s
    | some e =>
      if !elapsed s e.last 20000000 then .next s
      else if e.sends ≥ 8 then
        .next (bump (modSess s i fun y => { y with unacked := y.unacked.filter fun z => z.num != num }) (Obj.eventDropped + i.val) 1)
      else
        let s := modSess s i fun y => { y with unacked := y.unacked.map fun z =>
          if z.num = num then { z with sends := z.sends + 1, last := s.clk } else z }
        .next (send s (.dunrel i false (eventMsg num e.record)))

/-! ### Attestation (R535, R536) -/

/-- The report without its signature (R536). -/
def attestBody (s : State) (nonce : List Byte) : List Byte :=
  let n := reg s Obj.measLogLen
  let log := (regBytes s Obj.measLog).take n
  leBytes 2 1 ++ leBytes 1 s.dev.code ++ leBytes 1 (reg s Obj.fwActive) ++ leBytes 4 (securityVersion s)
    ++ leBytes 8 (reg s Obj.serial) ++ leBytes 8 (fuseWord s) ++ leBytes 4 (reg s Obj.fwVersion)
    ++ leBytes 2 (reg s Obj.arithRev) ++ leBytes 1 (reg s Obj.ptpState) ++ leBytes 1 0 ++ nonce ++ leBytes 8 (ptpNow s)
    ++ leBytes 4 (reg s Obj.startCount) ++ leBytes 4 n ++ padTo 32 (log.drop 0x20) ++ regBytes s Obj.imageLoadedHash
    ++ regBytes s Obj.vendorKeyHash ++ log

/-- A report in consecutive responses (R535). -/
def attestParts (m : DReq) (total n : Nat) : Nat → Nat → List Byte → List DMsg
  | 0, _, _ => []
  | f + 1, o, b =>
    if b.length ≤ n then [{ answer m eOK with offset := o, total := total, payload := b }]
    else { answer m eOK with offset := o, total := total, more := true, payload := b.take n } :: attestParts m total n f (o + n) (b.drop n)

/-- ATTEST's response (R534 to R536). A report is signed within its command, so no five are signed at once (log 89: DESIGN CHOICE). -/
def attestReq (m : DReq) (s : State) (_ : Session) : State :=
  if m.payload.length ≠ 32 then reply s m eTYPE
  else if s.power.noiseBad then reply s m eSTATE
  else
    let body := attestBody s m.payload
    let rep := body ++ padTo 64 (Config.signature (sha256 body) s.power.signatures)
    let s := modPower s fun p => { p with signatures := p.signatures + 1 }
    respond s m (attestParts m rep.length (segMax s) (rep.length + 1) 0 rep)

/-- ATTEST (R535). -/
def execAttest (m : DReq) (s : State) : Host.Outcome State Fault Refusal :=
  .next (if m.type ≠ 0x0A then s else receive s m (attestReq m))

/-! ### CLOSE and other types -/

/-- CLOSE's response, after which the session ends (R462). -/
def closeReq (m : DReq) (s : State) (_ : Session) : State :=
  if m.payload ≠ [] then reply s m eTYPE else endSession (reply s m eOK) m.sess

/-- CLOSE (R462, R464). -/
def execClose (m : DReq) (s : State) : Host.Outcome State Fault Refusal :=
  .next (if m.type ≠ 0x0B then s else receive s m (closeReq m))

/-- Request types of R464. -/
def requestTypes : List Nat := [1, 2, 3, 4, 5, 6, 8, 9, 0x0A, 0x0B]

/-- OTHER_TYPE_REQUEST (R464). -/
def execOtherTypeRequest (m : DReq) (s : State) : Host.Outcome State Fault Refusal :=
  .next (if requestTypes.contains m.type then s else receive s m fun t _ => reply t m eRANGE)

/-! ### Commands that name one object -/

/-- Whether a transaction writes an object with a value that satisfies a condition. -/
def Txn.writesTo (t : Txn) (idx : Nat) (p : List Byte → Bool) : Bool :=
  t.writes.any fun w => w.index == idx && w.vals.any fun v => p v.bytes

/-- Whether a request is a WRITE of an object outside a transaction, or the commit of a transaction that writes it, with a
value that satisfies a condition. -/
def names (s : State) (m : DReq) (idx : Nat) (p : List Byte → Bool) : Bool :=
  (m.type == 2 && m.txn == 0 && m.index == idx && p m.payload)
  || (m.type == 4 && (ownTxn s m).any fun t => t.writesTo idx p)

/-- The request executed as a WRITE or a TXN_COMMIT. -/
def serve (m : DReq) (y : StartRun) (s : State) : State :=
  receive s m (if m.type = 2 then writeReq m y else commitReq m y)

/-- A command for writes of one object. -/
def objectCommand (m : DReq) (idx : Nat) (p : List Byte → Bool) (y : StartRun) (s : State) : State :=
  if names s m idx p then serve m y s else s

/-- Any value. -/
def anyValue (_ : List Byte) : Bool := true

/-- A one-byte code. -/
def codeIs (c : Nat) (b : List Byte) : Bool := byteAt b 0 == c

/-- ACCESS_LIST_WRITE (R461). -/
def execAccessListWrite (m : DReq) (s : State) : Host.Outcome State Fault Refusal := .next (objectCommand m 0x1030 anyValue {} s)

/-- Whether a commit writes JOB_MODE in a device state with a code. -/
def modeCommit (s : State) (m : DReq) (d : DeviceState) (p : Nat → Bool) : Bool :=
  s.dev == d && names s m 0x1011 fun b => p (byteAt b 0)

/-- JOB_START (R11): `plan` is what the serving schedule appends in the first step (log 36: DESIGN CHOICE). -/
def execJobStart (m : DReq) (plan : List (Nat × Nat)) (s : State) : Host.Outcome State Fault Refusal :=
  .next (if modeCommit s m .ready (· != 0) && !((ownTxn s m).any Txn.joins) then
    serve m {} { s with job := { s.job with plan := plan } } else s)

/-- JOB_MODE_SWITCH (R8, R9, R35). -/
def execJobModeSwitch (m : DReq) (s : State) : Host.Outcome State Fault Refusal :=
  .next (if modeCommit s m .running (· != 0) then serve m {} s else s)

/-- JOB_END (R12). -/
def execJobEnd (m : DReq) (s : State) : Host.Outcome State Fault Refusal :=
  .next (if modeCommit s m .running (· == 0) then serve m {} s else s)

/-- The serving of a join transaction at a spare (R444). -/
def joinCommit (m : DReq) (s : State) : State :=
  if m.type == 4 && (ownTxn s m).any Txn.joins then serve m {} s else s

/-- RANK_MAP_REDRAW (R385). -/
def execRankMapRedraw (m : DReq) (s : State) : Host.Outcome State Fault Refusal :=
  .next (if (ownTxn s m).any Txn.joins then s else objectCommand m 0x4800 anyValue {} s)

/-- ENDPOINT_WRITE (R387). -/
def execEndpointWrite (m : DReq) (s : State) : Host.Outcome State Fault Refusal := .next (objectCommand m 0x4900 anyValue {} s)

/-- ADMIT (R268, R474). -/
def execAdmit (m : DReq) (s : State) : Host.Outcome State Fault Refusal := .next (objectCommand m 0x6030 (codeIs 0) {} s)

/-- FORK (R268, R474). -/
def execFork (m : DReq) (s : State) : Host.Outcome State Fault Refusal := .next (objectCommand m 0x6030 (codeIs 1) {} s)

/-- EVICT (R268, R474). -/
def execEvict (m : DReq) (s : State) : Host.Outcome State Fault Refusal := .next (objectCommand m 0x6030 (codeIs 2) {} s)

/-- RETIRE (R268, R474). -/
def execRetire (m : DReq) (s : State) : Host.Outcome State Fault Refusal := .next (objectCommand m 0x6030 (codeIs 3) {} s)

/-- IMAGE_LOAD (R490). -/
def execImageLoad (m : DReq) (s : State) : Host.Outcome State Fault Refusal := .next (objectCommand m 0x2001 (codeIs 1) {} s)

/-- IMAGE_SWAP (R490). -/
def execImageSwap (m : DReq) (s : State) : Host.Outcome State Fault Refusal := .next (objectCommand m 0x2001 (codeIs 2) {} s)

/-- STATE_REQ_ASLEEP (R508). -/
def execStateReqAsleep (m : DReq) (s : State) : Host.Outcome State Fault Refusal := .next (objectCommand m 0x1012 (codeIs 1) {} s)

/-- STATE_REQ_READY (R508). -/
def execStateReqReady (m : DReq) (s : State) : Host.Outcome State Fault Refusal := .next (objectCommand m 0x1012 (codeIs 2) {} s)

/-- STATE_REQ_MAINT (R508). -/
def execStateReqMaint (m : DReq) (s : State) : Host.Outcome State Fault Refusal := .next (objectCommand m 0x1012 (codeIs 5) {} s)

/-- RESTORE_DEFAULTS (R488). -/
def execRestoreDefaults (m : DReq) (s : State) : Host.Outcome State Fault Refusal := .next (objectCommand m 0x1013 (codeIs 1) {} s)

/-- RESET_REQ (R493, R512): `y` is what the start-up tests of the reset find. -/
def execResetReq (m : DReq) (y : StartRun) (s : State) : Host.Outcome State Fault Refusal :=
  .next (objectCommand m 0x8040 (codeIs 1) y s)

/-- MEM_ACCESS_WRITE (R491). -/
def execMemAccessWrite (m : DReq) (s : State) : Host.Outcome State Fault Refusal := .next (objectCommand m 0x3200 anyValue {} s)

/-- FW_STAGE_WRITE (R537). -/
def execFwStageWrite (m : DReq) (s : State) : Host.Outcome State Fault Refusal := .next (objectCommand m 0x9012 anyValue {} s)

/-- FW_CHECK (R537). -/
def execFwCheck (m : DReq) (s : State) : Host.Outcome State Fault Refusal := .next (objectCommand m 0x9013 (codeIs 1) {} s)

/-- FW_SELECT (R537). -/
def execFwSelect (m : DReq) (s : State) : Host.Outcome State Fault Refusal := .next (objectCommand m 0x9013 (codeIs 2) {} s)

end Sys2Proof.Machine
end

