-- ==== Sys2Proof/Machine/Boundary.lean ====
section
/-!
DEFINITION. The step boundary (R28 to R31): what reaches it, its pauses (R176, R191, R277, R395, R424, R440), the log
record (R433, R445), the commits in their order (R29, R207, R271, R397, R398), securing (R436) and the next step.
-/
namespace Sys2Proof.Machine

/-! ### Reaching the boundary (R28, R30) -/

/-- Conditions 1 to 3 of R28: every closing mark has retired and no engine, pipeline or collective holds an operation. The shadow
samples whose rows and narrow results are captured have run and been compared (R172). -/
def workDone (s : State) : Bool :=
  (s.num.samples.all fun x => x.compared || x.rows.isNone || x.narrow.isNone) && allCores.all (fun l => (streamLen s l == 0 || (coreOf s l).closed) && (coreOf s l).flight.isEmpty)
    && s.kv.runs.isEmpty && s.kv.waiting.isEmpty && s.net.colls.isEmpty

/-- Whether the boundary of the running step was recorded before a rollback, so that its inputs are in the log (R443). -/
def replayed (s : State) : Bool := !(loggedAt s 5 s.job.step).isEmpty

/-- A pause or the data fetch holds the boundary (R421). -/
def hold (s : State) : State := { s with job := { s.job with held := true } }

/-- A function in host-assisted mode pauses at the boundary when its condition holds; a replayed boundary does not pause
(R177), and a pause that cannot be made leaves the timeout action (R476). -/
def pauseIf (s : State) (selector : Nat) (due : Bool) (report : State → List Byte) : State :=
  if due && hostMode s selector && !replayed s then
    let r := beginPause s selector (report s)
    if r.2 then hold r.1 else r.1
  else s

/-- Condition 4 of R28. -/
def shardsReady (s : State) : Bool := s.net.fetchDone && shardsWritten s

/-- The data fetch holds the boundary (R30, R395, R421): one pause a boundary in host-assisted mode. -/
def fetchHold (s : State) : State :=
  pauseIf (hold s) 0xA01A (!s.dunrel.pauses.any fun p => p.selector == 0xA01A && p.step == s.job.step) fetchReport

/-- The boundary is reached: pauses that ended are freed, the admission list is closed, and the functions that pause
before the log record do so (R176, R397, R477). -/
def openBoundary (s : State) (plan : List (Nat × Nat)) : State :=
  let s := freePauses { s with job := { s.job with stage := 1, plan := plan } }
  let s := sweepRequests (modNet s fun x => { x with admitClosed := true })
  pauseIf (pauseIf s 0xA011 true scaleReport) 0xA012 true outlierReport

/-! ### The key-value part (R271, R396 to R398) -/

/-- The serving requests of the boundary, in the order of their completion: in a replay those of the log (R397, R443). A logged request
is followed by its context (log 50: DESIGN CHOICE). -/
def boundaryReqs (s : State) : List ServeReq :=
  ((loggedAt s 4 s.job.step).map fun b =>
    let n := 32 + 4 * fieldBE b 4 4
    { ctx := fieldLE b n 2, bytes := b.take n : ServeReq }) ++ (if replayed s then [] else admitted s)

/-- The requests that are not in the log yet are entered (R434 kind 4). -/
def logReqs (s : State) : State :=
  (if replayed s then [] else admitted s).foldl (fun t q => appendLog t 4 t.job.step (q.bytes ++ leBytes 2 q.ctx)) s

/-- Items 1 to 4 of R271 and the response records of the boundary in sending order (R398): tokens, sequences ended, requests
refused; each front-end's records stand together. -/
def kvOpen (s : State) : State × List (Nat × List Byte) :=
  let reqs := boundaryReqs s
  let toks := tokenRecords s
  let s := modNet s fun x => { x with served := toks.2 }
  let adm := reqs.foldl serveOne (updateScores (growSeqs s), [])
  let s := setAppends (pushPages adm.1 adm.2) s.job.plan
  let ends := capRecords s
  let cut := retireCapped s
  let s := pushPages cut.1 cut.2
  let all := toks.1 ++ ends ++ s.net.refusals
  let ctxs := sortBy (fun a b => decide (a ≤ b)) (all.map Prod.fst).eraseDups
  (modNet s fun x => { x with refusals := [] }, ctxs.flatMap fun c => all.filter fun r => r.1 == c)

/-- Items 5 and 6 of R271: eviction, by the list given or the hardware's own, and allocation. -/
def kvClose (s : State) (evict : Option (List Byte)) : State :=
  let needed := pagesNeeded s s.job.plan
  let s := if evictionDue s needed then evictAll s ((evict.map parseEvictList).getD (proposeEvictions s needed)) else s
  allocAll s s.job.plan

/-- Each front-end receives one response message (R398). -/
def sendResponses (s : State) (l : List (Nat × List Byte)) : State :=
  (l.map Prod.fst).eraseDups.foldl (fun t c => sendMessage t c 5 0 ((l.filter fun r => r.1 == c).flatMap Prod.snd)) s

/-- Logged object writes of a replayed boundary (R177, R443). -/
def replayWrites (s : State) : State :=
  ((loggedAt s 2 s.job.step).filter fun b => byteAt b 3 == 0).foldl applyLogged s

/-- Logged edits of a replayed boundary, before the hardware edits (R270). -/
def replayEdits (s : State) : State :=
  (loggedAt s 3 s.job.step).foldl (fun t b => match (parseEdit b).elim (.error eRANGE) (fun e => applyEdits t [e] []) with
    | .ok u => u
    | .error _ => t) s

/-- The state in which the key-value items of the boundary begin, as far as they depend on it: what waits for the boundary
and stands before them in its order has been applied (R29, R270). -/
def beforeKv (s : State) : State := boundaryTxns (replayEdits (boundaryTxns (replayWrites s) 0)) 3

/-! ### The log record (R31, R433, R445) -/

/-- Whether hardware mode secures at the running boundary (R435, R436, R440), and has not begun to while it was held. -/
def secureDue (s : State) : Bool :=
  s.recov.securing.isNone && s.recov.early != some s.job.step && (s.recov.forced || (match s.recov.deferTo with
    | some b => decide (b ≤ s.job.step)
    | none => s.job.step % max 1 s.recov.interval == 0))

/-- Whether the record of the running step, 144 bytes with its header, finds the log full, so that securing starts at this boundary
(R434, R435). -/
def recordForces (s : State) : Bool :=
  s.recov.securing.isNone && (loggedAt s 5 s.job.step).isEmpty && decide (logBytesOf s.recov.log + 144 > reg s Obj.logCapacity)

/-- The 128-byte record of the running step (R433). -/
def stepRecord (s : State) (digest sloe resp : List Byte) (all : Bool) : List Byte :=
  let train := s.mode == .train
  let entries := (s.recov.log.filter fun e => decide (2 ≤ e.kind ∧ e.kind ≤ 4) && e.step == s.job.step).length
  let flags := (if s.num.norm.skipped then 1 else 0) + (if all then 2 else 0) + (if secureDue s || recordForces s then 4 else 0)
  let b := leBytes 8 s.job.step ++ leBytes 4 (if train then readLE s s.recov.lossAt 4 else 0)
    ++ leBytes 4 (if train then reg s Obj.globalNorm else 0) ++ digest ++ sloe ++ resp ++ leBytes 1 flags
    ++ leBytes 1 s.mode.code ++ leBytes 2 (reg s Obj.jobEpoch) ++ leBytes 4 entries
  padTo 128 (b ++ leBytes 4 (crc32c b).toNat)

/-- The result fields of a record: LOSS, GNORM, DIGEST, SLOE_HASH and RESP_HASH (R433). -/
def resultFields (b : List Byte) : List Byte := (b.drop 8).take 0x68

/-- The first replayed step reports its result (R443 step 4); a step that has no logged record has nothing to differ from. -/
def replayResult (s : State) (code : Nat) : State :=
  if s.recov.replaying && s.recov.replayStep == s.job.step then
    sendUp s { op := 5, code := code, fault := if code = 0 then 0 else 0x11, rank := ownRank s, step := s.job.step
               epoch := reg s Obj.jobEpoch, time := ptpNow s }
  else s

/-- The record is written, or compared with the one that the log holds (R443, R445). -/
def putRecord (s : State) (b : List Byte) : State :=
  let s := setReg s Obj.logLastRecord (ofLE b)
  match (loggedAt s 5 s.job.step).head? with
  | none => replayResult (appendLog s 5 s.job.step b) eOK
  | some old =>
    if resultFields old = resultFields b then replayResult s eOK else replayResult (replayMismatch s) eDIVERGE

/-- Whether the norm of the step asks for a clipping pause (R191): it is non-finite, or G > C. -/
def clipDue (s : State) : Bool :=
  let n := s.num.norm
  let c := BitVec.ofNat 32 (reg s Obj.clipThreshold)
  s.mode == .train && n.known && (normBad n || w32Lt c n.g)

/-- The trackers and layers of the step are brought up to date, the record is made, and the functions that pause after it do
so (R31, R154, R169, R174, R176, R424, R433). -/
def closeStep (s : State) : State :=
  let scale := decisionNow s 0xA011
  let outlier := decisionNow s 0xA012
  let s := (scale.map (logDecision s 0xA011)).getD s
  let s := (outlier.map (logDecision s 0xA012)).getD s
  let all := allFallback s
  let s := updateLayers (updateTrackers s scale outlier)
  let s := if all then raiseEvent (bump s Obj.sparAllFallback 1) 5 (beBytes 8 s.job.step) else s
  let serve := s.mode == .serve
  let s := if serve then logReqs s else s
  let kv := kvOpen (beforeKv s)
  let digest := trackerDigest s
  let sloe := sha256 (sloeRecord s s.job.step)
  let s := setReg (setReg s Obj.trackerDigest (ofLE digest)) Obj.sloeStateHash (ofLE sloe)
  let resp := if serve then sha256 (kv.2.flatMap Prod.snd) else List.replicate 32 0#8
  let s := putRecord s (stepRecord s digest sloe resp all)
  let above := decide (reg s Obj.stretchBudget < s.job.stepQuanta)
  let s := setReg s Obj.stepShift s.job.stepQuanta
  let s := if above then raiseEvent s 7 (beBytes 4 s.job.stepQuanta) else s
  let s := { s with job := { s.job with stage := 2 } }
  let needed := pagesNeeded kv.1 s.job.plan
  let s := pauseIf s 0xA010 (anyTrigger s || all) (fun t => fallbackReport t all)
  let s := pauseIf s 0xA013 (serve && evictionDue kv.1 needed) (fun _ => evictReport kv.1 needed)
  let s := pauseIf s 0xA014 above stretchReport
  let s := pauseIf s 0xA017 (clipDue s) clipReport
  pauseIf s 0xA018 (secureDue s && !s.recov.forced) secureReport

/-! ### The commits (R29, R207, R421) -/

/-- The flip (R190, R207): the FILLING slot becomes CURRENT with the next version, and the old CURRENT one HELD or FREE. A step that
has marked no slot marks it now, so that the version advances in every TRAIN step (log 82: DEDUCED). -/
def flip (s : State) : State :=
  let s := markFilling s
  match s.num.slots.findIdx? fun x => x.state == .filling with
  | none => s
  | some i =>
    let v := reg s Obj.versionCurrent + 1
    let slots := (s.num.slots.zipIdx).map fun (x, j) =>
      if j = i then { x with state := .current, version := v }
      else if x.state = .current then { x with state := if x.refs = 0 then .free else .held } else x
    setReg { s with num := { s.num with slots := slots } } Obj.versionCurrent v

/-- The emergency request for the remainder when a held boundary is released (R421). -/
def releaseStretch (s : State) : State :=
  let t := ptpNow s + reg s Obj.stretchLead
  if !s.job.held ∨ s.job.phases.isEmpty ∨ t ≤ nextStepStart s then s
  else requestStretch s s.job.step (s.job.phases.length - 1) (quantaFor (t - nextStepStart s)) true

/-- A rank treated as lost (R381, R424): its entries are marked and the loss is reported. -/
def loseRank (s : State) (rank : Nat) : State :=
  let s := modNet s fun x => { x with watches := x.watches.filter fun y => y.rank != rank }
  reportFault (putStatus (putStatus s rank 0 1 true) rank 1 1 true) 0x0F 1 0 eTIMEOUT 0xFF rank

/-- Whether a decision of the running boundary stands in the input log. -/
def decisionLogged (s : State) (selector : Nat) : Bool :=
  (s.recov.log ++ s.recov.waiting).any fun e => e.kind == 2 && e.step == s.job.step && fieldLE e.payload 0 2 == selector
    && byteAt e.payload 2 == 0 && byteAt e.payload 3 == 1

/-- The decisions taken after the log record enter the input log, before any commit uses them (R177, R191, R277, R435). -/
def logDecisions (s : State) : State :=
  [0xA010, 0xA017, 0xA013].foldl (fun t k =>
    match decisionNow t k with
    | some b => if decisionLogged t k then t else logDecision t k b
    | none => t) s

/-- The decisions that were taken after the log record (R176, R191, R424, R440). -/
def applyDecisions (s : State) : State :=
  let s := match decisionNow s 0xA010 with
    | some b => (List.range s.num.layers.length).foldl (fun t i => modLayer t i fun y => { y with offset := byteAt b i }) s
    | none => s
  let s := match decisionNow s 0xA017 with
    | some b => setReg s Obj.clipThreshold (fieldLE b 0 4)
    | none => s
  let s := match decidedAt s 0xA018 with
    | some b => if fieldLE b 0 2 = 0 then s else modRec s fun r => { r with deferTo := some (s.job.step + fieldLE b 0 2) }
    | none => s
  match decidedAt s 0xA014 with
  | some b => if fieldLE b 0 2 = 0xFFFF then s else loseRank s (fieldLE b 0 2)
  | none => s

/-- Item 3 of R29 with the hardware's key-value edits (R271) and the responses (R398). -/
def commitKv (s : State) : State :=
  let s := boundaryTxns (replayEdits s) 3
  if s.mode = .serve then
    let evict := decisionNow s 0xA013
    let r := kvOpen s
    sendResponses (kvClose r.1 evict) r.2
  else s

/-- Channels to be retired by copy begin to be copied (R341, R350). -/
def beginCopies (s : State) : State :=
  { s with ras := { s.ras with copying := s.ras.copying ++ s.ras.retireNext, retireNext := [] } }

/-- The next step begins (R11, R161, R394, R397, R436). `mode` is that of the step that ends. -/
def nextStep (s : State) (mode : JobMode) : State :=
  let s := if secureDue s then beginSecuring s s else s
  let old := replayed s
  let s := beginCopies (endReplay s s.job.step)
  let s := if s.mode = .serve ∧ mode ≠ .serve then firstSeqs s else s
  let s := beginStep s (s.job.step + 1)
  let s := modNet s fun x => { x with admitClosed := false, admits := (if old then x.admits else []) ++ x.admitsLater, admitsLater := [] }
  settle (startFetches s (if s.mode = mode then s.job.step + 1 else s.job.step))

/-- The commits of the boundary in the order of R29. -/
def commits (s : State) : State :=
  let train := s.mode == .train
  let s := applyDecisions (releaseStretch s)
  let s := boundaryTxns (replayWrites s) 0
  let s := if train then flip s else s
  let s := commitKv (boundaryTxns s 2)
  boundaryTxns (boundaryTxns s 4) 5

/-- The commits of the boundary, then the next step, unless the job has ended with them. -/
def commitBoundary (s : State) : State :=
  let t := commits s
  if executing t then nextStep t s.mode else t

/-! ### How the boundary goes on -/

/-- Regions that the context saves of the streams name, in their sections (R286, R317). -/
def savedRegions (s : State) : List (Nat × Nat × Nat) :=
  allCores.flatMap fun l => ((streamOps s l).filter fun w => opcodeOf w == some .ctxsave).flatMap fun w =>
    inSection (opImm w 15 0) <| (List.range 8).flatMap fun k =>
      match operand s l (opArg w k) false with
      | .ok (some d) => descRegions d
      | _ => []

/-- Entries that wait for room have securing forced at this boundary (R435): it begins while the boundary is held, with the context
that the boundary's commits give, and the commits follow when the entries are written (log 134: DESIGN CHOICE). -/
def secureHeld (s : State) : State :=
  let c := commits s
  let x := savedRegions c
  modRec (beginSecuring s c) fun r => { r with
    early := some s.job.step
    securing := r.securing.map fun y => { y with regions := y.regions ++ x } }

/-- The boundary taken as far as its pauses and the log let it (R28, R29, R31, R435). -/
def advanceBoundary (s : State) : State :=
  let s := if s.job.stage = 1 ∧ !boundaryHeld s then closeStep s else s
  if s.job.stage = 2 ∧ !boundaryHeld s then
    let s := logDecisions s
    if logWritten s then commitBoundary s
    else if !s.recov.waiting.isEmpty && s.recov.securing.isNone then secureHeld s
    else s
  else s

/-- STEP_BOUNDARY (R28 to R31): the boundary of the running step, when its conditions hold. `plan` names the tokens that the
serving schedule appends in the next step (log 36: DESIGN CHOICE). -/
def execStepBoundary (plan : List (Nat × Nat)) (s : State) : Host.Outcome State Fault Refusal :=
  if !executing s || s.job.stage != 0 || !workDone s then .next s
  else if !shardsReady s then .next (fetchHold s)
  else .next (advanceBoundary (openBoundary s plan))

/-- LOG_ENTRY_ACK (R435): the buddy acknowledges the oldest input-log entry that waits for it, and a boundary that waits for the
log goes on. -/
def execLogEntryAck (s : State) : Host.Outcome State Fault Refusal :=
  .next (advanceBoundary (modRec s fun r => { r with log := ackFirst r.log }))

/-- SECURE_CAPTURE_DONE (R437 to R439, R561): the capture ends. Alone, the module commits the generation, and a boundary that
waits for room in the log goes on (R435). `e` is the time at which Batten foresees the end of the stream. -/
def execSecureCaptureDone (e : Option Nat) (s : State) : Host.Outcome State Fault Refusal :=
  match s.recov.securing with
  | none => .next s
  | some x => if x.captured || saveWaits s then .next s else .next (advanceBoundary (endCapture s x e))

/-- SECURE_COMMIT (R435, R438): the buddy acknowledges the whole image, and a boundary that waits for room in the log goes on. -/
def execSecureCommit (s : State) : Host.Outcome State Fault Refusal :=
  match s.recov.securing with
  | none => .next s
  | some x => if x.captured then .next (advanceBoundary (commitSecuring s x)) else .next s

end Sys2Proof.Machine
end

