-- ==== Sys2Proof/Machine/Recovery.lean ====
section
/-!
DEFINITION. Rollback and recovery: the choice of the target (R441, R442, R446, R447, R450), the control messages (R443,
R448, R452), spares (R444), and what a buddy holds and gives back (R439, R443). Control messages and buddy-stream messages
are taken from the messages that the port has received whole (log 41: DESIGN CHOICE).
-/
namespace Sys2Proof.Machine

/-! ### Sending control messages (R452) -/

/-- The first recovery control message of an operation, and the state without it. -/
def takeRec (s : State) (op : Nat) : Option (RecMsg × State) :=
  (takeMessage s fun m => m.kind == 6 && byteAt m.bytes 0 == op).map fun x => (parseRec x.1.bytes, x.2)

/-- Whether the module runs recovery (R441). -/
def inCharge (s : State) : Bool := coordOf s == ownRank s && s.dev != .faulted

/-- A rank that is lost and has no spare in its place yet. -/
def rankGone (s : State) (r : Nat) : Bool :=
  s.recov.lost.contains r && !s.recov.joins.any fun j => j.rank == r && j.done

/-- The offsets that a message of the coordinator goes to directly: those of R383, and the children of a relay that is
lost. -/
def downOffsets (s : State) : List Nat :=
  let n := reg s Obj.jobModules
  let relays := ((List.range 128).map fun d => 256 * (d + 1)).filter fun o => decide (o < n)
  let orphans := (relays.filter fun o => rankGone s ((ownRank s + o) % n)).flatMap fun o =>
    (List.range 255).map fun d => o + d + 1
  ((List.range 255).map (· + 1) ++ relays ++ orphans).filter fun o => decide (o < n)

/-- A downward message to every rank that is not lost, the module's own included (R443, R452). -/
def sendDown (s : State) (m : RecMsg) : State :=
  let n := reg s Obj.jobModules
  let dests := ((downOffsets s).map fun o => (ownRank s + o) % n).filter fun r => !rankGone s r
  recTo (dests.foldl (fun t r => recTo t r m) s) (ownRank s) m

/-- A relay forwards a downward message to the offsets after its own (R383, R452). -/
def forwardDown (s : State) (m : RecMsg) : State :=
  let n := reg s Obj.jobModules
  let o := offsetOf s (ownRank s)
  if o < 256 ∨ o % 256 ≠ 0 then s
  else
    let dests := ((List.range 255).map fun d => o + d + 1).filter fun x => decide (x < n)
    dests.foldl (fun t x => recTo t ((coordOf s + x) % n) m) s

/-- An upward message counted by the coordinator: how many ranks have sent it for the step, and the first code that is not 0
(R452). -/
def gather (s : State) (m : RecMsg) : State × Nat × Nat :=
  let old := (s.recov.ups.find? fun u => u.op == m.op && u.step == m.step).getD
    { op := m.op, step := m.step, count := 0, code := 0, rank := m.rank }
  let new := { old with count := old.count + m.count, code := if old.code = 0 then m.code else old.code }
  let rest := s.recov.ups.filter fun u => !(u.op == m.op && u.step == m.step)
  (modRec s fun r => { r with ups := new :: rest }, new.count, new.code)

/-- The job halts: HALT to every module (R448). -/
def haltAll (s : State) (code : Nat) : State :=
  sendDown s { op := 7, fault := code, rank := ownRank s, epoch := reg s Obj.jobEpoch, time := ptpNow s }

/-! ### The coordinator's choices (R442, R444, R447, R450) -/

/-- The newest generation that every rank not lost has reported and that is not ruled out (R442); alone, the module's local
image (R561). -/
def proposeTarget (s : State) : Option Nat :=
  if oneModule s then (if s.recov.localWhole then some (reg s Obj.localImageStep) else none)
  else
    let gens := sortBy (fun a b => decide (b ≤ a)) (s.recov.securedBy.map Prod.snd).eraseDups
    gens.find? fun g => !s.recov.ruledOut.contains g && reportedByAll s g

/-- A lost rank whose buddy is lost too: the target cannot be restored (R447). -/
def pairLost (s : State) : Bool :=
  s.recov.lost.any fun r => match s.recov.buddies[r]? with
    | some b => s.recov.lost.contains b
    | none => false

/-- The entries of SPARE_LIST that name a spare, in order. -/
def listedSpares (s : State) : List Nat := (List.range 16).filter fun i => reg s (Obj.spareList + i) != 0

/-- The spare proposed for each lost rank: the listed ones in order (R444, R450). -/
def proposeSpares (s : State) : List (Nat × Nat) :=
  (sortBy (fun a b => decide (a ≤ b)) s.recov.lost).zip (listedSpares s)

/-- The report of a recovery pause (R560). -/
def recoveryReport (s : State) : List Byte :=
  let lost := sortBy (fun a b => decide (a ≤ b)) s.recov.lost
  leBytes 8 ((proposeTarget s).getD (2 ^ 64 - 1)) ++ leBytes 2 s.recov.faults.length ++ leBytes 2 lost.length ++ leBytes 4 0
    ++ s.recov.faults.flatMap (padTo 32)
    ++ lost.flatMap fun r => leBytes 2 r ++ leBytes 6 0
        ++ ((((proposeSpares s).find? fun x => x.1 == r).map fun x => ((regBytes s (Obj.spareList + x.2)).drop 16).take 8).getD (leBytes 8 0))

/-- The code of the fault that recovery answers. -/
def causeCode (s : State) : Nat := (s.recov.faults.getLast?.map fun b => byteAt b 0x18).getD 0

/-- The spare asked next for a rank: the one that a decision names, then the listed ones that were not asked yet (R444). -/
def nextSpare (s : State) (rank : Nat) (tried : List Nat) : Option Nat :=
  ((s.recov.spares.filter fun x => x.1 == rank).map Prod.snd ++ listedSpares s).find? fun i =>
    !tried.contains i && !s.recov.joins.any fun j => j.spare == i && j.rank != rank

/-- A spare asked to take a rank (R444); with none left the job halts (log 67: DEDUCED). -/
def askSpare (s : State) (rank : Nat) (tried : List Nat) : State :=
  match nextSpare s rank tried with
  | none => haltAll s (causeCode s)
  | some i =>
    let j : Join := { rank := rank, spare := i, since := s.clk }
    let s := modRec s fun r => { r with joins := (r.joins.filter fun x => x.rank != rank) ++ [j] }
    send s (.join (regBytes s (Obj.spareList + i)) rank ((s.recov.epoch + 1) % 2 ^ 16) s.mode.code)

/-- The next lost rank without a spare is given one; one rank after another (R443 step 2). -/
def nextJoin (s : State) : State :=
  if s.recov.joins.any fun j => !j.done then s
  else match (sortBy (fun a b => decide (a ≤ b)) s.recov.lost).find? (rankGone s) with
    | some r => askSpare s r []
    | none => s

/-- Step 1 of R443 with a target: ROLLBACK goes out, and the first lost rank is given a spare. -/
def startRollback (s : State) (g : Nat) (spares : List (Nat × Nat)) : State :=
  let e := (reg s Obj.jobEpoch + 1) % 2 ^ 16
  let s := modRec s fun r => { r with target := some g, ups := [], joins := [], epoch := e, spares := spares }
  nextJoin (sendDown s { op := 1, rank := ownRank s, step := g, epoch := e, time := ptpNow s })

/-- Recovery with the hardware's proposals (R442, R447). -/
def startRecovery (s : State) : State :=
  if pairLost s then haltAll s (causeCode s)
  else match proposeTarget s with
    | some g => startRollback s g []
    | none => haltAll s (causeCode s)

/-- Recovery begins: in host-assisted mode with a pause (R450). -/
def beginRecovery (s : State) : State :=
  if hostMode s 0xA015 then
    let r := beginPause s 0xA015 (recoveryReport s)
    if r.2 then r.1 else startRecovery s
  else startRecovery s

/-- The decision of a recovery pause (R450, R477). -/
def applyRecovery (s : State) (b : List Byte) : State :=
  if fieldLE b 0 8 = 2 ^ 64 - 1 then haltAll s (causeCode s)
  else
    let spares := (List.range (fieldLE b 8 2)).filterMap fun i =>
      (spareOf s (fieldLE b (18 + 16 * i) 8)).map fun k => (fieldLE b (10 + 16 * i) 2, k)
    startRollback s (fieldLE b 0 8) spares

/-- Codes after which the reporting module cannot go on, so that a spare takes its rank (R427, log 68: DEDUCED). -/
def takesSpare (code : Nat) : Bool := [0x06, 0x08, 0x0B, 0x0F, 0x13].contains code

/-- What identifies a schedule fault (R446): rank, step, stream index, code and logical core. -/
def schedKey (m : RecMsg) : List Byte :=
  leBytes 2 m.rank ++ (m.entry.drop 8).take 16 ++ [m.entry.getD 0x1A 0#8] ++ (m.entry.drop 0x1C).take 2

/-- A FAULT message taken note of (R442, R446, R450). -/
def noteFault (s : State) (m : RecMsg) : State :=
  modRec s fun r => { r with
    faults := r.faults ++ [m.entry]
    lost := if takesSpare m.fault ∧ !r.lost.contains m.rank then r.lost ++ [m.rank] else r.lost
    ruledOut := if m.fault = 0x12 then (r.target.toList.filter fun g => !r.ruledOut.contains g) ++ r.ruledOut else r.ruledOut
    lastSched := if m.fault = 0x10 then some (schedKey m) else r.lastSched }

/-- FAULT_MESSAGE (R441, R442, R445 to R447, R450): the coordinator receives FAULT of an unmasked fault. A fault that the
recovery under way already answers changes nothing more (log 69: DEDUCED); the standby takes recovery over when the coordinator is
lost. -/
def execFaultMessage (s : State) : Host.Outcome State Fault Refusal :=
  match takeRec s 0 with
  | none => .next s
  | some (m, s) =>
    if !inJob s then .next s
    else
      let recurs := m.fault == 0x10 && s.recov.lastSched == some (schedKey m)
      let known := s.recov.target.isSome
        && (if m.fault = 0x0F then s.recov.lost.contains m.rank else m.epoch != s.recov.epoch)
      let asked := (waitingPauses s).any fun p => p.selector == 0xA015
      let s := noteFault s m
      if inCharge s then
        if m.fault = 0x11 ∨ recurs then .next (haltAll s m.fault)
        else if known || asked then .next s
        else if s.recov.target.isSome then .next (startRecovery s)
        else .next (beginRecovery s)
      else if ownRank s = reg s Obj.standbyRank ∧ takesSpare m.fault ∧ m.rank = reg s Obj.coordRank ∧ s.dev != .faulted then
        .next (beginRecovery (modRec s fun r => { r with root := some (ownRank s) }))
      else .next s

/-- TAKEOVER (R431, R441): the standby runs recovery, and answers the faults it has received. -/
def execTakeover (s : State) : Host.Outcome State Fault Refusal :=
  match takeRec s 9 with
  | none => .next s
  | some (_, s) =>
    if !inJob s ∨ ownRank s ≠ reg s Obj.standbyRank then .next s
    else
      let s := modRec s fun r => { r with root := some (ownRank s) }
      .next (if s.recov.faults.isEmpty then s else startRecovery s)

/-! ### Roll back and restore (R443 steps 1 and 3, R561) -/

/-- Whether the module's own fault log shows the unmasked fault of the step in progress (R455). -/
def ownFaultNow (s : State) : Bool :=
  (List.range 64).any fun i =>
    let b := regBytes s (Obj.faultLog + i)
    byteAt b 0x19 == 1 && byteAt b 0x18 != 0x0F && fieldLE b 8 8 == s.job.step

/-- A restore begins: from the local image when it is whole and of the target, else from the buddy; alone, the job halts
without a whole local image. -/
def beginRestore (s : State) (g : Nat) : State :=
  if s.recov.localWhole ∧ reg s Obj.localImageStep = g then modRec s fun r => { r with restoring := some g }
  else if oneModule s then haltJob s (causeCode s)
  else
    recTo (modRec s fun r => { r with fromBuddy := some g }) (reg s Obj.buddyRank)
      { op := 10, rank := ownRank s, step := g, epoch := reg s Obj.jobEpoch, time := ptpNow s }

/-- The module stops issuing and enters RECOVERING, with the next JOB_EPOCH (R10, R385, R415, R443). -/
def rollBack (s : State) (g : Nat) : State :=
  let last := if s.dev = .recovering then max s.recov.faultStep s.job.step else s.job.step
  let own := ownFaultNow s
  let s := dropMaps (clearWork s)
  let s := modDun s fun d => { d with pauses := d.pauses.filter fun p => !atBoundary p.selector }
  let s := setReg { s with job := { s.job with sums := [], shifts := [], nextShift := 0 } } Obj.shiftTotal 0
  let s := modRec (markReplay s g) fun r => { r with
    replaying := false, replayStep := g + 1, securing := none, early := none, deferTo := none, faultStep := last, rollbackAt := s.clk
    restoring := none, fromBuddy := none, reported := none, ups := r.ups.filter fun u => u.op == 3 && u.step == g }
  let s := modNet (newEpoch s (reg s Obj.jobEpoch + 1)) fun x => { x with fetches := [], fetchDone := false }
  beginRestore (setDev { s with power := { s.power with ownFault := own } } .recovering) g

/-- ROLLBACK (R443 step 1). -/
def execRollback (s : State) : Host.Outcome State Fault Refusal :=
  match takeRec s 1 with
  | none => .next s
  | some (m, s) =>
    if s.dev ≠ .running ∧ s.dev ≠ .recovering then .next s
    else
      let s := modRec s fun r => { r with root := if m.rank = reg s Obj.coordRank then none else some m.rank }
      .next (rollBack (forwardDown s m) m.step)

/-- A generation whose digest holds is restored, and RESTORED is sent (R443). -/
def finishRestore (s : State) (g : Gen) : State :=
  let s := modRec (restoreContent s g.content) fun r => { r with restoring := none, fromBuddy := none }
  sendUp s { op := 3, rank := ownRank s, step := g.step, epoch := reg s Obj.jobEpoch, time := ptpNow s }

/-- A secured image that fails its digest, or that the buddy does not hold (R427 code 0x12). -/
def restoreFault (s : State) : State :=
  reportFault (modRec s fun r => { r with restoring := none, fromBuddy := none }) 0x12 1 0 0 0xFF 0

/-- RESTORE_COMPLETE (R443 step 1): the restore from the local image ends, and DIGEST is checked. -/
def execRestoreComplete (s : State) : Host.Outcome State Fault Refusal :=
  match s.recov.restoring with
  | none => .next s
  | some g =>
    let x := localImage s
    .next (if x.2 && x.1.step == g then finishRestore s x.1 else restoreFault s)

/-- IMAGE_REQ (R443 step 3, R452): the buddy streams the generation and the input log of the rank, or answers with E_RANGE
when it does not hold it. A request that comes back with a code is such an answer. -/
def execImageReq (s : State) : Host.Outcome State Fault Refusal :=
  match takeRec s 10 with
  | none => .next s
  | some (m, s) =>
    if m.code ≠ 0 then .next (if s.recov.fromBuddy = some m.step then restoreFault s else s)
    else match s.recov.held.find? fun g => g.step == m.step && g.rank == m.rank with
      | none => .next (recTo s m.rank { m with code := eRANGE, rank := ownRank s })
      | some g =>
        let log := (s.recov.heldLog.filter fun e => decide (m.step ≤ e.step)).flatMap LogEntry.bytes
        .next (toBuddy (toBuddy s m.rank (2#8 :: log)) m.rank (0#8 :: genImage s g none))

/-- A generation of the rank whose buddy the module is, stored over the older one held (R439). -/
def holdGen (s : State) (g : Gen) : State :=
  let held := g :: ((s.recov.held.filter fun x => x.step != g.step && x.rank == g.rank).take 1)
  let old := ((held.map Gen.step).foldl min g.step)
  let s := modRec s fun r => { r with held := held, heldLog := r.heldLog.filter fun e => decide (old ≤ e.step) }
  reportSecured (setElems s Obj.buddyGenStep ((held.map Gen.step) ++ List.replicate (2 - held.length) 0)) s.recov.localDone

/-- An image that arrives: the module's own generation to restore, or one to hold (R439, R443). An image for holding whose
digest fails is not stored. -/
def takeImage (s : State) (b : List Byte) : State :=
  let x := decodeImage b s.recov.held
  if x.1.rank = ownRank s ∧ s.recov.fromBuddy = some x.1.step then
    if x.2 then finishRestore s x.1 else restoreFault s
  else if x.2 && x.1.rank != ownRank s then holdGen s x.1 else s

/-- BUDDY_STREAM_RX (R435, R439, R443): a buddy-stream message is received: image data, log data of the rank whose buddy the
module is, or the log of the module's own rank that its buddy returns, which a spare takes. -/
def execBuddyStreamRx (s : State) : Host.Outcome State Fault Refusal :=
  match takeMessage s fun m => m.kind == 1 with
  | none => .next s
  | some (m, s) =>
    let b := m.bytes.drop 1
    match byteAt m.bytes 0 with
    | 0 => .next (takeImage s b)
    | 1 => .next (modRec s fun r => { r with heldLog := r.heldLog ++ parseLog b.length b })
    | _ =>
      if s.recov.log.isEmpty then
        let s := modRec s fun r => { r with log := parseLog b.length b }
        .next (countLog (markReplay s (s.recov.fromBuddy.getD 0)))
      else .next s

/-! ### Redraw and spares (R386, R443 step 2, R444) -/

/-- The entries of a redraw committed in one transaction (R385, R386), none where one names an element that RANK_MAP has not (R384);
a new buddy has no generation yet (R438). What Dormer commits so is never refused with E_RANGE or E_TYPE (log 138: DEDUCED). -/
def redrawEntries (s : State) (l : List (Nat × List Byte)) : State :=
  if l.any fun e => decide (65536 ≤ e.1) then s else
  let s := redraw s (l.map fun e => (e.1, keepFields 0x4800 (ofLE (e.2.take 32)))) (reg s Obj.jobEpoch + 1)
  if l.any fun e => e.1 / 2 == reg s Obj.buddyRank then modRec s fun r => { r with streamed := none } else s

/-- REDRAW (R386, R443 steps 2 and 3): committed once the module has restored, with a pause in host-assisted mode. The spare that
has joined as the rank asks that rank's buddy for the generation. -/
def execRedraw (s : State) : Host.Outcome State Fault Refusal :=
  match takeRec s 2 with
  | none => .next s
  | some (m, t) =>
    if s.dev ≠ .recovering then .next t
    else if s.recov.restoring.isSome || s.recov.fromBuddy.isSome then .next s
    else
      let t := forwardDown t m
      if m.rank = ownRank t then .next (beginRestore (modRec t fun r => { r with localWhole := false, replayStep := m.step + 1 }) m.step)
      else
        let l := [(2 * m.rank, m.entries.take 32), (2 * m.rank + 1, (m.entries.drop 32).take 32)]
        if hostMode t 0xA016 then
          let r := beginPause t 0xA016 (redrawReport l)
          .next (if r.2 then r.1 else redrawEntries t l)
        else .next (redrawEntries t l)

/-- The two rank-map entries of a spare: the address and serial of its SPARE_LIST entry on both paths (R384, R444, log 70: DEDUCED). -/
def spareEntries (s : State) (i : Nat) : List Byte :=
  let b := regBytes s (Obj.spareList + i)
  let e := padTo 32 (b.take 24 ++ [1#8])
  e ++ e

/-- The coordinator's side of a join (R444): the spare has committed, and REDRAW goes out. -/
def joined' (s : State) (rank : Nat) : State :=
  match s.recov.joins.find? fun j => j.rank == rank && !j.done with
  | none => s
  | some j =>
    let e := (s.recov.epoch + 1) % 2 ^ 16
    let s := modRec s fun r => { r with
      joins := r.joins.map (fun x => if x.rank = rank then { x with done := true } else x), epoch := e }
    nextJoin (sendDown s { op := 2, rank := rank, step := s.recov.target.getD 0, epoch := e, time := ptpNow s
                           serial := fieldLE (regBytes s (Obj.spareList + j.spare)) 16 4, entries := spareEntries s j.spare })

/-- JOIN_TRANSACTION (R444): at a spare, the join transaction's commit; at the coordinator, its answer. -/
def execJoinTransaction (x : JoinSide) (s : State) : Host.Outcome State Fault Refusal :=
  match x with
  | .spare m => .next (joinCommit m s)
  | .answered rank => .next (if inCharge s then joined' s rank else s)

/-- JOIN_TIMEOUT (R444): the spare asked for a rank has not committed within 5 ms, and the next listed one is tried. -/
def execJoinTimeout (rank : Nat) (s : State) : Host.Outcome State Fault Refusal :=
  match s.recov.joins.find? fun j => j.rank == rank && !j.done with
  | none => .next s
  | some j =>
    .next (if inCharge s && elapsed s j.since 5000000 then askSpare s rank ((listedSpares s).filter fun i => decide (i ≤ j.spare)) else s)

/-! ### Replay and resume (R443 steps 4 and 5, R445, R448) -/

/-- RESTORED (R443 steps 3 and 4): counted by the coordinator, which sends START when every rank has restored; combined by a
relay. -/
def execRestored (s : State) : Host.Outcome State Fault Refusal :=
  match takeRec s 3 with
  | none => .next s
  | some (m, s) =>
    if !inCharge s then .next (if relaySpan s > 1 then sendUp s m else s)
    else if s.recov.target ≠ some m.step then .next s
    else
      let (s, n, _) := gather s m
      if n < reg s Obj.jobModules then .next s
      else .next (sendDown s { op := 4, rank := ownRank s, step := m.step + 1, t0 := ptpNow s + reg s Obj.startMargin
                               epoch := s.recov.epoch, time := ptpNow s })

/-- START (R415, R443 step 4): JOB_S0 and JOB_T0 are set and the replay begins. -/
def execStart (s : State) : Host.Outcome State Fault Refusal :=
  match takeRec s 4 with
  | none => .next s
  | some (m, t) =>
    if s.dev ≠ .recovering then .next t
    else if s.recov.restoring.isSome || s.recov.fromBuddy.isSome then .next s
    else
      let t := setReg (setReg (forwardDown t m) Obj.jobS0 m.step) Obj.jobT0 m.t0
      let t := modRec t fun r => { r with replaying := true, replayStep := m.step }
      let run := ((liveSeqs t).filter fun x => x.2.walking).map Prod.fst
      let t := beginStep { t with kv := { t.kv with ran := run, sampled := [] } } m.step
      .next (startFetches (modNet t fun x => { x with admitClosed := false }) m.step)

/-- REPLAY_RESULT (R443 step 5, R445): counted by the coordinator, which sends RESUME when every result is OK and halts the job
at a mismatch; combined by a relay. -/
def execReplayResult (s : State) : Host.Outcome State Fault Refusal :=
  match takeRec s 5 with
  | none => .next s
  | some (m, s) =>
    if !inCharge s then .next (if relaySpan s > 1 then sendUp s m else s)
    else if s.recov.target.map (· + 1) ≠ some m.step then .next s
    else
      let (s, n, code) := gather s m
      if code ≠ 0 then .next (haltAll s 0x11)
      else if n < reg s Obj.jobModules then .next s
      else .next (sendDown s { op := 6, rank := ownRank s, step := m.step, epoch := s.recov.epoch, time := ptpNow s })

/-- RESUME (R441, R443 step 5): the module returns to RUNNING and records the recovery. -/
def execResume (s : State) : Host.Outcome State Fault Refusal :=
  match takeRec s 6 with
  | none => .next s
  | some (m, s) =>
    if s.dev ≠ .recovering then .next s
    else
      let s := forwardDown s m
      let s := setReg (setReg (bump s Obj.recoveries 1) Obj.lastRecovery ((s.clk - s.recov.rollbackAt) * 5 / 8))
        Obj.stepsLost (s.recov.faultStep + 1 - s.recov.replayStep)
      let s := modRec s fun r => { r with
        replaying := false, root := none, target := none, joins := [], lost := [], faults := [], ruledOut := [], ups := []
        spares := [], faultStep := 0 }
      .next (setDev { s with power := { s.power with ownFault := false } } .running)

/-- HALT (R448). -/
def execHalt (s : State) : Host.Outcome State Fault Refusal :=
  match takeRec s 7 with
  | none => .next s
  | some (m, s) => .next (if s.dev = .running ∨ s.dev = .recovering then haltJob (forwardDown s m) m.fault else s)

/-- SECURED (R439, R442, R452): the coordinator and the standby keep the report; a relay combines it. A combined message
covers the relay's group. -/
def execSecured (s : State) : Host.Outcome State Fault Refusal :=
  match takeRec s 8 with
  | none => .next s
  | some (m, s) =>
    let keeps := ownRank s == coordOf s || ownRank s == reg s Obj.standbyRank || ownRank s == reg s Obj.coordRank
    let n := max 1 (reg s Obj.jobModules)
    let ranks := if m.count ≤ 1 then [m.rank]
      else ((List.range 256).filter fun d => decide (offsetOf s m.rank + d < n)).map fun d => (m.rank + d) % n
    let s := if keeps then
        modRec s fun r => { r with securedBy := (ranks.map fun k => (k, m.step)).foldl (fun l x => if l.contains x then l else x :: l) r.securedBy }
      else s
    .next (if !keeps && relaySpan s > 1 then sendUp s m else s)

end Sys2Proof.Machine
end

