-- ==== Sys2Proof/Machine/Ras.lean ====
section
/-!
DEFINITION. Scrubbing (R339 to R341), channel retirement (R346 to R351), die-to-die links (R24 to R26, R430), and the
management complex's watchdog (R431).
-/
namespace Sys2Proof.Machine

/-- Module memory's condition changed. -/
def modRas (s : State) (f : RasState → RasState) : State := { s with ras := f s.ras }

/-! ### Retirements (R341, R346 to R351) -/

/-- Granules of one channel (R329). -/
abbrev channelGranules : Nat := 2 ^ 25

/-- Retirements made, being copied and decided. -/
def retiredCount (s : State) : Nat := (retirements s).length + s.ras.copying.length + s.ras.retireNext.length

/-- Whether the reserve carries one retirement more (R346, R351). -/
def reserveHas (s : State) : Bool := decide (retiredCount s < (reg s Obj.retireReserve + 1) / 2)

/-- A channel to be retired at the next step boundary by copy; refused when the reserve cannot carry it (R341, R351). -/
def decideRetire (s : State) (c : Nat) : State :=
  if !reserveHas s || chanState s c == 2 || s.ras.copying.contains c || s.ras.retireNext.contains c then s
  else modRas s fun r => { r with retireNext := r.retireNext ++ [c] }

/-- A channel kept in service until the end of its next pass (R341): the end of this pass and of the next are to come. -/
def keepChannel (s : State) (c : Nat) : State := modRas s fun r => { r with kept := c :: c :: r.kept }

/-- Corrected codewords of the running pass of a channel. -/
def passCorrected (s : State) (c : Nat) : Nat := ((s.ras.passCe.find? fun x => x.1 == c).map Prod.snd).getD 0

/-- The report of a scrubbing pause (R560). -/
def scrubReport (s : State) (c : Nat) : List Byte :=
  leBytes 1 c ++ leBytes 1 0 ++ leBytes 2 (reg s (Obj.memChanState + c)) ++ leBytes 4 0 ++ leBytes 8 (passCorrected s c)

/-- R341 for a channel: beyond CE_RETIRE_LIMIT it is retired, or a pause asks. -/
def checkLimit (s : State) (c : Nat) : State :=
  let asked := (waitingPauses s).any fun p => p.selector == 0xA019 && byteAt p.report 0 == c
  if passCorrected s c ≤ reg s Obj.ceRetireLimit ∨ chanState s c = 2 ∨ s.ras.kept.contains c ∨ asked then s
  else if hostMode s 0xA019 then
    let r := beginPause s 0xA019 (scrubReport s c)
    if r.2 then r.1 else decideRetire s c
  else decideRetire s c

/-- A channel becomes RETIRED with the next reserve part (R348), entered in the memory error log with outcome 7. -/
def retireChannel (s : State) (c : Nat) : State :=
  let n := (retirements s).length
  let s := needStore (setReg s (Obj.memChanState + c) (2 ^ 15 + n % 8 * 2 ^ 11))
  let s := modRas s fun r => { r with
    copying := r.copying.filter (· != c), retireNext := r.retireNext.filter (· != c), failing := r.failing.filter (· != c)
    kept := r.kept.filter (· != c) }
  memLog s 0 (c, 0) 7 0xFF 0xFF 0x0300

/-! ### Scrubbing (R339 to R341) -/

/-- The channel's next granule to scrub. -/
def scrubPos (s : State) (c : Nat) : Nat := s.ras.scrubAt.getD c 0

/-- Stored errors of the granule's codewords that decode as corrected are written back, unless the write-back is dropped
(R339). -/
def writeBack (s : State) (g : Nat) (errs : List SymErr) : State :=
  let fixable := fun (k : Nat) => match rsDecode (erasures s (homeAt s g).1) (received s g k errs) with
    | .corrected _ => true
    | _ => false
  modRas s fun r => { r with bad := r.bad.filter fun x => !(decide (x.1 / 256 * 256 = g) && fixable (x.1 % 256 / 64)) }

/-- One granule scrubbed (R339, R340, R344): the copies of a primary are both read and compared, unless a write came
between. -/
def scrubGranule (s : State) (g : Nat) (errs mErrs : List SymErr) (wrote : Bool) : State :=
  let r := readCopy s g errs 0x0100
  let t := if wrote then r.1 else writeBack r.1 g errs
  if !isMirrored s g || wrote || s.ras.suspect.contains g then t
  else
    match r.2, readCopy t (mirrorOf (groupFull s g) g) mErrs 0x0100 with
    | some d, (u, some e) => if d = e then u else diverge u g 0x0100
    | none, (u, some e) => repairPrimary u g e 0x0100
    | _, (u, none) => u

/-- SCRUB_READ (R336, R337, R339 to R341): the scrubber of a channel reads the four codewords of its next granule; `errs`
and `mErrs` are symbol errors on the way, and `wrote` says that a write to the granule was accepted meanwhile (log 71: DESIGN CHOICE). -/
def execScrubRead (c : Fin 128) (errs mErrs : List SymErr) (wrote : Bool) (s : State) : Host.Outcome State Fault Refusal :=
  let i := scrubPos s c.val
  if s.dev = .off ∨ s.dev = .asleep ∨ chanState s c.val = 2 ∨ i ≥ channelGranules then .next s
  else
    let s := scrubGranule s (granuleOf s c.val i) errs mErrs wrote
    let s := modRas s fun r => { r with scrubAt := r.scrubAt.set c.val (i + 1) }
    .next (checkLimit s c.val)

/-- SCRUB_PASS_END (R336, R339, R341): a channel's pass has read its last granule. -/
def execScrubPassEnd (c : Fin 128) (s : State) : Host.Outcome State Fault Refusal :=
  if scrubPos s c.val < channelGranules then .next s
  else
    let s := bump (checkLimit s c.val) (Obj.scrubPasses + c.val) 1
    .next (modRas s fun r => { r with
      scrubAt := r.scrubAt.set c.val 0, passCe := r.passCe.filter fun x => x.1 != c.val
      dqHits := r.dqHits.filter fun x => x.1 != c.val, kept := r.kept.erase c.val })

/-! ### Hard retirement (R347 to R351) -/

/-- Whether a granule belongs to a mirrored pair. -/
def inPair (s : State) (g : Nat) : Bool := isMirrored s g || isMirrored s (mirrorOf (groupFull s g) g)

/-- The other copy of a mirrored pair's granule. -/
def partnerOf (s : State) (g : Nat) : Nat := mirrorOf (groupFull s g) g

/-- The granules that a hard retirement of a channel loses (R349): those homed on it, without unused granules of the reserve and
without mirrored pairs whose other copy survives; of a pair whose other copy still waited for its rebuild, both copies. -/
def lostWith (s : State) (c : Nat) : List Nat :=
  let here := ((List.range channelGranules).map (granuleOf s c)).filter fun g => !inReserve (reg s Obj.retireReserve) g
  let pairs := here.filter fun g => inPair s g && awaitsRebuild s (partnerOf s g)
  (here.filter fun g => !inPair s g) ++ pairs ++ (pairs.map (partnerOf s)).filter fun g => !pairs.contains g

/-- Whether a granule lies in a window that the image maps. -/
def inJobWindow (s : State) (g : Nat) : Bool := s.job.windows.any fun w => overlaps g 256 w.1 w.2

/-- CHANNEL_FAILED (R347, R349, R351, R427 code 0x0C): a channel is declared failed, by loss of PHY lock (`phy`) or by what
its reads showed, and is retired at once. -/
def execChannelFailed (c : Fin 128) (phy : Bool) (s : State) : Host.Outcome State Fault Refusal :=
  if !(phy || s.ras.failing.contains c.val) || chanState s c.val == 2 || s.dev == .off then .next s
  else if (retirements s).length ≥ (reg s Obj.retireReserve + 1) / 2 then
    let s := modRas s fun r => { r with failing := r.failing.filter (· != c.val) }
    .next (setDev (reportFault s 0x0C 1 0 0 (c.val / 32) c.val) .faulted)
  else
    let gone := lostWith s c.val
    let unmasked := gone.any (inJobWindow s)
    let s := retireChannel s c.val
    let s := modRas s fun r => { r with
      lost := gone ++ r.lost.filter fun g => !gone.contains g
      bad := r.bad.filter fun x => !gone.contains (x.1 / 256 * 256), rebuilding := c.val :: r.rebuilding }
    let s := setReg s Obj.memLost s.ras.lost.length
    .next (reportFault s 0x0C (if unmasked then 1 else 0) 0 0 (c.val / 32) c.val)

/-- RETIRE_COPY_DONE (R350): the copier has moved a retiring channel, and the retirement is complete. -/
def execRetireCopyDone (c : Fin 128) (s : State) : Host.Outcome State Fault Refusal :=
  .next (if s.ras.copying.contains c.val then retireChannel s c.val else s)

/-- REBUILD_COMPLETE (R349): the mirrored granules of a failed channel stand in their new homes. -/
def execRebuildComplete (c : Fin 128) (s : State) : Host.Outcome State Fault Refusal :=
  .next (modRas s fun r => { r with rebuilding := r.rebuilding.filter (· != c.val) })

/-! ### Die-to-die links (R24 to R26, R430) -/

/-- The compute die of a link (R24). -/
def linkDie (k : Fin 8) : Nat := k.val % 4

/-- Whether a compute die reaches the hub die (R430): over its own hub link, or through a neighbour over the ring link between
them and the neighbour's hub link. -/
def hubRoute (lost : List Nat) (d : Nat) : Bool :=
  let up := fun k => !lost.contains k
  up (4 + d) || (up d && up (4 + (d + 1) % 4)) || (up ((d + 3) % 4) && up (4 + (d + 3) % 4))

/-- A link lost (R430, R427 code 0x0B): traffic goes another way, or the module goes FAULTED when a compute die has no route
to the hub die. -/
def loseLink (s : State) (k : Fin 8) : State :=
  if s.ras.linksLost.contains k.val then s
  else
    let s := modRas s fun r => { r with linksLost := k.val :: r.linksLost }
    if (List.range 4).all (hubRoute s.ras.linksLost) then reportFault s 0x0B 0 0 0 (linkDie k) k.val
    else setDev (reportFault s 0x0B 1 0 0 (linkDie k) k.val) .faulted

/-- FLIT_RX (R26): a flit arrives over a link; one that fails its CRC is replayed and counted. -/
def execFlitRx (k : Fin 8) (crcOk : Bool) (s : State) : Host.Outcome State Fault Refusal :=
  if crcOk || s.dev == .off then .next s
  else
    let s := modRas s fun r => { r with linkReplays := r.linkReplays.set k.val (r.linkReplays.getD k.val 0 + 1) }
    .next (reportFault s 0x0A 0 0 0 (linkDie k) k.val)

/-- D2D_LANE_FAIL (R26): a lane is replaced by one of the link's two spares; with none left the link is lost. -/
def execD2dLaneFail (k : Fin 8) (s : State) : Host.Outcome State Fault Refusal :=
  if s.dev = .off then .next s
  else if s.ras.linkLanes.getD k.val 0 ≥ 2 then .next (loseLink s k)
  else
    let s := modRas s fun r => { r with linkLanes := r.linkLanes.set k.val (r.linkLanes.getD k.val 0 + 1) }
    .next (reportFault s 0x0A 0 0 0 (linkDie k) k.val)

/-- D2D_LINK_LOSS (R430). -/
def execD2dLinkLoss (k : Fin 8) (s : State) : Host.Outcome State Fault Refusal :=
  .next (if s.dev = .off then s else loseLink s k)

/-! ### The management complex (R431) -/

/-- A coordinating module hands recovery to the standby at once (R431, R441). -/
def handOver (s : State) : State :=
  let b := reg s Obj.standbyRank
  if !inJob s || !inCharge s || ownRank s != reg s Obj.coordRank || b == ownRank s then s
  else recTo (modRec s fun r => { r with root := some b }) b
    { op := 9, rank := ownRank s, epoch := reg s Obj.jobEpoch, time := ptpNow s }

/-- MGMT_WDT_EXPIRY (R314, R431): a control core misses its watchdog, and the complex restarts; `late` says that its signal
registers in the same clock. -/
def execMgmtWdtExpiry (late : Bool) (s : State) : Host.Outcome State Fault Refusal :=
  if !s.power.dormer then .next s
  else if late then .next (lateAccept s 7)
  else
    let s := endSessions (handOver s)
    let s := modPower (bump s Obj.mgmtRestarts 1) fun p => { p with dormer := false, restarting := true }
    .next (reportFault s 0x0E 0 0 0 4 0)

/-- DORMER_RESTART_DONE (R431): Dunrel service resumes. -/
def execDormerRestartDone (s : State) : Host.Outcome State Fault Refusal :=
  .next (if s.power.restarting then modPower s fun p => { p with dormer := true, restarting := false } else s)

end Sys2Proof.Machine
end

