-- ==== Sys2Proof/Machine/Power.lean ====
section
/-!
DEFINITION. Power, clocks and pins as commands (R505 to R522), state transitions (R508), the retained store's writes (R499),
firmware programming, checks and anti-rollback (R532, R537), telemetry and the thermal response (R517 to R521).
-/
namespace Sys2Proof.Machine

/-- Whether the module is powered up and past the boot ROM. -/
def powered (s : State) : Bool := s.dev != .off

/-! ### Starts, stops and resets (R509, R512, R514) -/

/-- COLD_START (R509, R522): PWR_EN is registered asserted. The module starts when the input is in range and no shutdown
holds; `x` is what its tests and training find. -/
def execColdStart (x : StartRun) (s : State) : Host.Outcome State Fault Refusal :=
  if s.power.pwrEn then .next s
  else
    let s := modPower s fun p => { p with pwrEn := true }
    if powered s || s.power.start.isSome || !s.power.inputOk || s.power.awaitInput || s.power.locked then .next s
    else .next (beginStart s .cold x)

/-- STOP (R499, R514): PWR_EN is registered deasserted: the store is written, and the rails go off. -/
def execStop (s : State) : Host.Outcome State Fault Refusal :=
  let s := modPower s fun p => { p with pwrEn := false, locked := false, awaitInput := false, alertHeld := false }
  if powered s then .next (modPower (powerOff (endStore (beginStore (endStore s)))) fun p => { p with cause := 0 })
  else if s.power.start.isSome then .next (modPower (powerOff s) fun p => { p with cause := 0 })
  else .next s

/-- RST_N_ASSERT (R512): RST_N is registered low; a warm reset begins in every state except OFF and waits for the
release. -/
def execRstNAssert (s : State) : Host.Outcome State Fault Refusal :=
  let s := modPower s fun p => { p with rstLow := true }
  .next (if powered s then beginStart s (.warm 1) {} else s)

/-- RST_N_RELEASE (R509, R512): RST_N is registered high, and a start that waits for it goes on. -/
def execRstNRelease (x : StartRun) (s : State) : Host.Outcome State Fault Refusal :=
  let s := modPower s fun p => { p with rstLow := false }
  .next (match s.power.start with
    | some k => beginStart s k x
    | none => s)

/-- INPUT_IN_RANGE (R522): the input has been in range for 100 ms; with PWR_EN asserted a cold start begins. -/
def execInputInRange (x : StartRun) (s : State) : Host.Outcome State Fault Refusal :=
  let s := modPower s fun p => { p with inputOk := true, awaitInput := false }
  .next (if s.power.pwrEn && !s.power.locked && !powered s && s.power.start.isNone then beginStart s .cold x else s)

/-- REFERENCE_PRESENT (R506, R509): both references are present, and a start that waits for them goes on. -/
def execReferencePresent (x : StartRun) (s : State) : Host.Outcome State Fault Refusal :=
  let s := modPower s fun p => { p with refs := 3 }
  .next (match s.power.start with
    | some k => beginStart s k x
    | none => if powered s && reg s Obj.linkState == 0 then setReg s Obj.linkState 1 else s)

/-! ### State transitions (R508) -/

/-- What ASLEEP loses (R507): Thatch, local SRAM and every loaded image. -/
def sleepLoss (s : State) : State :=
  let s := { s with mem := s.mem.filter (fun c => decide (c.1 < memEnd)), job := {}, num := {}, kv := {} }
  let s := allCores.foldl (fun t l => modCore t l fun _ => {}) s
  setReg (setReg s Obj.imageState 0) Obj.imageLoadedHash 0

/-- STATE_TRANSITION_DONE (R507, R508, R511): the transition requested completes. `bad` are the channels that still fail
after retraining when the module leaves ASLEEP. A module that went FAULTED meanwhile stays so (log 74: DEDUCED). -/
def execStateTransitionDone (bad : List (Fin 128)) (s : State) : Host.Outcome State Fault Refusal :=
  match s.power.trans with
  | none => .next s
  | some d =>
    let wakes := s.dev == .asleep
    let s := modPower s fun p => { p with trans := none }
    match d with
    | .asleep => .next (if s.dev = .ready then setDev (sleepLoss s) .asleep else s)
    | .ready =>
      if !wakes && s.dev != .maint then .next s
      else
      let s := if wakes && !bad.isEmpty then bad.foldl (fun t c => retireAtStart t c.val) (needStore s) else s
      if wakes && dieLost s then .next (setDev (reportFault s 0x0C 1 0 0 0xFF 0) .faulted) else .next (setDev s .ready)
    | _ => .next (if s.dev = .ready then setDev s .maint else s)

/-! ### The retained store (R499) -/

/-- STORE_WRITE (R499): a store write that has begun is read back and complete, or one that is due is made. -/
def execStoreWrite (s : State) : Host.Outcome State Fault Refusal :=
  if !powered s then .next s
  else if s.power.writing.isSome then .next (endStore s)
  else .next (if s.recov.storeDue then endStore (beginStore s) else s)

/-- STORE_WRITE_TIMER (R499): 60 s after the last store write began, the next begins. -/
def execStoreWriteTimer (s : State) : Host.Outcome State Fault Refusal :=
  .next (if powered s && s.power.writing.isNone && elapsed s s.power.storeAt 60000000000 then beginStore s else s)

/-! ### Firmware (R527, R532, R537) -/

/-- The inactive bank. -/
def inactiveBank (s : State) : Nat := 1 - reg s Obj.fwActive % 2

/-- A bank replaced. -/
def putBank (s : State) (b : Nat) (x : Bank) : State :=
  modPower s fun p => { p with banks := if b = 0 then (x, p.banks.2) else (p.banks.1, x) }

/-- FW_PROGRAM_DONE (R537): the oldest committed part stands in the inactive bank. -/
def execFwProgramDone (s : State) : Host.Outcome State Fault Refusal :=
  match s.power.program with
  | [] => .next s
  | (e, b) :: rest =>
    let old := match bankOf' s (inactiveBank s) with | .factory => [] | .staged m => m
    let s := putBank s (inactiveBank s) (.staged (memWrite old (e * 1048576) b))
    .next (modPower s fun p => { p with program := rest })

/-- FW_CHECK_DONE (R527, R537): the check of the inactive bank ends. -/
def execFwCheckDone (s : State) : Host.Outcome State Fault Refusal :=
  if reg s Obj.fwState ≠ 2 then .next s
  else
    let b := inactiveBank s
    .next (if (checkBank s b).2 = 0 then setReg (recordOf s b 2 0) Obj.fwState 3 else setReg (recordOf s b 3 0) Obj.fwState 5)

/-- The security version of the bank that runs. -/
def runningSvn (s : State) : Nat :=
  match bankOf' s (reg s Obj.fwActive % 2) with
  | .factory => factoryField (reg s Obj.fwActive % 2) 0 0
  | .staged m => fieldLE (stagedBytes m 8 4) 0 4

/-- ANTI_ROLLBACK (R532): fuses are blown up to the security version of the bank that runs, once it has reached READY. -/
def execAntiRollback (s : State) : Host.Outcome State Fault Refusal :=
  .next (if s.power.dormer && s.power.reachedReady && decide (securityVersion s < runningSvn s) then
    setReg s Obj.securityVersion (min 64 (runningSvn s)) else s)

/-! ### Telemetry and the thermal response (R517 to R521) -/

/-- A zone's temperature in the last update. -/
def tempOf (s : State) (z : Nat) : W32 := BitVec.ofNat 32 (reg s (Obj.temp + z))

/-- THERMAL_WARN moved by a number of degrees. -/
def warnLevel (s : State) (plus : Int) : W32 := w32Add (BitVec.ofNat 32 (reg s Obj.thermalWarn)) (roundDy ⟨plus, 0⟩)

/-- Whether some zone is at or above a level. -/
def anyZone (s : State) (lvl : W32) : Bool := (List.range 6).any fun z => w32Le lvl (tempOf s z)

/-- Whether every zone is below THERMAL_WARN − 3 °C. -/
def allCool (s : State) : Bool := (List.range 6).all fun z => w32Lt (tempOf s z) (warnLevel s (-3))

/-- The hottest zone. -/
def hottest (s : State) : Nat := (List.range 6).foldl (fun b z => if w32Lt (tempOf s b) (tempOf s z) then z else b) 0

/-- THERMAL raised (R521). -/
def thermalEvent (s : State) (z kind : Nat) (t : W32) : State :=
  raiseEvent s 11 (beBytes 1 z ++ beBytes 1 kind ++ beBytes 2 0 ++ beBytes 4 t.toNat)

/-- The report of a thermal pause (R560). -/
def thermalReport (s : State) : List Byte :=
  ((List.range 6).flatMap fun z => leBytes 4 (reg s (Obj.temp + z))) ++ leBytes 4 (reg s Obj.modulePower)
    ++ leBytes 1 s.power.cap ++ leBytes 3 0

/-- The next value of the activity cap (R519, R520). -/
def nextCap (s : State) : Nat :=
  let c := s.power.cap
  let p := BitVec.ofNat 32 (reg s Obj.modulePower)
  let limit := BitVec.ofNat 32 (reg s Obj.powerLimit)
  let above := w32Lt limit p
  let low := (Dy.mul ⟨100, 0⟩ (w32Val p).dy).lt (Dy.mul ⟨97, 0⟩ (w32Val limit).dy)
  let hot := anyZone s (warnLevel s 0) && (!hostMode s 0xA01B || s.power.hwResponse || anyZone s (warnLevel s 5))
  if above || hot then max 16 (c - 4)
  else match s.power.held with
    | some h => if h < c then max h (c - 4) else if low then min h (c + 4) else c
    | none => if low && allCool s then min 80 (c + 4) else c

/-- The cap moved, with THROTTLE_EVENTS when it falls from 80 (R519). -/
def moveCap (s : State) : State :=
  let n := nextCap s
  modPower (bumpIf s (s.power.cap == 80 && decide (n < 80)) Obj.throttleEvents 1) fun p => { p with cap := n }

/-- A thermal pause begins, or the hardware response applies at once (R476, R520). -/
def thermalPause (s : State) : State :=
  if !hostMode s 0xA01B || (waitingPauses s).any fun p => p.selector == 0xA01B then s
  else
    let r := beginPause s 0xA01B (thermalReport s)
    if r.2 then r.1 else modPower s fun p => { p with hwResponse := true }

/-- What the temperatures of an update lead to (R520, R521): `up` are the zones that crossed THERMAL_WARN upwards. -/
def thermalCross (s : State) (up : List Nat) : State :=
  let s := up.foldl (fun t z => thermalEvent t z 0 (tempOf t z)) s
  let s := if up.isEmpty then s else thermalPause (modPower s fun p => { p with hot := true })
  if s.power.hot && allCool s then
    let z := hottest s
    modPower (thermalEvent s z 1 (tempOf s z)) fun p => { p with hot := false, held := none, hwResponse := false }
  else s

/-- TELEMETRY_UPDATE (R108, R517, R519 to R521): the 1 ms update. `ends` are the ends that cores project when the cap delays
them (R418). -/
def execTelemetryUpdate (x : Telemetry) (ends : List (Core × Nat)) (s : State) : Host.Outcome State Fault Refusal :=
  if !powered s then .next s
  else
    let warn := warnLevel s 0
    let temps := (List.range 6).map fun z => x.temps.getD z (tempOf s z)
    let up := (List.range 6).filter fun z => w32Lt (tempOf s z) warn && w32Le warn (temps.getD z 0#32)
    let s := setReg (setReg (setReg s Obj.inputVoltage x.voltage.toNat) Obj.inputCurrent x.current.toNat) Obj.modulePower x.power.toNat
    let s := setElems (bump s Obj.energy x.joules) Obj.temp (temps.map BitVec.toNat)
    let s := moveCap (thermalCross s up)
    .next (ends.foldl (fun t y => projectEnd t y.1 (some y.2)) s)

/-- The decision of a thermal pause (R520): a cap, or 0 for the hardware response. -/
def applyThermal (s : State) (b : List Byte) : State :=
  if byteAt b 0 = 0 then modPower s fun p => { p with hwResponse := true }
  else modPower s fun p => { p with held := some (byteAt b 0), hwResponse := false }

/-- ALERT_N (R515): some zone at or above THERMAL_WARN, the cap below 80, or a shutdown decision. -/
def alertN (s : State) : Bool :=
  s.power.alertHeld || (powered s && (decide (s.power.cap < 80) || anyZone s (warnLevel s 0)))

/-! ### Faults of power and clocks (R505, R506, R522, R534) -/

/-- A shutdown (R522): the fault is logged and reported, then every rail but VSTBY is off; no store write begins. -/
def shutdown (s : State) (die unit cause : Nat) (locked : Bool) : State :=
  let s := powerOff (reportFault s 0x13 1 0 0 die unit)
  modPower s fun p => { p with cause := cause, alertHeld := true, locked := locked, writing := none }

/-- THERMAL_TRIP (R521, R522): a zone has stayed at or above THERMAL_TRIP for 3 samples. -/
def execThermalTrip (z : Fin 6) (t : W32) (s : State) : Host.Outcome State Fault Refusal :=
  if !powered s || w32Lt t (BitVec.ofNat 32 (reg s Obj.thermalTrip)) then .next s
  else .next (shutdown (thermalEvent s z.val 2 t) (if z.val < 5 then z.val else 0xFF) 0 3 true)

/-- INPUT_VOLTAGE_FAULT (R522): the input is out of range; `vstby` says that VSTBY is lost with it, and the cause. -/
def execInputVoltageFault (vstby : Bool) (s : State) : Host.Outcome State Fault Refusal :=
  let s := modPower s fun p => { p with inputOk := false }
  let s := if powered s then modPower (shutdown s 0xFF 0 4 false) fun p => { p with awaitInput := true }
    else if s.power.start.isSome then modPower (powerOff s) fun p => { p with cause := 4, awaitInput := true, alertHeld := true }
    else s
  .next (if vstby then modPower s fun p => { p with cause := 0 } else s)

/-- INPUT_OVERCURRENT (R522, R541). -/
def execInputOvercurrent (s : State) : Host.Outcome State Fault Refusal :=
  .next (if powered s then shutdown s 0xFF 0 5 true
    else if s.power.start.isSome then modPower (powerOff s) fun p => { p with cause := 5, alertHeld := true, locked := true }
    else s)

/-- RAIL_FAULT (R507, R515, R522): VCOREn, VSRAMn and VDDQ go off, so all memory is lost; the hub rails stay, and the module is
FAULTED. -/
def execRailFault (s : State) : Host.Outcome State Fault Refusal :=
  if !powered s then .next s
  else
    let s := reportFault s 0x13 1 0 0 0xFF 0
    let s := modPower { s with mem := [] } fun p => { p with pwrgd := false, trans := none }
    .next (setDev s .faulted)

/-- REFERENCE_LOSS (R505 to R507): a reference is absent for 10 µs: the 25 MHz one, or the 156.25 MHz one, which takes the port
down. In READY, RUNNING, RECOVERING and MAINT the module goes FAULTED. -/
def execReferenceLoss (fast : Bool) (s : State) : Host.Outcome State Fault Refusal :=
  let s := modPower s fun p => { p with refs := if fast then p.refs % 2 else p.refs / 2 * 2 }
  let acts := s.dev == .ready || s.dev == .running || s.dev == .recovering || s.dev == .maint
  let s := if acts then setDev (modPower (reportFault s 0x13 1 0 0 0xFF 0) fun p => { p with trans := none }) .faulted else s
  .next (if fast && powered s then setReg s Obj.linkState 0 else s)

/-- NOISE_HEALTH_FAIL (R534): the security block supplies no bits until the next start. -/
def execNoiseHealthFail (s : State) : Host.Outcome State Fault Refusal :=
  .next (if powered s then modPower s fun p => { p with noiseBad := true } else s)

end Sys2Proof.Machine
end

