-- ==== Sys2Proof/Machine/Complete.lean ====
section
/-!
DEFINITION. The completion of operations (R198, R242, R269, R295, R296, R304) and the end of pauses: decisions and timeouts
(R476, R477).
-/
namespace Sys2Proof.Machine

/-! ### OPERATION_COMPLETE -/

/-- What the completion of an operation brings with it, by its opcode: the moment records of an optimizer step (R198), the
pipeline and the walk of an attention or sampling operation (R242, R269). -/
def completeOp (s : State) (l : Core) (f : Flight) : State :=
  match opcodeOf f.word with
  | some .optstep => (optMoments s l f.word).foldl momentComplete s
  | some .attn => leavePipe s l f.idx
  | some .sample => leavePipe s l f.idx
  | _ => s

/-- Whether a request or a slot of an operation is outstanding (R304). -/
def hasRequests (c : CoreState) (idx : Nat) : Bool :=
  (c.reqs.any fun r => r.op == idx) || c.slots.any fun x => x.req.op == idx

/-- OPERATION_COMPLETE (R295, R296, R299): the results of an operation are written and acknowledged: it leaves the in-flight
table and sets its tokens, and what its end releases goes on (R472). `l.ending` is the core's projected end after the wait for a slot, a
bank group, an engine or the token (R320). -/
def execOperationComplete (l : Foreseen Core) (idx : Nat) (s : State) : Host.Outcome State Fault Refusal :=
  match (coreOf s l.on).flight.find? fun f => f.idx == idx with
  | none => .next s
  | some f =>
    if !f.done || hasRequests (coreOf s l.on) idx then .next s
    else
      let s := completeOp s l.on f
      let s := modCore s l.on fun c => { c with flight := c.flight.filter fun x => x.idx != idx }
      .next (projectEnd (settle (setTokens s l.on (opSets f.word))) l.on l.ending)

/-! ### The end of a pause (R476, R477) -/

/-- The timeout action of a function (R176, R191, R277, R341, R386, R395, R424, R440, R450, R520). That of a boundary function is
what the boundary does without a decision. -/
def timeoutAction (s : State) (p : Pause) : State :=
  match p.selector with
  | 0xA015 => startRecovery s
  | 0xA016 => redrawEntries s (parseRedraw p.report)
  | 0xA019 => decideRetire s (byteAt p.report 0)
  | 0xA01B => modPower s fun q => { q with hwResponse := true }
  | _ => advanceBoundary s

/-- A pause ends without a decision: STATE becomes 3 and the timeout action applies (R476, R477). -/
def endPause (s : State) (p : Pause) : State := timeoutAction (modPause s p.id fun q => { q with state := .timedOut }) p

/-- A fetch retried on the endpoint that a decision names (R395). -/
def applyFetch (s : State) (e : Nat) : State :=
  (s.net.fetches.filter fun f => !f.done).foldl (fun t f =>
    let t := modFetch (bump t Obj.fetchRetries 1) f.entry fun y => { y with endpoint := e }
    sendFetch t { f with endpoint := e }) s

/-- What an accepted decision does (R477). -/
def applyDecision (s : State) (p : Pause) (b : List Byte) : State :=
  match p.selector with
  | 0xA015 => applyRecovery s b
  | 0xA016 => redrawEntries (logDecision s 0xA016 b) (parseRedraw b)
  | 0xA019 => if byteAt b 0 = 0 then decideRetire s (byteAt p.report 0) else keepChannel s (byteAt p.report 0)
  | 0xA01A => advanceBoundary (applyFetch s (fieldLE b 0 2))
  | 0xA01B => applyThermal s b
  | _ => advanceBoundary s

/-- The pause that DECIDE names by its number. -/
def pauseNamed (s : State) (id : Nat) : Option Pause := s.dunrel.pauses.find? fun p => p.id == id

/-- A whole decision judged (R477): its code and the state. -/
def judge (s : State) (p : Pause) (b : List Byte) : State × Nat :=
  let c := checkDecision s p.selector b
  if c = eOK then
    (applyDecision (modPause s p.id fun q => { q with state := .decided, decision := [(0, b)] }) p b, eOK)
  else (endPause s p, c)

/-- The bytes of a decision that have arrived with a request's segment: the value is whole when its last byte has (R477).
Bytes sent again replace those that came before, as in a WRITE. -/
def decideValue (p : Pause) (m : DReq) : StagedVal :=
  { elem := 0, total := if m.total = 0 then m.offset + m.payload.length else m.total
    segs := putSeg (if m.offset = 0 then [] else p.decision) m.offset m.payload }

/-- DECIDE's answer (R314, R465, R477). -/
def decideReq (m : DReq) (s : State) (x : Session) : State :=
  if x.level < 3 then reply s m eACCESS
  else match pauseNamed s m.element with
    | none => reply s m eSTATE
    | some p =>
      if p.state = .timedOut ∨ (p.state = .waiting ∧ p.deadline < ptpNow s) then reply s m eTIMEOUT
      else if p.state ≠ .waiting ∨ p.selector ≠ m.index then reply s m eSTATE
      else
        let v := decideValue p m
        if v.total > reportMax ∨ m.offset + m.payload.length > v.total then reply (endPause s p) m eTYPE
        else if m.more then reply (modPause s p.id fun q => { q with decision := v.segs }) m eOK
        else if !v.whole then reply (endPause s p) m eTYPE
        else
          let s := if p.deadline = ptpNow s then lateAccept s 2 else s
          let r := judge s p v.bytes
          reply r.1 m r.2

/-- DECIDE (R176, R314, R465, R477). -/
def execDecide (m : DReq) (s : State) : Host.Outcome State Fault Refusal :=
  .next (if m.type = 9 then receive s m (decideReq m) else s)

/-- PAUSE_TIMEOUT (R314, R476, R477): the deadline of a pause has come with no decision registered. -/
def execPauseTimeout (id : Nat) (s : State) : Host.Outcome State Fault Refusal :=
  match pauseNamed s id with
  | none => .next s
  | some p => .next (if p.state = .waiting ∧ p.deadline ≤ ptpNow s then endPause s p else s)

end Sys2Proof.Machine
end

