-- ==== Sys2Proof/Machine/Dispatch.lean ====
section
/-!
DEFINITION. One arm per command of spec/opcode_table.json, each one direct call of its meaning.
-/
namespace Sys2Proof.Machine

def exec (i : Instr) (s : State) : Host.Outcome State Fault Refusal :=
  match i with
  | .dtlsHandshake h => Sys2Proof.Machine.execDtlsHandshake h s
  | .read m => Sys2Proof.Machine.execRead m s
  | .write m => Sys2Proof.Machine.execWrite m s
  | .txnOpen m => Sys2Proof.Machine.execTxnOpen m s
  | .txnCommit m => Sys2Proof.Machine.execTxnCommit m s
  | .txnAbort m => Sys2Proof.Machine.execTxnAbort m s
  | .subscribe m => Sys2Proof.Machine.execSubscribe m s
  | .eventAck m => Sys2Proof.Machine.execEventAck m s
  | .decide m => Sys2Proof.Machine.execDecide m s
  | .attest m => Sys2Proof.Machine.execAttest m s
  | .close m => Sys2Proof.Machine.execClose m s
  | .closeNotify slot => Sys2Proof.Machine.execCloseNotify slot s
  | .sessionIdleExpiry slot => Sys2Proof.Machine.execSessionIdleExpiry slot s
  | .txnIdleExpiry h => Sys2Proof.Machine.execTxnIdleExpiry h s
  | .txnDeferLimitExpiry h late => Sys2Proof.Machine.execTxnDeferLimitExpiry h late s
  | .eventResend slot num => Sys2Proof.Machine.execEventResend slot num s
  | .accessListWrite m => Sys2Proof.Machine.execAccessListWrite m s
  | .jobStart m plan => Sys2Proof.Machine.execJobStart m plan s
  | .jobModeSwitch m => Sys2Proof.Machine.execJobModeSwitch m s
  | .jobEnd m => Sys2Proof.Machine.execJobEnd m s
  | .joinTransaction x => Sys2Proof.Machine.execJoinTransaction x s
  | .joinTimeout rank => Sys2Proof.Machine.execJoinTimeout rank s
  | .rankMapRedraw m => Sys2Proof.Machine.execRankMapRedraw m s
  | .endpointWrite m => Sys2Proof.Machine.execEndpointWrite m s
  | .admitSeq m => Sys2Proof.Machine.execAdmit m s
  | .fork m => Sys2Proof.Machine.execFork m s
  | .evict m => Sys2Proof.Machine.execEvict m s
  | .retire m => Sys2Proof.Machine.execRetire m s
  | .imageLoad m => Sys2Proof.Machine.execImageLoad m s
  | .imageLoadDone img => Sys2Proof.Machine.execImageLoadDone img s
  | .imageSwap m => Sys2Proof.Machine.execImageSwap m s
  | .imageSwapCheckDone img => Sys2Proof.Machine.execImageSwapCheckDone img s
  | .stateReqAsleep m => Sys2Proof.Machine.execStateReqAsleep m s
  | .stateReqReady m => Sys2Proof.Machine.execStateReqReady m s
  | .stateReqMaint m => Sys2Proof.Machine.execStateReqMaint m s
  | .stateTransitionDone bad => Sys2Proof.Machine.execStateTransitionDone bad s
  | .restoreDefaults m => Sys2Proof.Machine.execRestoreDefaults m s
  | .resetReq m y => Sys2Proof.Machine.execResetReq m y s
  | .memAccessWrite m => Sys2Proof.Machine.execMemAccessWrite m s
  | .fwStageWrite m => Sys2Proof.Machine.execFwStageWrite m s
  | .fwProgramDone => Sys2Proof.Machine.execFwProgramDone s
  | .fwCheck m => Sys2Proof.Machine.execFwCheck m s
  | .fwCheckDone => Sys2Proof.Machine.execFwCheckDone s
  | .fwSelect m => Sys2Proof.Machine.execFwSelect m s
  | .nop l idx => Sys2Proof.Machine.execNop l idx s
  | .fwd l idx => Sys2Proof.Machine.execFwd l idx s
  | .bwd l idx => Sys2Proof.Machine.execBwd l idx s
  | .bpair l idx => Sys2Proof.Machine.execBpair l idx s
  | .tiedsum l idx => Sys2Proof.Machine.execTiedsum l idx s
  | .convert l idx => Sys2Proof.Machine.execConvert l idx s
  | .append l idx => Sys2Proof.Machine.execAppend l idx s
  | .attn l idx => Sys2Proof.Machine.execAttn l idx s
  | .sample l idx => Sys2Proof.Machine.execSample l idx s
  | .optstep l idx => Sys2Proof.Machine.execOptstep l idx s
  | .copy l idx => Sys2Proof.Machine.execCopy l idx s
  | .copyRowPublish l idx => Sys2Proof.Machine.execCopyRowPublish l idx s
  | .prefetch l idx => Sys2Proof.Machine.execPrefetch l idx s
  | .prefetchRefetch l idx e => Sys2Proof.Machine.execPrefetchRefetch l idx e s
  | .save l idx => Sys2Proof.Machine.execSave l idx s
  | .load l idx => Sys2Proof.Machine.execLoad l idx s
  | .fillDropout l idx => Sys2Proof.Machine.execFillDropout l idx s
  | .fillInit l idx => Sys2Proof.Machine.execFillInit l idx s
  | .fillNoise l idx => Sys2Proof.Machine.execFillNoise l idx s
  | .sloeEvaluation d lane ok => Sys2Proof.Machine.execSloeEvaluation d lane ok s
  | .coll l idx => Sys2Proof.Machine.execColl l idx s
  | .normSquares l idx => Sys2Proof.Machine.execNormSquares l idx s
  | .normAdd l idx => Sys2Proof.Machine.execNormAdd l idx s
  | .normLayerSums l idx => Sys2Proof.Machine.execNormLayerSums l idx s
  | .wait l idx => Sys2Proof.Machine.execWait l idx s
  | .signal l idx => Sys2Proof.Machine.execSignal l idx s
  | .signalArrival l => Sys2Proof.Machine.execSignalArrival l s
  | .fence l idx => Sys2Proof.Machine.execFence l idx s
  | .phaseOpen l idx => Sys2Proof.Machine.execPhaseOpen l idx s
  | .phaseClose l idx e => Sys2Proof.Machine.execPhaseClose l idx e s
  | .microbatchOpen l idx => Sys2Proof.Machine.execMicrobatchOpen l idx s
  | .microbatchClose l idx => Sys2Proof.Machine.execMicrobatchClose l idx s
  | .stepClose l idx => Sys2Proof.Machine.execStepClose l idx s
  | .ctxsave l idx e => Sys2Proof.Machine.execCtxsave l idx e s
  | .operationComplete l idx => Sys2Proof.Machine.execOperationComplete l idx s
  | .tokenTimeout l late => Sys2Proof.Machine.execTokenTimeout l late s
  | .memRequestTimeout l slot late => Sys2Proof.Machine.execMemRequestTimeout l slot late s
  | .memReadResponse l slot errs mErrs => Sys2Proof.Machine.execMemReadResponse l slot errs mErrs s
  | .memWriteAck l slot => Sys2Proof.Machine.execMemWriteAck l slot s
  | .reedBankSwap l held => Sys2Proof.Machine.execReedBankSwap l held s
  | .skipMiss l e => Sys2Proof.Machine.execSkipMiss l e s
  | .reedVerdict l row ok e => Sys2Proof.Machine.execReedVerdict l row ok e s
  | .coreMoveDone l => Sys2Proof.Machine.execCoreMoveDone l s
  | .slateBankSwap l => Sys2Proof.Machine.execSlateBankSwap l s
  | .slateVerdict l row ok e => Sys2Proof.Machine.execSlateVerdict l row ok e s
  | .slateBorrowIssue l loaded => Sys2Proof.Machine.execSlateBorrowIssue l loaded s
  | .quinceBankSwap q waits => Sys2Proof.Machine.execQuinceBankSwap q waits s
  | .quinceVerdict q ok e => Sys2Proof.Machine.execQuinceVerdict q ok e s
  | .activityWindow u real straw => Sys2Proof.Machine.execActivityWindow u real straw s
  | .arrayRampDown u => Sys2Proof.Machine.execArrayRampDown u s
  | .wakeTimer l => Sys2Proof.Machine.execWakeTimer l s
  | .tsSwitch l => Sys2Proof.Machine.execTsSwitch l s
  | .sparPassTest l idx k e => Sys2Proof.Machine.execSparPassTest l idx k e s
  | .shadowCompare slot => Sys2Proof.Machine.execShadowCompare slot s
  | .engineCheck d k ok => Sys2Proof.Machine.execEngineCheck d k ok s
  | .stepBoundary plan => Sys2Proof.Machine.execStepBoundary plan s
  | .pauseTimeout id => Sys2Proof.Machine.execPauseTimeout id s
  | .secureCaptureDone e => Sys2Proof.Machine.execSecureCaptureDone e s
  | .secureCommit => Sys2Proof.Machine.execSecureCommit s
  | .logEntryAck => Sys2Proof.Machine.execLogEntryAck s
  | .buddyStreamRx => Sys2Proof.Machine.execBuddyStreamRx s
  | .frameRx f => Sys2Proof.Machine.execFrameRx f s
  | .dataRx h e => Sys2Proof.Machine.execDataRx h e s
  | .ackRx h e => Sys2Proof.Machine.execAckRx h e s
  | .nakRx h e => Sys2Proof.Machine.execNakRx h e s
  | .openCtx h e => Sys2Proof.Machine.execOpen h e s
  | .openAck h e => Sys2Proof.Machine.execOpenAck h e s
  | .tbkClose h e => Sys2Proof.Machine.execTbkClose h e s
  | .heartbeat h e => Sys2Proof.Machine.execHeartbeat h e s
  | .stretch h m => Sys2Proof.Machine.execStretch h m s
  | .ackTimer n => Sys2Proof.Machine.execAckTimer n s
  | .tbkRtoExpiry n late => Sys2Proof.Machine.execTbkRtoExpiry n late s
  | .heartbeatTimer => Sys2Proof.Machine.execHeartbeatTimer s
  | .heartbeatLoss rank late => Sys2Proof.Machine.execHeartbeatLoss rank late s
  | .heldBoundaryStretch => Sys2Proof.Machine.execHeldBoundaryStretch s
  | .linkLoss => Sys2Proof.Machine.execLinkLoss s
  | .linkUp => Sys2Proof.Machine.execLinkUp s
  | .gatewayResolve failed => Sys2Proof.Machine.execGatewayResolve failed s
  | .neighbourResolution p requester target => Sys2Proof.Machine.execNeighbourResolution p requester target s
  | .icmpEcho src payload => Sys2Proof.Machine.execIcmpEcho src payload s
  | .ptpMessage src domain k => Sys2Proof.Machine.execPtpMessage src domain k s
  | .ptpAnnounceTimeout => Sys2Proof.Machine.execPtpAnnounceTimeout s
  | .ptpHoldoverExpiry => Sys2Proof.Machine.execPtpHoldoverExpiry s
  | .fetchResponse => Sys2Proof.Machine.execFetchResponse s
  | .fetchTimeout entry late => Sys2Proof.Machine.execFetchTimeout entry late s
  | .servingRequestAdmit => Sys2Proof.Machine.execServingRequestAdmit s
  | .servingRequestFork => Sys2Proof.Machine.execServingRequestFork s
  | .servingRequestRetire => Sys2Proof.Machine.execServingRequestRetire s
  | .faultMessage => Sys2Proof.Machine.execFaultMessage s
  | .rollback => Sys2Proof.Machine.execRollback s
  | .redraw => Sys2Proof.Machine.execRedraw s
  | .restored => Sys2Proof.Machine.execRestored s
  | .startMsg => Sys2Proof.Machine.execStart s
  | .replayResult => Sys2Proof.Machine.execReplayResult s
  | .resume => Sys2Proof.Machine.execResume s
  | .halt => Sys2Proof.Machine.execHalt s
  | .secured => Sys2Proof.Machine.execSecured s
  | .takeover => Sys2Proof.Machine.execTakeover s
  | .imageReq => Sys2Proof.Machine.execImageReq s
  | .scrubRead c errs mErrs wrote => Sys2Proof.Machine.execScrubRead c errs mErrs wrote s
  | .scrubPassEnd c => Sys2Proof.Machine.execScrubPassEnd c s
  | .channelFailed c phy => Sys2Proof.Machine.execChannelFailed c phy s
  | .retireCopyDone c => Sys2Proof.Machine.execRetireCopyDone c s
  | .flitRx k crcOk => Sys2Proof.Machine.execFlitRx k crcOk s
  | .d2dLaneFail k => Sys2Proof.Machine.execD2dLaneFail k s
  | .d2dLinkLoss k => Sys2Proof.Machine.execD2dLinkLoss k s
  | .mgmtWdtExpiry late => Sys2Proof.Machine.execMgmtWdtExpiry late s
  | .dormerRestartDone => Sys2Proof.Machine.execDormerRestartDone s
  | .coldStart x => Sys2Proof.Machine.execColdStart x s
  | .stop => Sys2Proof.Machine.execStop s
  | .rstNAssert => Sys2Proof.Machine.execRstNAssert s
  | .rstNRelease x => Sys2Proof.Machine.execRstNRelease x s
  | .antiRollback => Sys2Proof.Machine.execAntiRollback s
  | .storeWrite => Sys2Proof.Machine.execStoreWrite s
  | .storeWriteTimer => Sys2Proof.Machine.execStoreWriteTimer s
  | .telemetryUpdate x ends => Sys2Proof.Machine.execTelemetryUpdate x ends s
  | .thermalTrip z t => Sys2Proof.Machine.execThermalTrip z t s
  | .inputVoltageFault vstby => Sys2Proof.Machine.execInputVoltageFault vstby s
  | .inputOvercurrent => Sys2Proof.Machine.execInputOvercurrent s
  | .railFault => Sys2Proof.Machine.execRailFault s
  | .referenceLoss fast => Sys2Proof.Machine.execReferenceLoss fast s
  | .noiseHealthFail => Sys2Proof.Machine.execNoiseHealthFail s
  | .inputInRange x => Sys2Proof.Machine.execInputInRange x s
  | .referencePresent x => Sys2Proof.Machine.execReferencePresent x s
  | .restoreComplete => Sys2Proof.Machine.execRestoreComplete s
  | .rebuildComplete c => Sys2Proof.Machine.execRebuildComplete c s
  | .otherTypeRequest m => Sys2Proof.Machine.execOtherTypeRequest m s

end Sys2Proof.Machine
end

