-- ==== Sys2Proof/Machine/Egress.lean ====
section
/-!
DEFINITION. The service of the port's egress queues (R356, R363): what leaves the port, and when the line is free again.
-/
namespace Sys2Proof.Machine

/-- The first frame of a queue. -/
def EgressState.first (e : EgressState) (q : Nat) : Option EgressFrame := e.waiting.find? fun f => f.queue == q

/-- Weights of queues 3 to 6 (R363). -/
def drrWeight : Nat → Nat
  | 0 => 8 | 1 => 4 | 2 => 2 | _ => 1

/-- A visit of deficit round robin to queues 3 to 6 (R363): a queue receives its weight times a quantum once a visit and sends while
its deficit covers its first frame; an empty queue loses its deficit. -/
def EgressState.drr (quantum : Nat) : Nat → EgressState → Option (EgressFrame × EgressState)
  | 0, _ => none
  | n + 1, e =>
    match e.first (3 + e.turn) with
    | none => EgressState.drr quantum n { e with deficits := e.deficits.set e.turn 0, turn := (e.turn + 1) % 4, topped := false }
    | some f =>
      let d := e.deficits.getD e.turn 0 + (if e.topped then 0 else drrWeight e.turn * quantum)
      if f.bytes ≤ d then
        some (f, { e with deficits := e.deficits.set e.turn (d - f.bytes), topped := true, waiting := e.waiting.erase f })
      else EgressState.drr quantum n { e with deficits := e.deficits.set e.turn d, turn := (e.turn + 1) % 4, topped := false }

/-- The next frame to leave (R363): queues 0 to 2 in strict priority, then queues 3 to 6 by deficit round robin, with a quantum of
MAX_FRAME bytes, 9,216 at least (log 133: DESIGN CHOICE). -/
def nextFrame (s : State) : Option (EgressFrame × EgressState) :=
  match [0, 1, 2].findSome? s.egress.first with
  | some f => some (f, { s.egress with waiting := s.egress.waiting.erase f })
  | none => EgressState.drr (max 9216 (reg s Obj.maxFrame)) 9 s.egress

/-- Fabric clocks for which a frame occupies the line, preamble and gap with it (R355, R356, R367): 125 bytes a clock at 1.6 Tb/s,
half of that in mode 0x02. -/
def lineClocks (s : State) (bytes : Nat) : Nat := ((if s.net.portMode = 2 then 2 else 1) * (bytes + 20) + 124) / 125

/-- The port sends its next frame once the line is free (R363). -/
def transmit (s : State) : State :=
  if reg s Obj.linkState ≠ 2 ∨ s.clk < s.egress.lineFree then s
  else match nextFrame s with
    | none => s
    | some (f, e) => { s with egress := { e with wire := f :: e.wire, lineFree := s.clk + lineClocks s f.bytes } }

end Sys2Proof.Machine
end

