-- ==== Sys2Proof/Machine/Tick.lean ====
section
/-!
DEFINITION. One fabric clock passes (R27): what step does when no command waits (log 1: DESIGN CHOICE).
-/
namespace Sys2Proof.Machine

/-- Whether the clock counts as powered time (R455): any state but OFF and ASLEEP, and MAINT, which only software
requests. -/
def countsPowered (s : State) : Bool := s.dev != .off && s.dev != .asleep && s.dev != .maint

/-- Whether a powered clock counts outside U (R455): FAULTED, and RECOVERING after a fault of the module's own. -/
def countsUnavail (s : State) : Bool := s.dev == .faulted || (s.dev == .recovering && s.power.ownFault)

/-- One ac of the first tile of a BT operation (R126): a staged row goes on being fed, or the feed is held and counts. -/
def feedStaged (s : State) (l : Core) : State :=
  match (coreOf s l).slate with
  | some r =>
    if !r.waiting then s
    else if r.fedAc < stagedAc s l (prodBlock s l r.word) r then
      modSlate s l fun r => { r with fedAc := r.fedAc + 1 }
    else bump s (Obj.slateGutterWait + l.val) 1
  | none => s

/-- One ac of a core: all request slots busy and a stream waiting counts (R304), a Slate feed goes on or is held for a
transposing copy (R126), and a core whose conditions hold stops its clock (R318). -/
def coreWaits (s : State) (l : Core) : State :=
  let c := coreOf s l
  let s := bumpIf s (decide (64 ≤ c.slots.length) && !c.reqs.isEmpty) (Obj.slotFullAc + l.val) 1
  restCore (feedStaged s l) l

/-- The time counters of one clock. -/
def countClock (s : State) : State :=
  { s with
    clk := s.clk + 1
    power := { s.power with
      poweredClk := s.power.poweredClk + (if countsPowered s then 1 else 0)
      unavailClk := s.power.unavailClk + (if countsUnavail s then 1 else 0) } }

/-- One fabric clock: the port sends (R363). An arithmetic clock is two of them (R27). -/
def tick (s : State) : State :=
  let s := transmit (countClock s)
  if s.clk % 2 = 0 then allCores.foldl coreWaits s else s

end Sys2Proof.Machine
end

