-- ==== Sys2Proof/Safety.lean ====
section
/-!
DEFINITION. What a safe state is, in the terms that statements use.
-/
namespace Sys2Proof.Machine

/-- The register list has its keys strictly rising. -/
def State.RegsOk (s : State) : Prop := s.regs.Pairwise fun a b => a.1 < b.1

/-- Module memory is in its canonical form. -/
def State.MemOk (s : State) : Prop := Memory.wf s.mem = true

/-- A device state and a job mode that agree (R7 to R12, R444, R448): in RUNNING and RECOVERING a job is present, and a job mode other
than IDLE stands only in RUNNING, RECOVERING and FAULTED. -/
def modesAgree (d : DeviceState) (m : JobMode) : Prop :=
  (d = .running ∨ d = .recovering → m ≠ .idle) ∧ (m ≠ .idle → d = .running ∨ d = .recovering ∨ d = .faulted)

/-- The job mode and the device state agree. -/
def State.JobOk (s : State) : Prop := modesAgree s.dev s.mode

end Sys2Proof.Machine
end

