-- ==== Sys2Proof/Certificates/Slice0/Obligations.lean ====
section
/-!
DEFINITION. The statements for the provers. A statement about a command says what its next state is and what it leaves: an equation
`t = (s with the fields named)` says that every field not named stands as it did.
-/
namespace Sys2Proof.Slice0
open Sys2Proof.Machine

/-- Every dictionary register but those of the keys listed stands as it did. -/
def RegsBut (s t : State) (ks : List Nat) : Prop := ∀ k, k ∉ ks → reg t k = reg s k

/-- Every byte of memory stands as it did. -/
def SameMemory (s t : State) : Prop := ∀ a, memGet t.mem a = memGet s.mem a

/-- Every logical core but one stands as it did. -/
def CoresBut (s t : State) (l : Core) : Prop := ∀ c, c ≠ l → coreOf t c = coreOf s c

end Sys2Proof.Slice0
section
open Sys2Proof Sys2Proof.Machine Sys2Proof.Slice0

/-! ### The block and its queue -/

/-- The state after reset (R507: OFF; R14: an object reads as its default until something sets it). That memory nothing has
written reads 0 and that the scoreboards start clear are the model's choices (logs 3 and 76). -/
def Obligations.ResetStateIsOffWithDefaults : Prop :=
  State.reset.dev = .off ∧ State.reset.mode = .idle ∧ State.reset.pending = [] ∧ State.reset.sent = [] ∧
  State.reset.egress.waiting = [] ∧ State.reset.MemOk ∧ State.reset.RegsOk ∧ State.reset.JobOk ∧ (∀ k, reg State.reset k = keyDefault k) ∧
  (∀ a, memGet State.reset.mem a = 0#8) ∧ (∀ i : Sess, State.reset.dunrel.sessions[i] = none) ∧
  State.reset.dunrel.txns = [] ∧ ∀ l : Core, (coreOf State.reset l).tokens = 0#256

/-- A step takes the command at the front of the queue and is what exec answers on the queue's rest. -/
def Obligations.StepRunsTheFrontCommand : Prop :=
  ∀ (c : Instr) (q : List Instr) (s : State), step { s with pending := c :: q } = exec c { s with pending := q }

/-- An idle step is one fabric clock (the model's choice, log 1): the clock and the time counters advance, SLOT_FULL_AC and
SLATE_GUTTER_WAIT may count, a staged Slate feed may go on (R126), a core whose conditions hold may stop its clock (R318), the port
may send (R363), and nothing else changes; an odd clock touches no core and counts nothing, since an arithmetic clock is two. -/
def Obligations.IdleStepIsOneFabricClock : Prop :=
  ∀ s : State, s.pending = [] → ∃ t, step s = .next t ∧ t.clk = s.clk + 1 ∧
    t.power.poweredClk = s.power.poweredClk + (if s.dev = .off ∨ s.dev = .asleep ∨ s.dev = .maint then 0 else 1) ∧
    t.power.unavailClk = s.power.unavailClk +
      (if s.dev = .faulted ∨ (s.dev = .recovering ∧ s.power.ownFault = true) then 1 else 0) ∧
    t = { s with clk := t.clk, regs := t.regs, cores := t.cores, egress := t.egress,
                 power := { s.power with poweredClk := t.power.poweredClk, unavailClk := t.power.unavailClk } } ∧
    (s.clk % 2 = 0 → t.regs = s.regs ∧ t.cores = s.cores) ∧
    (∀ l : Core, coreOf t l = { coreOf s l with slate := (coreOf t l).slate, clockOn := (coreOf t l).clockOn } ∧
      ((coreOf s l).clockOn = false → (coreOf t l).clockOn = false) ∧
      ((coreOf s l).flight ≠ [] → (coreOf t l).clockOn = (coreOf s l).clockOn) ∧
      ((∀ r, (coreOf s l).slate = some r → r.waiting = false) → (coreOf t l).slate = (coreOf s l).slate)) ∧
    ∀ k, (∀ l : Core, k ≠ Obj.slotFullAc + l.val ∧ k ≠ Obj.slateGutterWait + l.val) → reg t k = reg s k

/-- R363: the port sends one frame at a time, while the link is up and the line is free: a frame of queues 0 to 2 in strict
priority, and of queues 3 to 6 only while those are empty. A message handed to the port waits in its queue with the frames that
wait there already, and a retransmission is put ahead of the new packets of its queue. -/
def Sys2Proof.Slice0.PortSendsInPriorityOrder : Prop :=
  (∀ s : State, s.pending = [] →
    (reg s Obj.linkState ≠ 2 ∨ s.clk + 1 < s.egress.lineFree →
      ∃ t, step s = .next t ∧ t.egress = s.egress) ∧
    (reg s Obj.linkState = 2 → s.egress.lineFree ≤ s.clk + 1 →
      (∀ f q, q < 3 → s.egress.waiting.find? (fun x => x.queue == q) = some f →
        (∀ x ∈ s.egress.waiting, q ≤ x.queue) →
        ∃ t, step s = .next t ∧ t.egress = { s.egress with wire := f :: s.egress.wire, waiting := s.egress.waiting.erase f
                                                           lineFree := s.clk + 1 + lineClocks s f.bytes }) ∧
      (s.egress.waiting = [] → ∃ t, step s = .next t ∧ t.egress.wire = s.egress.wire ∧ t.egress.waiting = []) ∧
      ∃ t, step s = .next t ∧ (t.egress.wire = s.egress.wire ∧ t.egress.waiting = s.egress.waiting ∨
        ∃ f ∈ s.egress.waiting, t.egress.wire = f :: s.egress.wire ∧ t.egress.waiting = s.egress.waiting.erase f ∧
          ∀ x ∈ s.egress.waiting, x.queue < 3 → f.queue ≤ x.queue))) ∧
  (∀ (s : State) (m : OutMsg), (send s m).sent = m :: s.sent ∧
    (send s m).egress.waiting.length = s.egress.waiting.length + (framesOf s m).length ∧
    (∀ f ∈ framesOf s m, f ∈ (send s m).egress.waiting) ∧ (∀ f ∈ s.egress.waiting, f ∈ (send s m).egress.waiting) ∧
    send s m = { s with sent := (send s m).sent, egress := { s.egress with waiting := (send s m).egress.waiting } }) ∧
  ∀ (f : EgressFrame) (pre post : List EgressFrame), (∀ x ∈ pre, x.queue ≠ f.queue ∨ x.retx = true) → f.retx = true →
    (∀ x, post.head? = some x → x.queue = f.queue ∧ x.retx = false) → insertFrame f (pre ++ post) = pre ++ f :: post

/-- Every step that answers a next state keeps module memory in its canonical form. -/
def Sys2Proof.Slice0.StepKeepsMemoryCanonical : Prop :=
  ∀ s t : State, s.MemOk → step s = .next t → t.MemOk

/-- Every step that answers a next state keeps the register list in order, so that equal dictionaries are equal data. -/
def Sys2Proof.Slice0.StepKeepsRegistersInOrder : Prop :=
  ∀ s t : State, s.RegsOk → step s = .next t → t.RegsOk

/-- R7 to R12, R444, R448: every step keeps device state and job mode in agreement: a job is present in RUNNING and RECOVERING, and a job
mode other than IDLE stands only there and in FAULTED. -/
def Sys2Proof.Slice0.StepKeepsModesInAgreement : Prop :=
  ∀ s t : State, s.JobOk → step s = .next t → t.JobOk

/-- The parts above: every step keeps module memory in its canonical form, the register keys rising, and device state and job mode in agreement. -/
def Obligations.StepKeepsTheStateWellFormed : Prop :=
  Sys2Proof.Slice0.StepKeepsMemoryCanonical ∧ Sys2Proof.Slice0.StepKeepsRegistersInOrder ∧ Sys2Proof.Slice0.StepKeepsModesInAgreement

/-- No step does anything but take the front command off the queue, none touches the order code of the part, none takes back a
message handed to an egress queue or draws a free value twice, and the clock moves in idle steps alone. -/
def Obligations.StepLeavesQueuePartAndSentMessages : Prop :=
  ∀ s t : State, step s = .next t →
    t.pending = s.pending.tail ∧ t.part = s.part ∧ s.fresh ≤ t.fresh ∧ (∃ new, t.sent = new ++ s.sent) ∧
    t.clk = if s.pending = [] then s.clk + 1 else s.clk

/-- No command stops and none is refused: in every state each of them answers a next state. -/
def Obligations.EveryCommandAnswers : Prop := ∀ (c : Instr) (s : State), ∃ t, exec c s = .next t

/-! ### Schedule streams -/

namespace Sys2Proof.Slice0
open Sys2Proof.Machine

/-- The stream operation that a command issues, if it issues one: its core and its place in the stream. -/
def issuesAt : Instr → Option (Core × Nat)
  | .nop l i => some (l, i)
  | .fwd l i => some (l, i)
  | .bwd l i => some (l, i)
  | .bpair l i => some (l, i)
  | .tiedsum l i => some (l.on, i)
  | .convert l i => some (l.on, i)
  | .append l i => some (l, i)
  | .attn l i => some (l, i)
  | .sample l i => some (l, i)
  | .optstep l i => some (l, i)
  | .copy l i => some (l, i)
  | .prefetch l i => some (l, i)
  | .save l i => some (l, i)
  | .load l i => some (l, i)
  | .fillDropout l i => some (l, i)
  | .fillInit l i => some (l, i)
  | .fillNoise l i => some (l, i)
  | .coll l i => some (l, i)
  | .normSquares l i => some (l, i)
  | .normAdd l i => some (l, i)
  | .normLayerSums l i => some (l, i)
  | .wait l i => some (l, i)
  | .signal l i => some (l, i)
  | .fence l i => some (l, i)
  | .phaseOpen l i => some (l, i)
  | .phaseClose l i _ => some (l, i)
  | .microbatchOpen l i => some (l, i)
  | .microbatchClose l i => some (l, i)
  | .stepClose l i => some (l, i)
  | .ctxsave l i _ => some (l, i)
  | _ => none

/-- The tokens of a core after those of one list are cleared and then those of another are set. -/
def TokensAfter (s t : State) (l : Core) (cleared set : List Nat) : Prop :=
  ∀ i : Fin 256, tokenSet (coreOf t l) i.val =
    (decide (i.val ∈ set) || (tokenSet (coreOf s l) i.val && !decide (i.val ∈ cleared)))

/-- Operation `idx` of core l has issued and completed at once: it counts in SCHED_OPS, the tokens that it consumes are clear and
those that it names set, guards whose consumer it is are free, what is in flight is as it was, and no other core and no register
but SCHED_OPS and TOKEN_DOUBLE_SET of the core has changed. -/
def IssuedAtOnce (s t : State) (l : Core) (idx : Nat) (w : BitVec 256) : Prop :=
  issuedAt (coreOf t l) idx = true ∧
  reg t (Obj.schedOps + l.val) = (reg s (Obj.schedOps + l.val) + 1) % 2 ^ 64 ∧
  TokensAfter s t l (if opConsume w then opWaits w else []) (opSets w) ∧
  (coreOf t l).flight = (coreOf s l).flight ∧ (coreOf t l).halted = (coreOf s l).halted ∧
  (coreOf t l).guards = (coreOf s l).guards.filter (fun g => g.consumer != idx) ∧
  CoresBut s t l ∧ RegsBut s t [Obj.schedOps + l.val, Obj.tokenDoubleSet + l.val]

end Sys2Proof.Slice0

/-- R283, R294, R296: an operation outside the window of 32, one that has issued, one with a token it waits on clear, one of a
core that has faulted, is moving or is switched out, one that an earlier operation of the window which could issue now precedes, and
any operation while no schedule runs, does not issue: the command changes nothing. -/
def Obligations.OperationThatMayNotIssueChangesNothing : Prop :=
  ∀ (c : Instr) (l : Core) (i : Nat) (s : State), issuesAt c = some (l, i) →
    (executing s = false ∨ (coreOf s l).halted = true ∨ (coreOf s l).moving = true ∨ (coreOf s l).switchedOut = true ∨
      i < (coreOf s l).base ∨ (coreOf s l).base + 32 ≤ i ∨ issuedAt (coreOf s l) i = true ∨ streamWord s l i = none ∨ earlierReady s l i = true ∨
      (∃ w, streamWord s l i = some w ∧ ∃ k ∈ opWaits w, tokenSet (coreOf s l) k = false)) →
    exec c s = .next s

/-- R296, R311: what the issue of an operation does, and what it leaves. `fly` keeps the operation in flight. -/
def Obligations.IssueConsumesTokensAndCounts : Prop :=
  ∀ (s : State) (l : Core) (idx : Nat) (w : BitVec 256) (op : Opcode) (fly : Bool),
    let t := issue s l idx w op fly
    issuedAt (coreOf t l) idx = true ∧ (∀ j, issuedAt (coreOf s l) j = true → issuedAt (coreOf t l) j = true) ∧
    (∀ j, issuedAt (coreOf t l) j = true → j = idx ∨ issuedAt (coreOf s l) j = true) ∧
    TokensAfter s t l (if opConsume w then opWaits w else []) [] ∧
    (coreOf t l).flight = (coreOf s l).flight ++ (if fly then [{ idx := idx, word := w, queue := op.queue }] else []) ∧
    (coreOf t l).guards = (coreOf s l).guards.filter (fun g => g.consumer != idx) ∧
    reg t (Obj.schedOps + l.val) = (reg s (Obj.schedOps + l.val) + 1) % 2 ^ 64 ∧
    RegsBut s t [Obj.schedOps + l.val] ∧ CoresBut s t l ∧ t = { s with cores := t.cores, regs := t.regs }

/-- R286, R296 to R299, R309: NOP, WAIT, SIGNAL and FENCE issue and complete at once. SIGNAL leaves for its target core; a FENCE
with OPF[0] empties the core's cache; nothing else changes. -/
def Sys2Proof.Slice0.SchedulerOperationsIssueAtOnce : Prop :=
  ∀ (s : State) (l : Core) (idx : Nat) (w : BitVec 256),
    (canIssue s l idx w .nop = true → ∃ t, exec (.nop l idx) s = .next t ∧ IssuedAtOnce s t l idx w ∧
      t = { s with cores := t.cores, regs := t.regs }) ∧
    (canIssue s l idx w .wait = true → ∃ t, exec (.wait l idx) s = .next t ∧ IssuedAtOnce s t l idx w ∧
      t = { s with cores := t.cores, regs := t.regs }) ∧
    (canIssue s l idx w .signal = true → ∃ t, exec (.signal l idx) s = .next t ∧ IssuedAtOnce s t l idx w ∧
      t.job.signals = s.job.signals ++ [(opImm w 6 0, opImm w 15 8)] ∧
      t = { s with cores := t.cores, regs := t.regs, job := { s.job with signals := t.job.signals } }) ∧
    (canIssue s l idx w .fence = true → ∃ t, exec (.fence l idx) s = .next t ∧ IssuedAtOnce s t l idx w ∧
      (coreOf t l).lines = (if bitOf (opFlags w) 0 then [] else (coreOf s l).lines) ∧
      (coreOf t l).windows = (if bitOf (opFlags w) 0 then [] else (coreOf s l).windows) ∧
      t = { s with cores := t.cores, regs := t.regs })

/-- R297: setting a token that is set leaves it set and counts it in TOKEN_DOUBLE_SET; clearing a clear token has no effect. -/
def Obligations.SettingASetTokenCounts : Prop :=
  ∀ (s : State) (l : Core) (k : Fin 256),
    (tokenSet (coreOf s l) k.val = true →
      tokenSet (coreOf (setToken s l k.val) l) k.val = true ∧
      reg (setToken s l k.val) (Obj.tokenDoubleSet + l.val) = (reg s (Obj.tokenDoubleSet + l.val) + 1) % 2 ^ 32 ∧
      setToken s l k.val = { s with regs := (setToken s l k.val).regs } ∧
      RegsBut s (setToken s l k.val) [Obj.tokenDoubleSet + l.val]) ∧
    (tokenSet (coreOf s l) k.val = false →
      tokenSet (coreOf (setToken s l k.val) l) k.val = true ∧
      clearMask (coreOf s l).tokens [k.val] = (coreOf s l).tokens)

/-- R297, R298, R320: SIGNAL_ARRIVAL registers the oldest signal on its way to its core and leaves the others in their order; an end
that the core projects after the wait is then taken. -/
def Sys2Proof.Slice0.SignalsRegisterAtTheirTargets : Prop :=
  ∀ (s : State) (l : Core) (k : Fin 256) (pre post : List (Nat × Nat)),
    s.job.signals = pre ++ (l.val, k.val) :: post → (∀ x ∈ pre, x.1 ≠ l.val) →
    ∃ t, (∀ e, exec (.signalArrival ⟨l, e⟩) s = .next (projectEnd t l e)) ∧ projectEnd t l none = t ∧ t.job.signals = pre ++ post ∧
      (∀ i : Fin 256, tokenSet (coreOf t l) i.val = (decide (i = k) || tokenSet (coreOf s l) i.val)) ∧
      RegsBut s t [Obj.tokenDoubleSet + l.val] ∧ CoresBut s t l ∧
      t = { s with cores := t.cores, regs := t.regs, job := { s.job with signals := t.job.signals } }

/-- The parts above: NOP, WAIT, SIGNAL and FENCE issue at once, and a signal registers at its target. -/
def Obligations.SchedulerOperationsIssueAndSignalsArrive : Prop :=
  Sys2Proof.Slice0.SchedulerOperationsIssueAtOnce ∧ Sys2Proof.Slice0.SignalsRegisterAtTheirTargets

/-! ### Phase and micro-batch marks -/

/-- R205: a micro-batch open increments REFS of the slot that its lag selects, a close decrements it and frees a HELD slot whose
REFS reaches 0; both issue and complete at once. A close whose slot has REFS 0 issues nothing, halts its core and counts in
VERSION_FAULTS. -/
def Sys2Proof.Slice0.MicrobatchMarksCountReferences : Prop :=
  ∀ (s : State) (l : Core) (idx i : Nat) (w : BitVec 256), lagSlot s (opImm w 5 4) = some i →
    (markReady s l idx 2 = some w → ∃ t, exec (.microbatchOpen l idx) s = .next t ∧ IssuedAtOnce s t l idx w ∧
      t.num.slots = s.num.slots.modify i (fun x => { x with refs := x.refs + 1 }) ∧
      t = { s with cores := t.cores, regs := t.regs, num := { s.num with slots := t.num.slots } }) ∧
    (markReady s l idx 3 = some w → 0 < (s.num.slots.getD i {}).refs →
      ∃ t, exec (.microbatchClose l idx) s = .next t ∧ IssuedAtOnce s t l idx w ∧
      t.num.slots = s.num.slots.modify i (fun x =>
        { x with refs := x.refs - 1, state := if x.state = .held ∧ x.refs ≤ 1 then .free else x.state }) ∧
      t = { s with cores := t.cores, regs := t.regs, num := { s.num with slots := t.num.slots } }) ∧
    (markReady s l idx 3 = some w → (s.num.slots.getD i {}).refs = 0 →
      ∃ t, exec (.microbatchClose l idx) s = .next t ∧ t.num.slots = s.num.slots ∧ coreOf t l = (coreOf s l).faultOp idx ∧
      (coreOf t l).halted = true ∧ issuedAt (coreOf t l) idx = issuedAt (coreOf s l) idx ∧
      reg t Obj.versionFaults = (reg s Obj.versionFaults + 1) % 2 ^ 32)

/-- R316, R397, R414: a phase open issues when its phase may open, on time or untimed, and the phase counts as opened; a TIMED
phase before its current start does not issue. A close ends the core's open phase, and the close of the admission phase (kind 5)
ends admission; nothing else changes, but R30: in hardware mode the close of a data-fetch phase whose shards are not on the module
with their log entries written asks for a stretch of the phase after it, when the module has asked for none. A step close retires
the core's stream. -/
def Sys2Proof.Slice0.PhaseMarksOpenAndClosePhases : Prop :=
  ∀ (s : State) (l : Core) (idx : Nat) (w : BitVec 256),
    (markReady s l idx 0 = some w → phaseMayOpen s (markPhase w) = true →
      ((phaseAt s (markPhase w)).timed = true → ptpNow s ≤ currentStart s (markPhase w)) →
      ∃ t, exec (.phaseOpen l idx) s = .next t ∧ IssuedAtOnce s t l idx w ∧
      (coreOf t l).openPhase = some (markPhase w) ∧ markPhase w ∈ t.job.opened ∧
      (∀ p, p ∈ t.job.opened → p = markPhase w ∨ p ∈ s.job.opened) ∧ (∀ p, p ∈ s.job.opened → p ∈ t.job.opened) ∧
      t = { s with cores := t.cores, regs := t.regs, job := { s.job with opened := t.job.opened } }) ∧
    (markReady s l idx 0 = some w → (phaseAt s (markPhase w)).timed = true → ptpNow s < currentStart s (markPhase w) →
      exec (.phaseOpen l idx) s = .next s) ∧
    (markReady s l idx 1 = some w → ∃ t, IssuedAtOnce s t l idx w ∧ (coreOf t l).openPhase = none ∧
      t.net.admitClosed = (s.net.admitClosed || decide ((phaseAt s (markPhase w)).kind = 5)) ∧
      t = { s with cores := t.cores, regs := t.regs, net := { s.net with admitClosed := t.net.admitClosed } } ∧
      ((phaseAt s (markPhase w)).kind ≠ 2 ∨ shardsLogged s = true ∨ reg s Obj.fetchMode ≠ 0 →
        ∀ e, exec (.phaseClose l idx e) s = .next t) ∧
      ((phaseAt s (markPhase w)).kind = 2 → shardsLogged s = false → reg s Obj.fetchMode = 0 →
        ∀ e, exec (.phaseClose l idx e) s = .next (stretchFetch t (markPhase w) e) ∧
          (s.job.sums = [] → ∃ m, OutMsg.stretch (originTargets s) m ∈ (stretchFetch t (markPhase w) e).sent ∧ m.origin = ownRank s ∧
            (if markPhase w + 1 < s.job.phases.length then m.step = s.job.step ∧ m.phase = markPhase w + 1
             else m.step = s.job.step + 1 ∧ m.phase = 0)))) ∧
    (markReady s l idx 4 = some w → ∃ t, exec (.stepClose l idx) s = .next t ∧ IssuedAtOnce s t l idx w ∧
      (coreOf t l).closed = true ∧ (coreOf t l).openPhase = none ∧ t = { s with cores := t.cores, regs := t.regs })

/-- R420: a TIMED phase open that issues after its current start is a late arrival and counts in LATE_OPENS; late in phase 0 of
step JOB_S0 the module sends no request, and otherwise it sends at least one stretch request when it has asked for none. -/
def Sys2Proof.Slice0.LatePhaseOpenIsCounted : Prop :=
  ∀ (s : State) (l : Core) (idx : Nat) (w : BitVec 256), markReady s l idx 0 = some w →
    phaseMayOpen s (markPhase w) = true → (phaseAt s (markPhase w)).timed = true →
    currentStart s (markPhase w) < ptpNow s →
    ∃ t, exec (.phaseOpen l idx) s = .next t ∧ issuedAt (coreOf t l) idx = true ∧
      (coreOf t l).openPhase = some (markPhase w) ∧
      reg t Obj.lateOpens = (reg s Obj.lateOpens + 1) % 2 ^ 32 ∧
      (markPhase w = 0 → s.job.step = reg s Obj.jobS0 → t.sent = s.sent) ∧
      (markPhase w ≠ 0 → s.job.sums = [] → ∃ m, t.sent ≠ s.sent ∧ OutMsg.stretch (originTargets s) m ∈ t.sent)

/-- R414: the planned start of a phase after Q quanta of shift, and the end of its slot, which the quanta applied to the phase
lengthen; these are at least those that any origin asked for. -/
def Sys2Proof.Slice0.PhaseStartFollowsThePlan : Prop :=
  ∀ (s : State) (ph : Nat), (∀ q, s.job.shifts[ph]? = some q →
    currentStart s ph = reg s Obj.jobT0 + (s.job.step - reg s Obj.jobS0) * reg s Obj.stepPeriod + (phaseAt s ph).start +
      10000 * q) ∧
    slotEnd s ph = currentStart s ph + (phaseAt s ph).base + (phaseAt s ph).reserve +
      10000 * appliedQuanta s s.job.step ph ∧
    (∀ x ∈ s.job.sums, x.step = s.job.step → x.phase = ph → x.quanta ≤ appliedQuanta s s.job.step ph)

/-- The parts above: microbatch marks count references, phase marks open and close phases, a late open is counted, and the planned
times follow the shifts. -/
def Obligations.MarksCountAndPhasesOpenAndClose : Prop :=
  Sys2Proof.Slice0.MicrobatchMarksCountReferences ∧ Sys2Proof.Slice0.PhaseMarksOpenAndClosePhases ∧
  Sys2Proof.Slice0.LatePhaseOpenIsCounted ∧ Sys2Proof.Slice0.PhaseStartFollowsThePlan

/-! ### Engine operations -/

namespace Sys2Proof.Slice0
open Sys2Proof.Machine

/-- Bytes stored from an address: each stands where it was stored, and every byte outside them stands as it did. -/
def Stored (s t : State) (a : Nat) (b : List Byte) : Prop :=
  (∀ i, (h : i < b.length) → memGet t.mem (a + i) = b[i]) ∧
  ∀ x, ¬ (a ≤ x ∧ x < a + b.length) → memGet t.mem x = memGet s.mem x

/-- An operation in flight whose results are all produced. -/
def InFlightDone (t : State) (l : Core) (idx : Nat) : Prop := ∃ f ∈ (coreOf t l).flight, f.idx = idx ∧ f.done = true

end Sys2Proof.Slice0

/-- R186, R187, R225, R228, R310, R311: COPY of a region, PREFETCH of a region, NORM in modes 0 and 1 and FILL of a dropout mask
store exactly their results where their destination descriptor says, and are in flight with their results produced; where no
mirrored range meets the destination, no other byte of memory changes. COPY and PREFETCH of any tensor make their requests and lay
their rows; a transposing COPY publishes no row yet, and a PREFETCH takes a guard for its consumer. -/
def Obligations.EngineOperationsStoreTheirResults : Prop :=
  ∀ (s : State) (l : Core) (idx : Nat) (w : BitVec 256), s.MemOk →
    (∀ src dst : Desc, operand! s l (opArg w 0) = .ok src → dest! s l (opArg w 1) = .ok dst →
    (canIssue s l idx w .copy = true → bitOf (opFlags w) 0 = false → bitOf (opFlags w) 1 = false → src.kind = 1 →
      dst.kind = 1 → spanMirrored s dst.base (min dst.dim0 src.dim0) = false →
      ∃ t, exec (.copy l idx) s = .next t ∧ Stored s t dst.base ((readBytes s src.base src.dim0).take dst.dim0) ∧
        InFlightDone t l idx) ∧
    (canIssue s l idx w .copy = true →
      let runs := if bitOf (opFlags w) 1 then descRuns else dataRuns
      let u := copyData (askRuns (readRuns (issue s l idx w .copy true) l idx .gutter src (runs src)) l idx .gutter true (runs dst))
        src dst (bitOf (opFlags w) 0) (bitOf (opFlags w) 1)
      exec (.copy l idx) s = .next (if bitOf (opFlags w) 0 then modCore u l fun c => { c with
          published := (dst.base, 0) :: (c.published.filter fun p => p.1 != dst.base) } else markDone u l idx)) ∧
    (canIssue s l idx w .prefetch = true → comparators (coreOf s l) < 64 →
      let u := modCore (issue s l idx w .prefetch true) l fun c => { c with guards := c.guards ++
        [{ op := idx, consumer := idx + opImm w 15 0, base := src.base, len := src.spanBytes, buffer := dst.base }] }
      let v := askRuns u l idx .prefetch false (dataRuns src)
      exec (.prefetch l idx) s = .next (markDone (putRowBytes v dst (rowBytesOf v src)) l idx)) ∧
    (canIssue s l idx w .prefetch = true → comparators (coreOf s l) < 64 → src.kind = 1 → dst.kind = 1 →
      spanMirrored s dst.base (min dst.dim0 src.dim0) = false →
      ∃ t, exec (.prefetch l idx) s = .next t ∧ Stored s t dst.base ((readBytes s src.base src.dim0).take dst.dim0) ∧
        InFlightDone t l idx) ∧
    (canIssue s l idx w .norm = true → opImm w 1 0 = 0 → spanMirrored s dst.base 88 = false →
      ∃ t, exec (.normSquares l idx) s = .next t ∧
        Stored s t dst.base ((w32All s src).foldl NormAcc.square (parseAcc (readBytes s dst.base 88))).bytes ∧
        InFlightDone t l idx) ∧
    (canIssue s l idx w .norm = true → opImm w 1 0 = 1 → spanMirrored s dst.base 88 = false →
      ∃ t, exec (.normAdd l idx) s = .next t ∧
        Stored s t dst.base ((parseAcc (readBytes s dst.base 88)).add (parseAcc (readBytes s src.base 88))).bytes ∧
        InFlightDone t l idx)) ∧
    (canIssue s l idx w .fill = true → fillPurpose w = 1 → ∀ d, dest! s l (opArg w 0) false = .ok d →
      spanMirrored s d.base ((fillCount d true + 7) / 8) = false →
      ∃ t, exec (.fillDropout l idx) s = .next t ∧
        Stored s t d.base ((List.range ((fillCount d true + 7) / 8)).map
          (maskByte (fillDraw s d w) (drawIndex s l idx) (opImm w 63 32) (fillCount d true))) ∧
        InFlightDone t l idx ∧ reg t Obj.sloeEvals = (reg s Obj.sloeEvals + 1 + (fillCount d true + 3) / 4) % 2 ^ 64)

/-- R208, R293, R294: an operation whose first operand is refused does not execute: it faults, and the command does nothing else. -/
def Sys2Proof.Slice0.RefusedOperandFaultsAtIssue : Prop :=
  ∀ (s : State) (l : Core) (idx : Nat) (w : BitVec 256) (e : DescErr × Nat), operand! s l (opArg w 0) = .error e →
    (canIssue s l idx w .copy = true → exec (.copy l idx) s = .next (descFault s l .gutter idx e)) ∧
    (canIssue s l idx w .prefetch = true → comparators (coreOf s l) < 64 →
      exec (.prefetch l idx) s = .next (descFault s l .prefetch idx e)) ∧
    (canIssue s l idx w .save = true → exec (.save l idx) s = .next (descFault s l .bramble idx e)) ∧
    (canIssue s l idx w .load = true → exec (.load l idx) s = .next (descFault s l .bramble idx e)) ∧
    (canIssue s l idx w .norm = true → opImm w 1 0 = 0 →
      exec (.normSquares l idx) s = .next (descFault s l .valley idx e)) ∧
    (canIssue s l idx w .norm = true → opImm w 1 0 = 1 →
      exec (.normAdd l idx) s = .next (descFault s l .valley idx e)) ∧
    (canIssue s l idx w .norm = true → opImm w 1 0 = 2 →
      exec (.normLayerSums l idx) s = .next (descFault s l .valley idx e)) ∧
    (canIssue s l idx w .append = true → exec (.append l idx) s = .next (descFault s l .eaves idx e)) ∧
    (∀ q, freePipe s l.die = some q → canIssue s l idx w .sample = true →
      exec (.sample l idx) s = .next (descFault s l .quince idx e))

/-- R294, R432, R479: what a schedule fault does. It halts the core and sets no token, the operation leaves its units, the violation
log and the fault log take an entry each and their heads move, FAULT_COUNT of the code counts, and memory, every other core, what
the core has issued, its other operations and the device state stand as they did. -/
def Sys2Proof.Slice0.ScheduleFaultHaltsItsCore : Prop :=
  ∀ (s : State) (l : Core) (q : Queue) (idx space addr err code : Nat), code < 0x20 →
    let t := opFault s l q idx space addr err code
    coreOf t l = { coreOf s l with
      halted := true, flight := (coreOf t l).flight, reed := (coreOf t l).reed, slate := (coreOf t l).slate
      repeats := (coreOf t l).repeats } ∧
    (∀ f, f ∈ (coreOf t l).flight ↔ f ∈ (coreOf s l).flight ∧ f.idx ≠ idx) ∧
    (∀ r, (coreOf t l).reed = some r ↔ (coreOf s l).reed = some r ∧ r.idx ≠ idx) ∧
    (∀ r, (coreOf t l).slate = some r ↔ (coreOf s l).slate = some r ∧ (r.borrowed ≠ 0 ∨ r.idx ≠ idx)) ∧
    CoresBut s t l ∧ t.job = { s.job with schedFault := true } ∧
    t.mem = s.mem ∧ t.dev = s.dev ∧ t.mode = s.mode ∧ t.ras = s.ras ∧ t.power = s.power ∧
    t.num = { s.num with tiles := s.num.tiles.filter fun x => !(x.core == l.val && x.op == idx) } ∧
    t.kv = { s.kv with runs := s.kv.runs.filter fun r => !(r.core == l.val && r.idx == idx)
                       waiting := s.kv.waiting.filter fun r => !(r.core == l.val && r.idx == idx) } ∧
    t.net.colls = s.net.colls.filter (fun r => !(r.core == l.val && r.idx == idx)) ∧ t.dunrel.txns = s.dunrel.txns ∧
    reg t Obj.violHead = (reg s Obj.violHead + 1) % 64 ∧ reg t Obj.faultLogHead = (reg s Obj.faultLogHead + 1) % 64 ∧
    reg t (Obj.faultCount + code) = (reg s (Obj.faultCount + code) + 1) % 2 ^ 32 ∧
    (leBytes 32 (reg t (Obj.faultLog + reg s Obj.faultLogHead % 64))).drop 24 =
      leBytes 1 code ++ leBytes 1 1 ++ leBytes 1 err ++ leBytes 1 l.die.val ++ leBytes 2 l.val ++ leBytes 2 0 ∧
    ∀ k, k ≠ Obj.violHead → k ≠ Obj.faultLogHead → k ≠ Obj.faultCount + code →
      k ≠ Obj.violLog + reg s Obj.violHead % 64 → k ≠ Obj.faultLog + reg s Obj.faultLogHead % 64 →
      (∀ i : Sess, k ≠ Obj.eventDropped + i.val) → reg t k = reg s k

/-- The parts above: an operand that is refused faults its operation, and the fault halts the core. -/
def Obligations.RefusedOperandsFaultAtIssue : Prop :=
  Sys2Proof.Slice0.RefusedOperandFaultsAtIssue ∧ Sys2Proof.Slice0.ScheduleFaultHaltsItsCore

/-- R62, R91, R123, R124, R131, R135: FWD issues on Reed, BWD and BPAIR on Slate, and TIEDSUM on Slate's accumulator port. With the
array free and its operands, scales and derivative table in order, the operation issues, its requests are made, and its first tile
runs: the next state is exactly that. An operation with a bad P or a bad table does not issue: it faults. -/
def Sys2Proof.Slice0.ProductOperationsIssueOnTheirArrays : Prop :=
  ∀ (s : State) (l : Core) (idx : Nat) (w : BitVec 256),
    (∀ ds, loadSplits s l (prodBlock s l w) = .ok ds →
      (canIssue s l idx w .fwd = true → (coreOf s l).reed = none →
        (badScale (prodBlock s l w) (fwdPlaces s l idx w (prodBlock s l w) ds) = none → exec (.fwd l idx) s = .next
          (reedNext (productTraffic (issue s l idx w .fwd true) l idx .reed ds) l { idx := idx, word := w } 0)) ∧
        (∀ x, badScale (prodBlock s l w) (fwdPlaces s l idx w (prodBlock s l w) ds) = some x →
          exec (.fwd l idx) s = .next (opFault s l .reed idx 4 (descAddr s l x) eSCHED 0x10))) ∧
      (slateFree s l = true → ∀ op c, op = .bwd ∧ c = Instr.bwd l idx ∨ op = .bpair ∧ c = Instr.bpair l idx →
        canIssue s l idx w op = true →
        (badScale (prodBlock s l w) (slateScales (prodBlock s l w) ds) = none →
          ((prodBlock s l w).deriv = 7 → ∀ d r v, ds = d :: r → d.saved = some v → tableOk s v.base = true) →
          exec c s = .next (slateNext (productTraffic (issue s l idx w op true) l idx .slate ds) l { idx := idx, word := w } 0)) ∧
        (∀ x, badScale (prodBlock s l w) (slateScales (prodBlock s l w) ds) = some x →
          exec c s = .next (opFault s l .slate idx 4 (descAddr s l x) eSCHED 0x10)) ∧
        (∀ d r v, badScale (prodBlock s l w) (slateScales (prodBlock s l w) ds) = none → (prodBlock s l w).deriv = 7 → ds = d :: r →
          d.saved = some v → tableOk s v.base = false →
          exec c s = .next (opFault s l .slate idx 0 v.base eSCHED 0x10)))) ∧
    (∀ out uses e, tiedOperands s l w = .ok (out, uses) → slateFree s l = true → canIssue s l idx w .tiedsum = true →
      exec (.tiedsum ⟨l, e⟩ idx) s = .next (projectEnd (markDone
        ((List.range (if out.kind = 1 then 1 else out.rows)).foldl (fun t i =>
            writeBytes t (w32Addr out (w32Count out) i 0)
              (((List.range (w32Count out)).map fun k => tiedSum (uses.map fun u => w32Elem s u (w32Count out) i k)).flatMap
                fun x => leBytes 4 x.toNat))
          (traffic (issue s l idx w .tiedsum true) l idx .slate uses [out])) l idx) l e))

/-- R145, R146, R166, R172, R206: a conversion whose operands are in order issues on the core's cluster. One that the ladder
serves lays out its conversion tiles and runs the first pass of the first of them; any other is accepted as it stands. -/
def Sys2Proof.Slice0.ConversionsIssueOnTheirCluster : Prop :=
  ∀ (s : State) (l : Core) (idx : Nat) (w : BitVec 256) (e : Option Nat) (c : ConvSpec),
    canIssue s l idx w .convert = true → convSpec s l idx w = .ok c →
    (c.dst.fmt.isScaled = true → (trackerAt s c.cluster c.tracker).isSome = true) →
    let v := startFilling (captureRows (issue s l idx w .convert true) l idx c) c
    let d := weightDest v l (opArg w 1) c
    let t := traffic v l idx .eaves (d.src :: d.mask.toList) (d.dst :: (d.list.toList ++ d.wide.toList))
    let u := if d.stoch then countKey t else t
    (∀ layer mb y, ladderOf u l idx d = some (layer, mb) → trackerAt u d.cluster d.tracker = some y → d.dst.fmt.isScaled = true →
      exec (.convert ⟨l, e⟩ idx) s = .next (convertLadder u l idx e w d y layer mb)) ∧
    (ladderOf u l idx d = none ∨ trackerAt u d.cluster d.tracker = none ∨ d.dst.fmt.isScaled = false →
      exec (.convert ⟨l, e⟩ idx) s = .next (convertPlain u l idx e d))

/-- The parts above: array products issue on their arrays and conversions on their cluster. -/
def Obligations.ProductsAndConversionsIssue : Prop :=
  Sys2Proof.Slice0.ProductOperationsIssueOnTheirArrays ∧ Sys2Proof.Slice0.ConversionsIssueOnTheirCluster

/-- R242, R254, R278, R279: with a pipeline of its die free, an attention operation in order takes it and waits for its fed
blocks, or ends at once when none is fed; the blocks that it skips count. A sampling operation in order writes its token, keeps it
for the response record, and ends. -/
def Sys2Proof.Slice0.AttentionAndSamplingTakeAPipeline : Prop :=
  ∀ (s : State) (l : Core) (idx q : Nat) (w : BitVec 256), freePipe s l.die = some q →
    (∀ a, canIssue s l idx w .attn = true → loadAttn s l w = .ok a → w32IsFin a.b.sigma = true → w32Lt 0#32 a.b.sigma = true →
      scaleOk a.scale = true → a.walkOver = false →
      let r : QRun := { pipe := q, core := l.val, idx := idx, word := w, fed := (a.blocks s).1 }
      ∃ u, u.kv = { s.kv with runs := s.kv.runs ++ [r] } ∧ issuedAt (coreOf u l) idx = true ∧ u.mem = s.mem ∧ u.num = s.num ∧
        u.dev = s.dev ∧ u.sent = s.sent ∧
        reg u (Obj.quinceBlocksSkipped + q) = (if (a.blocks s).2 = 0 then reg s (Obj.quinceBlocksSkipped + q)
          else (reg s (Obj.quinceBlocksSkipped + q) + (a.blocks s).2) % 2 ^ 64) ∧
        ((a.blocks s).1 ≠ [] → exec (.attn l idx) s = .next u) ∧
        ((a.blocks s).1 = [] → ∃ t, exec (.attn l idx) s = .next t ∧ t = finishAttn u l a r ∧ InFlightDone t l idx)) ∧
    (∀ z out, canIssue s l idx w .sample = true → operand! s l (opArg w 0) = .ok z → dest! s l (opArg w 1) = .ok out →
      let x := seqAt s (opImm w 12 0)
      let ra := thatchAddr l.die + s.kv.sampleRecords + 16 * x.srec
      sampleRecordOk (readW32 s ra) (readLE s (ra + 4) 4) = true → s.MemOk → spanMirrored s out.base 4 = false →
      ∃ t tok, exec (.sample l idx) s = .next t ∧
        tok = (sampleToken ((List.range z.dim0).map fun k => w32Elem s z z.dim0 0 k) (readW32 s ra) (readLE s (ra + 4) 4)
          ((drawOf s 3 z.ident 0 0).eval (x.id % 2 ^ 40 * 2 ^ 24 + opImm w 63 40 % 2 ^ 24))).1 ∧
        Stored s t out.base (leBytes 4 tok) ∧
        t.kv.sampled = s.kv.sampled ++ [{ entry := opImm w 12 0, pos := opImm w 63 40, token := tok }] ∧
        reg t Obj.sloeEvals = (reg s Obj.sloeEvals + 2) % 2 ^ 64 ∧ InFlightDone t l idx)

/-- R190, R192, R194, R195: an optimizer step waits until the norm G is known; then, in order, it issues, its hyperparameter record advances,
and its elements are updated, or skipped when G is not finite. R200: NORM in mode 2 adds each layer's sums into its region. -/
def Sys2Proof.Slice0.OptimizerOperationsIssue : Prop :=
  ∀ (s : State) (l : Core) (idx : Nat) (w : BitVec 256),
    (s.num.norm.known = false → exec (.optstep l idx) s = .next s) ∧
    (∀ a, canIssue s l idx w .optstep = true → s.num.norm.known = true → optArgs s l w = .ok a →
      let ha := hyperAddr s (opImm w 19 12)
      let h := parseHyper (readBytes s ha 64)
      hyperOk s ha h = true → (h.algo ≠ 2 → a.v8.isSome = true ∧ a.vrec.isSome = true) →
      let v := if h.algo = 2 then [] else a.v8.toList
      let u := advanceHyper (traffic (issue s l idx w .optstep true) l idx .damson
        ([a.grad, a.w16, a.rm8, a.m8] ++ v) ([a.w16, a.rm8, a.m8] ++ v)) ha h
      exec (.optstep l idx) s = .next (markDone (if normBad u.1.num.norm then skipUpdate u.1 a (opImm w 11 0)
        else applyUpdate u.1 l a u.2 (learningRate s ha h) (opImm w 11 0)) l idx)) ∧
    (∀ src acc, canIssue s l idx w .norm = true → opImm w 1 0 = 2 → operand! s l (opArg w 0) = .ok src →
      dest! s l (opArg w 1) = .ok acc →
      exec (.normLayerSums l idx) s = .next (markDone
        (((s.num.layers.take (min s.num.layers.length (acc.dim0 / layerSumBytes))).zipIdx).foldl
          (fun t (p : Layer × Nat) => addLayerSums t acc.base p.2 p.1)
          (traffic (issue s l idx w .norm true) l idx .valley [src] [acc])) l idx))

/-- The parts above: attention and sampling take a pipeline, and optimizer operations issue. -/
def Obligations.PipelineAndOptimizerOperationsIssue : Prop :=
  Sys2Proof.Slice0.AttentionAndSamplingTakeAPipeline ∧ Sys2Proof.Slice0.OptimizerOperationsIssue

/-- R211 to R215, R220, R225, R231, R272: SAVE stores its segments and planes in order and counts raw and stored bytes; LOAD expands
every piece; FILL of values stores A + B × z element by element and counts the Sloe evaluations; APPEND of a running sequence's own
position converts one row for each head group and counts its saturations and flushes. -/
def Sys2Proof.Slice0.BlockMovingOperationsIssue : Prop :=
  ∀ (s : State) (l : Core) (idx : Nat) (w : BitVec 256),
    (∀ src segs plane, canIssue s l idx w .save = true → operand! s l (opArg w 0) = .ok src → dest! s l (opArg w 1) = .ok segs →
      destOpt s l (opArg w 2) = .ok plane → (src.fmt.isScaled = true → plane.isSome = true) →
      let fm := if opImm w 1 0 = 2 then Format.b4 else src.fmt
      let r := savedBlocks s src (opImm w 1 0)
      let blobs := (piecesOf 64 (r.1.length + 1) r.1).map fun p => segment (opImm w 1 0) fm src.blk p
      ∃ t, exec (.save l idx) s = .next t ∧
        t.mem = (plane.toList.foldl (fun t p => writeBytes t p.base (savedPlane s src (opImm w 1 0)))
          ((blobs.zipIdx).foldl (fun t (p : List Byte × Nat) =>
            writeBytes t (segs.base + p.2 * segSlot fm (blockSize src.blk)) p.1) s)).mem ∧
        InFlightDone t l idx ∧ issuedAt (coreOf t l) idx = true ∧
        reg t (Obj.brambleRawBytes + l.die.val) =
          (reg s (Obj.brambleRawBytes + l.die.val) + src.rows * src.rowBytes) % 2 ^ 64 ∧
        reg t (Obj.brambleStoredBytes + l.die.val) =
          (reg s (Obj.brambleStoredBytes + l.die.val) + (blobs.map List.length).sum) % 2 ^ 64) ∧
    (∀ segs dst plane, canIssue s l idx w .load = true → operand! s l (opArg w 0) = .ok segs → dest! s l (opArg w 1) = .ok dst →
      operand s l (opArg w 2) = .ok plane → (dst.fmt.isScaled = true → plane.isSome = true) →
      let parts := (piecesOf 64 ((tensorBlocks dst).length + 1) (tensorBlocks dst)).zipIdx
      let u := issue s l idx w .load true
      let v := traffic (askRuns u l idx .bramble false (storedRuns u segs dst parts.length)) l idx .bramble plane.toList [dst]
      let r := parts.foldl (fun (acc : State × Nat × Nat) (p : List (Nat × Nat) × Nat) =>
        let x := loadSegment acc.1 segs dst ((plane.map Desc.base).getD 0) p.2 p.1
        (x.1, acc.2.1 + x.2.1, acc.2.2 + x.2.2)) (v, 0, 0)
      exec (.load l idx) s = .next (markDone (countFlush (bumpIf r.1 (r.2.1 != 0) (Obj.brambleSat + l.die.val) r.2.1) l r.2.2)
        l idx)) ∧
    (∀ dst par, canIssue s l idx w .fill = true → dest! s l (opArg w 0) false = .ok dst → operand! s l (opArg w 1) = .ok par →
      fillFormatOk dst = true → w32IsFin (readW32 s par.base) = true → w32IsFin (readW32 s (par.base + 4)) = true →
      let z := fun i => fillVariate (fillDraw s dst w) (opImm w 5 4) (drawIndex s l idx i)
      let r := (List.range (fillCount dst false)).foldl (fun acc i => putFill dst acc i
          (fillValue (readW32 s par.base) (readW32 s (par.base + 4)) (z i)))
        (traffic (issue s l idx w .fill true) l idx .sloe [par] [dst], 0)
      let u := markDone (countEvals (countKey (bumpIf r.1 (r.2 != 0) (Obj.damsonMasterOvf + l.die.val) r.2))
        ((fillCount dst false + 3) / 4)) l idx
      (fillPurpose w = 2 → exec (.fillInit l idx) s = .next u) ∧ (fillPurpose w = 5 → exec (.fillNoise l idx) s = .next u)) ∧
    (∀ src, canIssue s l idx w .append = true → operand! s l (opArg w 0) = .ok src →
      (seqAt s (opImm w 12 0)).len ≤ opImm w 63 40 →
      opImm w 63 40 < (seqAt s (opImm w 12 0)).len + (seqAt s (opImm w 12 0)).append →
      s.kv.ran.contains (opImm w 12 0) = true →
      let r := lrecAt s l.die (opImm w 22 13)
      let dst := frameDesc r (entryPage (pageEntry s (seqAt s (opImm w 12 0)) (opImm w 63 40 / 64))) (opImm w 28 23)
        (opImm w 29 29 == 1)
      let row := fun h => 64 * h + opImm w 63 40 % 64
      let areas := (List.range r.hg).flatMap fun h =>
        [({ base := dst.rowAddr (row h), kind := 1, dim0 := dst.rowBytes } : Desc),
         { base := frameScaleAddr dst (row h) 0, kind := 1, dim0 := dst.blocks }]
      let x := (List.range r.hg).foldl (fun (acc : State × AppendCounts) h =>
          let y := appendHead acc.1 src dst r.zp h (row h)
          (y.1, acc.2.add y.2)) (traffic (issue s l idx w .append true) l idx .eaves [src] areas, {})
      ∃ t, exec (.append l idx) s = .next t ∧
        t = markDone (countFlush (bumpIf (bumpIf x.1 (x.2.sat != 0) Obj.kvAppendSat x.2.sat) (x.2.ovf != 0)
          (Obj.eavesScaleOvf + l.cluster.val) x.2.ovf) l x.2.under) l idx ∧
        InFlightDone t l idx ∧ issuedAt (coreOf t l) idx = true ∧ t.kv = s.kv)

/-- R388, R389, R299, R303, R317: a collective operation whose plan entry and group exist issues and starts its route. A context
save of a step that does not secure completes at issue and captures nothing; in a step that secures, Batten is given its regions
under its context section and asks for them through the core's slots. -/
def Sys2Proof.Slice0.CollectivesAndContextSavesIssue : Prop :=
  ∀ (s : State) (l : Core) (idx : Nat) (w : BitVec 256),
    (∀ src dst nrm, canIssue s l idx w .coll = true →
      let e := planAt s (opImm w 15 0)
      let p := (s.net.groups.getD e.group []).length
      e.kind ≤ 7 → 0 < p → operand s l (opArg w 0) = .ok src →
      (if opArg w 1 = noDesc then Except.ok none else (dest! s l (opArg w 1)).map some) = .ok dst →
      (if opFlags w % 2 = 1 then (dest! s l (opArg w 2)).map some else Except.ok none) = .ok nrm →
      let chunks := chunksOf e p (collSource s (opImm w 15 0) src)
      let r : CollRun := { core := l.val, idx := idx, plan := opImm w 15 0, kind := e.kind, self := e.self, msgBytes := e.chunk
                           chunks := chunks, steps := routeOf e p chunks, dst := dst, norm := nrm }
      let u := traffic (issue s l idx w .coll true) l idx .flashing src.toList (dst.toList ++ nrm.toList)
      let v := if directRoute e p then presend u r else (u, r)
      exec (.coll l idx) s = .next (collTry { v.1 with net := { v.1.net with colls := v.1.net.colls ++ [v.2] } } v.2)) ∧
    (∀ ds, canIssue s l idx w .ctxsave = true → (List.range 8).mapM (fun k => operand s l (opArg w k) false) = .ok ds →
      let regions := (ds.filterMap id).flatMap descRegions
      (secures s = false → ∃ t, (∀ e, exec (.ctxsave l idx e) s = .next t) ∧ IssuedAtOnce s t l idx w ∧
        t = { s with cores := t.cores, regs := t.regs }) ∧
      (secures s = true → ∃ t, (∀ e, exec (.ctxsave l idx e) s = .next (foresee t e)) ∧ foresee t none = t ∧
        InFlightDone t l idx ∧ issuedAt (coreOf t l) idx = true ∧
        t.recov.securing = s.recov.securing.map (fun x =>
          { x with regions := x.regions ++ inSection (opImm w 15 0) regions }) ∧
        t = { s with cores := t.cores, regs := t.regs, recov := { s.recov with securing := t.recov.securing } }))

/-- The parts above: saves, loads, fills of values, appends, collectives and context saves issue. -/
def Obligations.MovingOperationsIssue : Prop :=
  Sys2Proof.Slice0.BlockMovingOperationsIssue ∧ Sys2Proof.Slice0.CollectivesAndContextSavesIssue

/-! ### Requests, timeouts and completion -/

/-- R296, R320, R472: an operation in flight whose results are produced and acknowledged completes, also on a core that another
operation's fault has halted: it leaves the in-flight table and sets its tokens. An optimizer step, an attention and a sampling
operation do first what their end brings; with no transaction waiting nothing else happens but what the core's projected end asks. -/
def Obligations.CompletionLeavesFlightAndSetsTokens : Prop :=
  ∀ (s : State) (l : Core) (idx : Nat) (f : Flight),
    (coreOf s l).flight.find? (fun x => x.idx == idx) = some f → f.done = true → hasRequests (coreOf s l) idx = false →
    (∀ x ∈ s.dunrel.txns, x.waits = false) →
    ∃ t, (∀ e, exec (.operationComplete ⟨l, e⟩ idx) s = .next (projectEnd t l e)) ∧ projectEnd t l none = t ∧
      (coreOf t l).flight = (coreOf (completeOp s l f) l).flight.filter (fun x => x.idx != idx) ∧
      TokensAfter (completeOp s l f) t l [] (opSets f.word) ∧ CoresBut (completeOp s l f) t l ∧
      RegsBut (completeOp s l f) t [Obj.tokenDoubleSet + l.val] ∧
      t = { completeOp s l f with cores := t.cores, regs := t.regs } ∧
      (opcodeOf f.word ≠ some .optstep → opcodeOf f.word ≠ some .attn → opcodeOf f.word ≠ some .sample →
        completeOp s l f = s)

/-- R304, R307, R334: a read that returns data and a write that is acknowledged free their slot, and the streams that wait are
served; a read that returns an error response faults its operation with E_UNCORR. With no request waiting, the core's other slots
stand as they did and nothing but the slot is gone. -/
def Obligations.ResponsesFreeTheirSlots : Prop :=
  ∀ (s : State) (l : Core) (i : Nat) (x : Slot), (coreOf s l).slots[i]? = some x →
    (x.req.write = false → ∀ errs mErrs u d, readGranule s x.req.addr errs mErrs l.val = (u, some d) →
      exec (.memReadResponse l i errs mErrs) s = .next (freeSlot u l i)) ∧
    (x.req.write = false → ∀ errs mErrs u, readGranule s x.req.addr errs mErrs l.val = (u, none) →
      exec (.memReadResponse l i errs mErrs) s = .next
        (opFault (dropRequests (freeSlot u l i) l x.req.op) l x.req.unit x.req.op 0 x.req.addr eUNCORR 0x03)) ∧
    (x.req.write = true → ∃ t, exec (.memWriteAck l i) s = .next t ∧ t = freeSlot s l i ∧ t.mem = s.mem ∧
      (coreOf t l).flight = (coreOf s l).flight ∧ (coreOf t l).tokens = (coreOf s l).tokens) ∧
    ((coreOf s l).reqs = [] →
      coreOf (freeSlot s l i) l = { coreOf s l with slots := (coreOf s l).slots.eraseIdx i } ∧
      CoresBut s (freeSlot s l i) l ∧ freeSlot s l i = { s with cores := (freeSlot s l i).cores })

/-- R306, R314: a request not answered within 50 µs faults its operation with E_TIMEOUT: the core halts, the operation's requests
and slots are gone, the violation log takes the address and FAULT_COUNT of code 0x10 counts. A request whose answer registers in the
same cycle is accepted and counted as a late acceptance; a write then frees its slot. Before 50 µs nothing happens. -/
def Obligations.UnansweredRequestFaultsItsOperation : Prop :=
  ∀ (s : State) (l : Core) (i : Nat) (x : Slot), (coreOf s l).slots[i]? = some x →
    (elapsed s x.since 50000 = false → ∀ late, exec (.memRequestTimeout l i late) s = .next s) ∧
    (elapsed s x.since 50000 = true →
      (∃ t, exec (.memRequestTimeout l i false) s = .next t ∧ (coreOf t l).halted = true ∧
        (∀ y ∈ (coreOf t l).slots, y.req.op ≠ x.req.op) ∧ (∀ y ∈ (coreOf t l).reqs, y.op ≠ x.req.op) ∧
        (coreOf t l).tokens = (coreOf s l).tokens ∧
        (∀ y, y ∈ (coreOf t l).flight ↔ y ∈ (coreOf s l).flight ∧ y.idx ≠ x.req.op) ∧
        CoresBut s t l ∧ t.mem = s.mem ∧ t.job = { s.job with schedFault := true } ∧
        (leBytes 32 (reg t (Obj.violLog + reg s Obj.violHead % 64))).drop 8 =
          leBytes 8 x.req.addr ++ leBytes 4 ((l.val * 256 + x.req.unit.num) % 2 ^ 24 + 2 ^ 24) ++ leBytes 1 0 ++
            leBytes 1 eTIMEOUT ++ leBytes 2 0 ++ List.replicate 8 0#8 ∧
        reg t (Obj.faultCount + 0x10) = (reg s (Obj.faultCount + 0x10) + 1) % 2 ^ 32) ∧
      reg (lateAccept s 1) (Obj.lateAccept + 1) = (reg s (Obj.lateAccept + 1) + 1) % 2 ^ 32 ∧
      (x.req.write = true → exec (.memRequestTimeout l i true) s = .next (freeSlot (lateAccept s 1) l i)) ∧
      (x.req.write = false → exec (.memRequestTimeout l i true) s = exec (.memReadResponse l i [] []) (lateAccept s 1)))

/-- R300, R314: when the oldest operation of the window has waited for TOKEN_TIMEOUT with no token of the core changing, it faults
with E_TIMEOUT: the core halts and the violation log names the core and the stream index; no token is set. A token that registers in the same clock is
accepted and counted. While the watchdog is held nothing happens. -/
def Obligations.TokenWatchdogFaultsTheOldestOperation : Prop :=
  ∀ (s : State) (l : Core) (w : BitVec 256), streamWord s l (coreOf s l).base = some w →
    (s.job.held = true → ∀ late, exec (.tokenTimeout l late) s = .next s) ∧
    (executing s = true → s.job.held = false → (coreOf s l).halted = false → (∃ k ∈ opWaits w, tokenSet (coreOf s l) k = false) →
      elapsed s (coreOf s l).watch (reg s Obj.tokenTimeout) = true →
      (∃ t, exec (.tokenTimeout l none) s = .next t ∧ coreOf t l = (coreOf s l).faultOp (coreOf s l).base ∧
        (coreOf t l).halted = true ∧ (coreOf t l).tokens = (coreOf s l).tokens ∧ CoresBut s t l ∧
        t.mem = s.mem ∧
        (leBytes 32 (reg t (Obj.violLog + reg s Obj.violHead % 64))).drop 8 = leBytes 8 (coreOf s l).base ++
          leBytes 4 ((l.val * 256 + ((opcodeOf w).map fun op => op.queue.num).getD Queue.sched.num) % 2 ^ 24 + 2 ^ 24) ++
          leBytes 1 3 ++ leBytes 1 eTIMEOUT ++ leBytes 2 0 ++ List.replicate 8 0#8) ∧
      (∀ k : Fin 256, tokenSet (coreOf s l) k.val = false → ∃ t, exec (.tokenTimeout l (some k)) s = .next t ∧
        (∀ i : Fin 256, tokenSet (coreOf t l) i.val = (decide (i = k) || tokenSet (coreOf s l) i.val)) ∧
        (coreOf t l).halted = false ∧ reg t Obj.lateAccept = (reg s Obj.lateAccept + 1) % 2 ^ 32 ∧
        t = { s with cores := t.cores, regs := t.regs }))

/-- R312: with PREFETCH_STRICT at 0, a consumer that has its tokens and finds its buffer stale has the source range read again and
STALE cleared, and PREFETCH_REFETCH counts; with it at 1 the consumer faults with E_SCHED at the address of the first stale write.
R126: a transposing copy publishes one row more, and with its last row its results are produced. -/
def Obligations.StalePrefetchIsReadAgainOrFaults : Prop :=
  ∀ (s : State) (l : Core) (idx : Nat) (w : BitVec 256),
    (∀ v g a src dst, streamWord s l idx = some w → (coreOf s l).guards.find? (fun x => x.consumer == idx && x.stale.isSome) = some g →
      g.stale = some a → executing s = true → (coreOf s l).halted = false → issuedAt (coreOf s l) idx = false →
      (coreOf s l).base ≤ idx → idx < (coreOf s l).base + 32 → (∀ k ∈ opWaits w, tokenSet (coreOf s l) k = true) →
      (reg s Obj.prefetchStrict = 1 → ∀ e, exec (.prefetchRefetch l idx e) s =
        .next (opFault s l (((opcodeOf w).map Opcode.queue).getD .sched) idx 0 a eSCHED 0x10)) ∧
      (reg s Obj.prefetchStrict ≠ 1 → streamWord s l g.op = some v → operand s l (opArg v 0) = .ok (some src) →
        operand s l (opArg v 1) = .ok (some dst) → s.MemOk → src.kind = 1 → dst.kind = 1 →
        spanMirrored s dst.base (min dst.dim0 src.dim0) = false → overlaps dst.base dst.dim0 g.base g.len = false →
        ∃ t, (∀ e, exec (.prefetchRefetch l idx e) s = .next (projectEnd t l e)) ∧ projectEnd t l none = t ∧
          Stored s t dst.base ((readBytes s src.base src.dim0).take dst.dim0) ∧
          reg t (Obj.prefetchRefetch + l.val) = (reg s (Obj.prefetchRefetch + l.val) + 1) % 2 ^ 32 ∧
          ∀ x ∈ (coreOf t l).guards, x.op = g.op → x.consumer = g.consumer → x.base = g.base → x.len = g.len →
            x.buffer = g.buffer → x.stale = none ∨ x ∈ (coreOf s l).guards ∧ x ≠ g)) ∧
    (∀ f src dst, (coreOf s l).flight.find? (fun x => x.idx == idx && opcodeOf x.word == some .copy && !x.done) = some f →
      operand s l (opArg f.word 0) = .ok (some src) → operand s l (opArg f.word 1) = .ok (some dst) → 
      let n := (((coreOf s l).published.find? fun p => p.1 == dst.base).map Prod.snd).getD 0 + 1
      ∃ t, (∀ e, exec (.copyRowPublish ⟨l, e⟩ idx) s = .next (match (coreOf s l).slate with
          | some r => if r.waiting then projectEnd (slateNext t l r r.tile) l e else t
          | none => t)) ∧
        (coreOf t l).published.find? (fun p => p.1 == dst.base) = some (dst.base, n) ∧
        (src.dim0 * src.dim2 * src.dim3 ≤ n → InFlightDone t l idx) ∧
        (n < src.dim0 * src.dim2 * src.dim3 → (coreOf t l).flight = (coreOf s l).flight) ∧
        CoresBut s t l ∧ t = { s with cores := t.cores })

/-! ### Arrays, pipelines and Spar -/

/-- R82, R105, R141, R246: a passing verdict of an array's last fed row records that the banks may swap, one of an earlier row or
of a tile whose prediction missed changes nothing, and a pipeline's banks swap to the next fed block while they run at most one block
ahead of the verdicts; the wait of the feed is counted. -/
def Sys2Proof.Slice0.PassingVerdictsLetBanksSwap : Prop :=
  ∀ (s : State) (l : Core) (row : Nat) (e : Option Nat) (r : TileRun), (coreOf s l).moving = false → r.verdict = false → row ≤ r.lastRow →
    ((coreOf s l).reed = some r → r.rung < 4 →
      (r.miss = none → ∃ t, exec (.reedVerdict l row true e) s = .next t ∧ t = { s with cores := t.cores } ∧ CoresBut s t l ∧
        coreOf t l = { coreOf s l with reed := some { r with verdict := decide (row = r.lastRow) } }) ∧
      (r.miss ≠ none → exec (.reedVerdict l row true e) s = .next s)) ∧
    ((coreOf s l).slate = some r → r.waiting = false →
      ∃ t, exec (.slateVerdict l row true e) s = .next t ∧ t = { s with cores := t.cores } ∧ CoresBut s t l ∧
        coreOf t l = { coreOf s l with slate := some { r with verdict := decide (row = r.lastRow) } }) ∧
    (∀ (q : Pipe) (waits : Nat) (x : QRun), s.kv.runs.find? (fun y => y.pipe == q.val) = some x → x.sampling = false →
      x.swaps < x.fed.length → x.swaps ≤ x.pos + 1 →
      ∃ t, exec (.quinceBankSwap q waits) s = .next t ∧
        t.kv.runs.find? (fun y => y.pipe == q.val) = some { x with swaps := x.swaps + 1 } ∧
        (waits ≠ 0 → reg t (Obj.quinceLoadWait + q.val) = (reg s (Obj.quinceLoadWait + q.val) + waits) % 2 ^ 64) ∧
        RegsBut s t (if waits = 0 then [] else [Obj.quinceLoadWait + q.val]) ∧
        t = { s with kv := { s.kv with runs := t.kv.runs }, regs := t.regs })

/-- R106, R138, R141, R258: a failing verdict abandons the tile, counts a residue error and a repeat, and reports the transient
fault of code 0x04; the tile runs again from its first row, and borrowed work counts the ac it used. A second failure is a hard core
fault and is not a repeat. -/
def Sys2Proof.Slice0.FailingVerdictsRepeatTheTile : Prop :=
  ∀ (s : State) (l : Core) (row : Nat) (e : Option Nat) (r : TileRun), (coreOf s l).moving = false → r.verdict = false → row ≤ r.lastRow →
    ((coreOf s l).reed = some r → r.rung < 4 →
      let u := reportFault (bump (bump s (Obj.reedResidueErr + l.val) 1) (Obj.reedTileRepeat + l.val) 1) 0x04 0 0 0 l.die.val l.val
      reg u (Obj.reedResidueErr + l.val) = (reg s (Obj.reedResidueErr + l.val) + 1) % 2 ^ 32 ∧
      reg u (Obj.reedTileRepeat + l.val) = (reg s (Obj.reedTileRepeat + l.val) + 1) % 2 ^ 32 ∧
      (r.fails = 0 →
        (∀ ds, loadSplits u l (prodBlock u l r.word) = .ok ds → exec (.reedVerdict l row false e) s =
          .next (projectEnd (reedExecute u l (prodBlock u l r.word) ds { r with fails := 1, miss := none }) l e)) ∧
        (∀ x, loadSplits u l (prodBlock u l r.word) = .error x → exec (.reedVerdict l row false e) s =
          .next (descFault (modCore u l fun c => { c with reed := none }) l .reed r.idx x))) ∧
      (1 ≤ r.fails → exec (.reedVerdict l row false e) s =
        .next (projectEnd (retireCore (bump s (Obj.reedResidueErr + l.val) 1) l) l e))) ∧
    ((coreOf s l).slate = some r → r.waiting = false →
      let u := countBorrow (bump s (Obj.slateResidueErr + l.val) 1) l r (some row)
      reg u (Obj.slateResidueErr + l.val) = (reg s (Obj.slateResidueErr + l.val) + 1) % 2 ^ 32 ∧
      (r.fails = 0 → exec (.slateVerdict l row false e) s = .next (projectEnd (slateRepeat (reportFault
        (bump u (Obj.slateTileRepeat + l.val) (abandonedTiles r)) 0x04 0 0 0 l.die.val l.val) l { r with fails := 1 }) l e)) ∧
      (1 ≤ r.fails → exec (.slateVerdict l row false e) s = .next (projectEnd (retireCore u l) l e))) ∧
    (∀ (q : Pipe) (x : QRun), s.kv.runs.find? (fun y => y.pipe == q.val) = some x → x.core = l.val → x.sampling = false →
      x.pos < x.swaps → x.fails = 0 →
      ∃ t, (∀ e', exec (.quinceVerdict q false e') s = .next (projectEnd t l e')) ∧ projectEnd t l none = t ∧
        reg t (Obj.quinceResidueErr + q.val) = (reg s (Obj.quinceResidueErr + q.val) + 1) % 2 ^ 32 ∧
        reg t (Obj.quinceRepeat + q.val) = (reg s (Obj.quinceRepeat + q.val) + 1) % 2 ^ 32 ∧
        t.kv.runs.find? (fun y => y.pipe == q.val) = some { x with swaps := x.pos, fails := 1 } ∧ t.mem = s.mem)

/-- The parts above: verdicts that pass let banks swap, and verdicts that fail repeat the tile. -/
def Obligations.VerdictsPassOrRepeat : Prop :=
  Sys2Proof.Slice0.PassingVerdictsLetBanksSwap ∧ Sys2Proof.Slice0.FailingVerdictsRepeatTheTile

/-- R82, R104, R108, R117, R136, R138, R168, R250: a bank swap with every condition met finishes the tile; a missed prediction
abandons the tile, moves both counters, and feeds it again with skipping off; between operations a waiting fallback repeat runs first
on Slate, then a ready own operation, then one shadow-check tile, and a discarded load is counted; a block whose verdicts pass is
committed and counted, and the last one ends the operation. -/
def Obligations.TilesFinishAndFollow : Prop :=
  ∀ (s : State) (l : Core) (e : Option Nat),
    (∀ r held, (coreOf s l).reed = some r → r.verdict = true → r.miss = none → r.rung < 4 → (coreOf s l).moving = false →
      shadowReady s l r = true →
      let u := reedFinish (bumpIf s (held != 0 && hasHip s l r.word) (Obj.reedHipStall + l.val) held) l r false
      exec (.reedBankSwap ⟨l, e⟩ held) s = .next (if r.staged || (coreOf u l).reed.any TileRun.staged then sparDelay u l e
        else projectEnd u l e)) ∧
    (∀ r, (coreOf s l).slate = some r → r.verdict = true → r.waiting = false → (coreOf s l).moving = false →
      exec (.slateBankSwap ⟨l, e⟩) s = .next (projectEnd (slateFinish s l r) l e) ∧
      reg (bump s (Obj.slateTiles + l.val) (abandonedTiles r)) (Obj.slateTiles + l.val) =
        (reg s (Obj.slateTiles + l.val) + abandonedTiles r) % 2 ^ 64) ∧
    (∀ r m, (coreOf s l).reed = some r → r.miss = some m →
      let u := bump (bump s (Obj.reedSkipMiss + l.val) 1) (Obj.reedTileRepeat + l.val) 1
      reg u (Obj.reedSkipMiss + l.val) = (reg s (Obj.reedSkipMiss + l.val) + 1) % 2 ^ 32 ∧
      reg u (Obj.reedTileRepeat + l.val) = (reg s (Obj.reedTileRepeat + l.val) + 1) % 2 ^ 32 ∧
      ∀ ds, loadSplits u l (prodBlock u l r.word) = .ok ds →
        exec (.skipMiss l e) s =
          .next (projectEnd (reedExecute u l (prodBlock u l r.word) ds { r with skip := false, miss := none }) l e)) ∧
    (∀ r rest loaded, (coreOf s l).slate = none → (coreOf s l).moving = false → (coreOf s l).repeats = r :: rest →
      let u := if loaded then bump s (Obj.slateReload + l.val) 1 else s
      exec (.slateBorrowIssue ⟨l, e⟩ loaded) s = .next (sparDelay (repeatExecute (modCore u l
        fun c => { c with repeats := rest }) l { r with borrowed := 1 }) l e)) ∧
    (∀ i x loaded, (coreOf s l).slate = none → (coreOf s l).moving = false → (coreOf s l).repeats = [] →
      ownSlateReady s l = false → nextSample s l = some i → s.num.samples[i]? = some x →
      let u := if loaded then bump s (Obj.slateReload + l.val) 1 else s
      exec (.slateBorrowIssue ⟨l, e⟩ loaded) s = .next (projectEnd (shadowExecute u l
        { idx := i, word := 0#256, tile := x.ran, borrowed := 2 }) l e)) ∧
    ((coreOf s l).repeats = [] → ownSlateReady s l = true → ∀ loaded, exec (.slateBorrowIssue ⟨l, e⟩ loaded) s = .next s) ∧
    (∀ (q : Pipe) (x : QRun) (a : AttnOp), s.kv.runs.find? (fun y => y.pipe == q.val) = some x → x.core = l.val →
      x.sampling = false → x.pos < x.swaps → loadAttn s l x.word = .ok a →
      let c := commitBlock s a x
      c.2.pos = x.pos + 1 ∧ c.2.fails = 0 ∧
      exec (.quinceVerdict q true e) s = .next (if x.fed.length ≤ x.pos + 1
        then finishAttn (modRun c.1 q.val fun _ => c.2) l a c.2 else modRun c.1 q.val fun _ => c.2))

/-- R109 to R111, R142, R261, R318, R319, R519: in a window the fed activity moves by at most the array's allowance, keeps to the
activity cap where the allowance lets it, and straw is counted when it was fed; a delay of real rows takes the core's projected end.
After 3,200 ac without a real row the array ramps down, and stops at 0; the core's clock stops when nothing holds it. 3.2 µs before an
unissued phase open of the window the clock runs and the core's arrays, and the pipelines it is to use, ramp up. -/
def Obligations.ActivityMovesWithinItsAllowance : Prop :=
  (∀ (s : State) (u : ArrayUnit) (real straw : Nat), (actOf s u).on = true ∨ 0 < real →
    let a := actOf s u
    let cap := actUnit * s.power.cap
    let r := min real fullActivity
    ∃ t, (∀ e, exec (.activityWindow ⟨u, e⟩ real straw) s = .next (match actCore s u with
        | some l => if (actOf t u).last < r then projectEnd t l e else t
        | none => t)) ∧
      (actOf t u).last = windowActivity a.last (a.target r cap) (slewOf s u) cap ∧
      a.last - slewOf s u ≤ (actOf t u).last ∧ (actOf t u).last ≤ a.last + slewOf s u ∧
      (a.last - slewOf s u ≤ cap → (actOf t u).last ≤ cap) ∧
      (a.up = false → (actOf t u).last ≤ max (a.last - slewOf s u) r) ∧
      ((actOf t u).on = false ↔ a.down = true ∧ real = 0 ∧ (actOf t u).last = 0) ∧
      ((actOf t u).last > r → reg t (strawKey u) = (reg s (strawKey u) + min 80 (max straw 1)) % 2 ^ 64) ∧
      ((actOf t u).last ≤ r → reg t (strawKey u) =
        if strawDue s u = true ∧ straw ≠ 0 then (reg s (strawKey u) + min 80 straw) % 2 ^ 64 else reg s (strawKey u)) ∧
      RegsBut s t [strawKey u] ∧ t.mem = s.mem ∧ t.kv = s.kv ∧ t.num = s.num) ∧
  (∀ (s : State) (u : ArrayUnit), (actOf s u).on = true → elapsed s (actOf s u).idleSince 4000 = true →
    ∃ t, exec (.arrayRampDown u) s = .next t ∧ (actOf t u).last = (actOf s u).last ∧ (actOf t u).up = false ∧
      (actOf t u).down = decide ((actOf s u).last ≠ 0) ∧ (actOf t u).on = decide ((actOf s u).last ≠ 0) ∧
      t.regs = s.regs ∧ t.mem = s.mem) ∧
  (∀ (s : State) (l : Core), s.pending = [] → s.clk % 2 = 1 → (coreOf s l).reedAct.on = false → (coreOf s l).slateAct.on = false →
    (coreOf s l).flight = [] → someUnheld { s with clk := s.clk + 1 } l = false →
    ∃ t, step s = .next t ∧ (coreOf t l).clockOn = false) ∧
  (∀ (s : State) (l : Core) (i : Nat) (w : BitVec 256), executing s = true → i < 32 →
    streamWord s l ((coreOf s l).base + i) = some w → isMark w = true → opImm w 3 0 = 0 →
    issuedAt (coreOf s l) ((coreOf s l).base + i) = false → currentStart s (markPhase w) ≤ ptpNow s + 3200 →
    ∃ t, (∀ e, exec (.wakeTimer ⟨l, e⟩) s = .next (projectEnd t l e)) ∧ projectEnd t l none = t ∧ CoresBut s t l ∧
      coreOf t l = { coreOf s l with clockOn := true, reedAct := (coreOf s l).reedAct.wake s.clk
                                     slateAct := (coreOf s l).slateAct.wake s.clk } ∧
      (∀ q : Pipe, actOf t (.quince q) = if attnAhead s l = true ∧ q.val / 8 = l.die.val ∧ pipeUp s q.val = true
        then (actOf s (.quince q)).wake s.clk else actOf s (.quince q)) ∧
      t = { s with cores := t.cores, power := { s.power with pipeActs := t.power.pipeActs } })

/-- R107, R410, R411, R429: a switch gives the host to the waiting core, empties both cores' caches and windows, moves the local
SRAMs through the swap areas and counts; a move that ends lets the core run again, switched out when its new host runs another
core, and a forward tile abandoned at the second failure runs from its first row, which counts as a repeat. -/
def Obligations.CoresSwitchAndMove : Prop :=
  ∀ (s : State) (l : Core),
    (∀ r, hostPartner s l = some r → r ≠ l → (coreOf s l).switchedOut = true → (coreOf s r).moving = false →
      (coreOf s l).moving = false → (coreOf s r).flight = [] → (coreOf s r).guards = [] → someReady s l = true →
      (anyIssue s r = false ∨ elapsed s (coreOf s r).switchedIn 500000 = true) →
      ∃ t, (∀ e, exec (.tsSwitch ⟨l, e⟩) s = .next (projectEnd t l e)) ∧ projectEnd t l none = t ∧ (coreOf t l).switchedOut = false ∧ (coreOf t r).switchedOut = true ∧
        (coreOf t l).switchedIn = s.clk ∧ (coreOf t l).lines = [] ∧ (coreOf t r).lines = [] ∧ (coreOf t l).windows = [] ∧
        (coreOf t r).windows = [] ∧ reg t (Obj.tsSwitches + l.val) = (reg s (Obj.tsSwitches + l.val) + 1) % 2 ^ 32 ∧
        (coreOf t l).tokens = (coreOf s l).tokens ∧ (coreOf t r).tokens = (coreOf s r).tokens ∧
        t.mem = (copyMem (copyMem s (sramAddr r) (s.job.swapAreas.getD r.val 0) sramSize)
          (s.job.swapAreas.getD l.val 0) (sramAddr l) sramSize).mem) ∧
    ((coreOf s l).moving = true → (coreOf s l).halted = false →
      (∀ r, (coreOf s l).reed = some r → r.fails = 0 ∨ r.verdict = true ∨ 4 ≤ r.rung) →
      (∀ r, (coreOf s l).slate = some r → r.fails = 0 ∨ r.verdict = true) →
      ∃ t, exec (.coreMoveDone l) s = .next t ∧ (coreOf t l).moving = false ∧ (coreOf t l).clockOn = true ∧
        (coreOf t l).switchedOut = decide (1 < (hosted s (reg s (Obj.logicalCoreMap + l.val))).length) ∧
        (coreOf t l).tokens = (coreOf s l).tokens ∧
        t.mem = (copyMem s (sramAddr l) (s.job.swapAreas.getD l.val 0) sramSize).mem) ∧
    (∀ r, (coreOf s l).moving = true → (coreOf s l).halted = false → (coreOf s l).reed = some r → 1 ≤ r.fails →
      r.verdict = false → r.rung < 4 → (coreOf s l).slate = none →
      let u := bump (modCore (copyMem s (sramAddr l) (s.job.swapAreas.getD l.val 0) sramSize) l fun c => { c with
        moving := false, clockOn := true
        switchedOut := decide (1 < (hosted s (reg s (Obj.logicalCoreMap + l.val))).length) }) (Obj.reedTileRepeat + l.val) 1
      ∀ ds, loadSplits u l (prodBlock u l r.word) = .ok ds →
        exec (.coreMoveDone l) s = .next (reedExecute (modCore u l fun c => { c with reedActive := none, reedShadow := none }) l
          (prodBlock u l r.word) ds { r with fails := 0, miss := none }))

/-- R162 to R166, R168, R173, R233, R428: a conversion tile without a trigger is accepted and the next one starts, one with a trigger
converts again at a higher rung; a compared shadow sample counts once, with its disagreement; an engine's or a Sloe lane's first failed check counts and is
remembered, and a check that passes forgets it. -/
def Sys2Proof.Slice0.ChecksAcceptRepeatAndCount : Prop :=
  ∀ (s : State),
    (∀ (l : Core) (idx k layer mb : Nat) (e : Option Nat) (t : ConvTile) (c : ConvSpec),
      (s.num.tiles.filter fun t => t.core == l.val && t.op == idx)[k]? = some t → convSpec s l idx t.word = .ok c →
      t.started = true → t.layer = some (layer, mb) →
      let base := ((trackerAt s c.cluster c.tracker).bind fun y => Format.ofCode y.format).getD .b4
      let x := sparTest s t
      (x.next = 0 → exec (.sparPassTest l idx k e) s = .next (startNext (sparAccept s l c base t) l idx e c)) ∧
      (x.next ≠ 0 → t.rung < x.next ∧
        exec (.sparPassTest l idx k e) s = .next (sparDelay (sparRepeat s l c base t x layer mb) l e))) ∧
    (∀ (i : Nat) (x : Sample) n h, s.num.samples[i]? = some x → x.narrow = some n → x.shadow = some h → x.compared = false →
      x.shadowDone = true →
      let bad := disagrees (BitVec.ofNat 32 (reg s Obj.shadowTol)) n h
      ∃ t, exec (.shadowCompare i) s = .next t ∧ reg t Obj.shadowRun = (reg s Obj.shadowRun + 1) % 2 ^ 64 ∧
        reg t Obj.shadowDisagree = (if bad then (reg s Obj.shadowDisagree + 1) % 2 ^ 32 else reg s Obj.shadowDisagree) ∧
        t.num.samples = s.num.samples.modify i (fun y => { y with compared := true, disagree := bad }) ∧
        RegsBut s t [Obj.shadowRun, Obj.shadowDisagree] ∧ t = { s with num := t.num, regs := t.regs }) ∧
    (∀ (d : Die) (k : EngineKind),
      (∃ t, exec (.engineCheck d k true) s = .next t ∧ t.regs = s.regs ∧ engineId d k ∉ t.ras.engineFails ∧
        t = { s with ras := { s.ras with engineFails := t.ras.engineFails } }) ∧
      (engineId d k ∉ s.ras.engineFails → ∃ t, exec (.engineCheck d k false) s = .next t ∧
        engineId d k ∈ t.ras.engineFails ∧ reg t (Obj.engineCheckErr + d.val) = (reg s (Obj.engineCheckErr + d.val) + 1) % 2 ^ 32 ∧
        t.dev = s.dev ∧ t.mem = s.mem)) ∧
    (∀ (d : Die) (lane : Fin 1024), bitOf (reg s (Obj.sloeLaneMap + d.val)) lane.val = false →
      (∃ t, exec (.sloeEvaluation d lane true) s = .next t ∧ t.regs = s.regs ∧ d.val * 1024 + lane.val ∉ t.ras.laneFails ∧
        t = { s with ras := { s.ras with laneFails := t.ras.laneFails } }) ∧
      (d.val * 1024 + lane.val ∉ s.ras.laneFails → ∃ t, exec (.sloeEvaluation d lane false) s = .next t ∧
        d.val * 1024 + lane.val ∈ t.ras.laneFails ∧
        reg t (Obj.sloeCheckErr + d.val) = (reg s (Obj.sloeCheckErr + d.val) + 1) % 2 ^ 32 ∧
        RegsBut s t [Obj.sloeCheckErr + d.val] ∧ t = { s with ras := t.ras, regs := t.regs }))

/-- R233, R428: a second failed check of the same engine or lane takes it out of service: a lane's bit is set and the lanes in
service are one fewer, a copy engine reads as removed, and for any other engine the module goes FAULTED. -/
def Sys2Proof.Slice0.SecondFailureRemovesTheUnit : Prop :=
  ∀ (s : State) (d : Die),
    (∀ lane : Fin 1024, bitOf (reg s (Obj.sloeLaneMap + d.val)) lane.val = false → d.val * 1024 + lane.val ∈ s.ras.laneFails →
      ∃ t, exec (.sloeEvaluation d lane false) s = .next t ∧
        reg t (Obj.sloeLaneMap + d.val) = reg s (Obj.sloeLaneMap + d.val) + 2 ^ lane.val ∧
        d.val * 1024 + lane.val ∉ t.ras.laneFails ∧ t.mem = s.mem ∧ t.dev = s.dev) ∧
    (∀ g : Fin 4, engineId d (.gutter g) ∈ s.ras.engineFails →
      ∃ t, exec (.engineCheck d (.gutter g) false) s = .next t ∧ reg t (Obj.gutterState + 4 * d.val + g.val) = 1 ∧
        t.dev = s.dev ∧ t.mem = s.mem) ∧
    (∀ k : EngineKind, (∀ g, k ≠ .gutter g) → engineId d k ∈ s.ras.engineFails →
      ∃ t, exec (.engineCheck d k false) s = .next t ∧ t.dev = .faulted)

/-- The parts above: checks accept, repeat and count, and a second failure removes the unit. -/
def Obligations.ChecksCountAndRemoveUnits : Prop :=
  Sys2Proof.Slice0.ChecksAcceptRepeatAndCount ∧ Sys2Proof.Slice0.SecondFailureRemovesTheUnit

/-! ### The step boundary, its pauses and securing -/

/-- R28, R30, R395, R421: the boundary opens once the closing marks have retired and nothing is under way; while shards of the next
step are missing or not written it is held, with one pause in host-assisted mode; else admission closes and the boundary goes on. A
pause that waits holds everything that follows it. -/
def Sys2Proof.Slice0.BoundaryWaitsForItsConditions : Prop :=
  ∀ (s : State) (plan : List (Nat × Nat)),
    ((executing s = false ∨ s.job.stage ≠ 0 ∨ workDone s = false) → exec (.stepBoundary plan) s = .next s) ∧
    (executing s = true → s.job.stage = 0 → workDone s = true → shardsReady s = false →
      ∃ t, exec (.stepBoundary plan) s = .next t ∧ t.job = { s.job with held := true } ∧
        t = { s with job := t.job, dunrel := t.dunrel, sent := t.sent, egress := t.egress, regs := t.regs } ∧
        (hostMode s 0xA01A = false ∨ replayed s = true ∨ (∃ p ∈ s.dunrel.pauses, p.selector = 0xA01A ∧ p.step = s.job.step) →
          t = { s with job := t.job }) ∧
        (hostMode s 0xA01A = true → replayed s = false → (∀ p ∈ s.dunrel.pauses, p.selector ≠ 0xA01A ∨ p.step ≠ s.job.step) →
          (pauseSlot s).isSome = true → (fetchReport s).length ≤ reportMax →
          ∃ p ∈ t.dunrel.pauses, p.state = .waiting ∧ p.selector = 0xA01A ∧ p.step = s.job.step ∧
            p.deadline = ptpNow s + reg s (timeoutKey 0xA01A) ∧ p.report = fetchReport s)) ∧
    (executing s = true → s.job.stage = 0 → workDone s = true → shardsReady s = true →
      exec (.stepBoundary plan) s = .next (advanceBoundary (openBoundary s plan)) ∧
      (openBoundary s plan).job.stage = 1 ∧ (openBoundary s plan).job.plan = plan ∧
      (openBoundary s plan).net.admitClosed = true ∧
      (boundaryHeld (openBoundary s plan) = true → exec (.stepBoundary plan) s = .next (openBoundary s plan)))

/-- R435, R28, R177: the buddy's acknowledgement makes the oldest entry that waits count as written. The commits of a boundary whose
record is written wait for the last entry, the decisions of its pauses among them, and for no pause, and follow at once; entries that
find no room have the boundary secure first (log 134: DESIGN CHOICE). -/
def Sys2Proof.Slice0.LogAcknowledgementsReleaseTheBoundary : Prop :=
  ∀ (s : State) (pre post : List LogEntry) (e : LogEntry), s.recov.log = pre ++ e :: post → (∀ x ∈ pre, x.acked = true) →
    e.acked = false →
    let u := { s with recov := { s.recov with log := pre ++ { e with acked := true } :: post } }
    exec .logEntryAck s = .next (advanceBoundary u) ∧
    (s.job.stage = 0 ∨ boundaryHeld s = true → exec .logEntryAck s = .next u) ∧
    (s.job.stage = 2 → boundaryHeld s = false →
      let v := logDecisions u
      ((∀ k ∈ [0xA010, 0xA017, 0xA013], decisionNow u k = none ∨ decisionLogged u k = true) → v = u) ∧
      (logWritten v = true → exec .logEntryAck s = .next (commitBoundary v)) ∧
      (logWritten v = false → v.recov.waiting = [] ∨ v.recov.securing.isSome = true → exec .logEntryAck s = .next v) ∧
      (v.recov.waiting ≠ [] → v.recov.securing = none → exec .logEntryAck s = .next (secureHeld v) ∧
        (secureHeld v).recov.securing.isSome = true ∧ (secureHeld v).job = v.job))

/-- The parts above: a step boundary waits for its conditions, and log acknowledgements release it. -/
def Obligations.BoundariesWaitAndAreReleased : Prop :=
  Sys2Proof.Slice0.BoundaryWaitsForItsConditions ∧ Sys2Proof.Slice0.LogAcknowledgementsReleaseTheBoundary

/-- R190, R203, R207: the flip: the FILLING slot becomes CURRENT with the next version and the old CURRENT one HELD or FREE, and no other
slot or register changes. A step that has marked no slot takes the lowest FREE one (log 82: DEDUCED). -/
def Obligations.FlipMakesTheFillingSlotCurrent : Prop :=
  (∀ (s : State) (i : Nat), s.num.slots.findIdx? (fun x => x.state == .filling) = some i →
    reg (flip s) Obj.versionCurrent = reg s Obj.versionCurrent + 1 ∧
    (∀ j x, s.num.slots[j]? = some x → (flip s).num.slots[j]? = some
      (if j = i then { x with state := .current, version := reg s Obj.versionCurrent + 1 }
       else if x.state = .current then { x with state := if 0 < x.refs then .held else .free } else x)) ∧
    (flip s).num.slots.length = s.num.slots.length ∧ RegsBut s (flip s) [Obj.versionCurrent] ∧
    flip s = { s with num := { s.num with slots := (flip s).num.slots }, regs := (flip s).regs }) ∧
  ∀ (s : State), (∀ x ∈ s.num.slots, x.state ≠ .filling) →
    (∀ i, s.num.slots.findIdx? (fun x => x.state == .free) = some i →
      reg (flip s) Obj.versionCurrent = reg s Obj.versionCurrent + 1 ∧ RegsBut s (flip s) [Obj.versionCurrent] ∧
      (∀ j x, s.num.slots[j]? = some x → (flip s).num.slots[j]? = some
        (if j = i then { x with state := .current, refs := 0, version := reg s Obj.versionCurrent + 1 }
         else if x.state = .current then { x with state := if 0 < x.refs then .held else .free } else x)) ∧
      flip s = { s with num := { s.num with slots := (flip s).num.slots }, regs := (flip s).regs }) ∧
    ((∀ x ∈ s.num.slots, x.state ≠ .free) → flip s = s)

/-- R476: a pause whose deadline has come with no decision reads as timed out and its function's timeout action applies; before the
deadline, and for a pause that does not wait, nothing happens. The thermal response then runs in hardware; a function that holds a
boundary which another pause still holds changes nothing else. -/
def Sys2Proof.Slice0.PauseTimeoutsApplyTheirAction : Prop :=
  ∀ (s : State) (id : Nat) (p : Pause), s.dunrel.pauses.find? (fun q => q.id == id) = some p →
    let u := { s with dunrel := { s.dunrel with pauses := s.dunrel.pauses.map fun q => if q.id = p.id then { q with state := .timedOut } else q } }
    (p.state ≠ .waiting ∨ ptpNow s < p.deadline → exec (.pauseTimeout id) s = .next s) ∧
    (p.state = .waiting → p.deadline ≤ ptpNow s →
      exec (.pauseTimeout id) s = .next (timeoutAction u p) ∧
      (p.selector = 0xA01B → timeoutAction u p = { u with power := { s.power with hwResponse := true } }) ∧
      (atBoundary p.selector = true → boundaryHeld u = true → timeoutAction u p = u))

/-- R314, R476, R477: DECIDE from OWNER and above, in one segment, for a pause that waits. A decision within the function's limits is
answered with OK, STATE reads 2 and the function proceeds; one outside them is answered with its code and the timeout action
applies. A decision in the cycle of the deadline is accepted and counted. After the deadline the answer is E_TIMEOUT; a
pause that is not waiting, or another selector, is answered with E_STATE. -/
def Sys2Proof.Slice0.DecisionsEndTheirPauses : Prop :=
  ∀ (s : State) (m : DReq) (x : Session) (p : Pause), m.type = 9 → s.dunrel.sessions[m.sess] = some x → 3 ≤ x.level → m.ver = 1 →
    m.lenOk = true → m.payload.length ≤ segMax s → (∀ k ∈ x.kept, k.1 ≠ m.reqId) →
    s.dunrel.pauses.find? (fun q => q.id == m.element) = some p →
    let r := modSess s m.sess fun y => { y with last := s.clk }
    (p.state = .waiting → p.selector = m.index → ptpNow s ≤ p.deadline → m.offset = 0 → m.more = false →
      m.total = m.payload.length →
      let u := if p.deadline = ptpNow s then lateAccept r 2 else r
      (checkDecision u p.selector m.payload = eOK → exec (.decide m) s = .next (reply (applyDecision
        (modPause u p.id fun q => { q with state := .decided, decision := [(0, m.payload)] }) p m.payload) m eOK)) ∧
      (checkDecision u p.selector m.payload ≠ eOK → exec (.decide m) s = .next (reply (timeoutAction
        (modPause u p.id fun q => { q with state := .timedOut }) p) m (checkDecision u p.selector m.payload)))) ∧
    (p.state = .timedOut ∨ (p.state = .waiting ∧ p.deadline < ptpNow s) → exec (.decide m) s = .next (reply r m eTIMEOUT)) ∧
    (p.state = .decided ∨ (p.state = .waiting ∧ ptpNow s ≤ p.deadline ∧ p.selector ≠ m.index) →
      exec (.decide m) s = .next (reply r m eSTATE))

/-- The parts above: a decision ends its pause, and a timeout applies the pause's own action. -/
def Obligations.PausesEndByDecisionOrTimeout : Prop :=
  Sys2Proof.Slice0.PauseTimeoutsApplyTheirAction ∧ Sys2Proof.Slice0.DecisionsEndTheirPauses

/-- R436 to R439, R435, R561: a capture that ends makes the local image whole and sends the image to the buddy; the buddy's
acknowledgement commits the generation, and the log before the older generation is freed. A module alone commits with its
capture and streams nothing. A boundary that waits for room in the log goes on. -/
def Obligations.SecuringCapturesAndCommits : Prop :=
  ∀ (s : State) (x : Securing), s.recov.securing = some x →
    let stored := writeBytes s s.recov.localBase (imageOf s x.gen x.content none)
    let out := imageOf s x.gen x.content s.recov.streamed
    (x.captured = true ∨ saveWaits s = true → ∀ e, exec (.secureCaptureDone e) s = .next s) ∧
    (x.captured = false → exec .secureCommit s = .next s) ∧
    (x.captured = false → saveWaits s = false → ∀ e, exec (.secureCaptureDone e) s = .next (advanceBoundary (endCapture s x e))) ∧
    (x.captured = true → exec .secureCommit s = .next (advanceBoundary (commitSecuring s x))) ∧
    (x.captured = false → saveWaits s = false → 1 < reg s Obj.jobModules → s.job.stage = 0 →
      ∃ t, exec (.secureCaptureDone none) s = .next t ∧ t.mem = stored.mem ∧ t.recov.localWhole = true ∧
        t.recov.localDone = x.gen ∧ t.recov.securing = some { x with captured := true } ∧
        reg t Obj.localImageStep = x.gen ∧ reg t Obj.imageDigest = ofLE (sha256 x.content) ∧
        reg t Obj.secureRawBytes = x.content.length ∧ reg t Obj.secureStreamBytes = out.length ∧
        OutMsg.buddy (reg s Obj.buddyRank) (0#8 :: out) ∈ t.sent) ∧
    (x.captured = false → saveWaits s = false → reg s Obj.jobModules ≤ 1 → s.recov.waiting = [] → s.job.stage = 0 →
      ∃ t, exec (.secureCaptureDone none) s = .next t ∧ t.mem = stored.mem ∧ t.recov.localWhole = true ∧
        t.recov.securing = none ∧ reg t Obj.secureStreamBytes = 0 ∧
        (s.recov.reported ≠ some x.gen → reg t Obj.securedStep = x.gen)) ∧
    (x.captured = true → s.recov.waiting = [] → s.job.stage = 0 →
      ∃ t, exec .secureCommit s = .next t ∧ t.mem = s.mem ∧ t.recov.securing = none ∧
        t.recov.streamed = some { step := x.gen, rank := ownRank s, content := x.content } ∧
        reg t Obj.secureTime = (s.clk - x.since) * 5 / 8 ∧
        t.recov.log = s.recov.log.filter (fun e => decide
          ((if reg s Obj.jobModules ≤ 1 then x.gen else (s.recov.streamed.map Gen.step).getD 0) ≤ e.step)))

/-! ### Recovery -/

namespace Sys2Proof.Slice0
open Sys2Proof.Machine

/-- The first message of the inbox that satisfies a condition, and the state without it. -/
def Takes (s : State) (p : InMsg → Bool) (m : InMsg) (u : State) : Prop :=
  ∃ pre post, s.net.inbox = pre ++ m :: post ∧ (∀ x ∈ pre, p x = false) ∧ p m = true ∧
    u = { s with net := { s.net with inbox := pre ++ post } }

/-- The first recovery control message of an operation, and the state without it. -/
def TakesRec (s : State) (op : Nat) (m : RecMsg) (u : State) : Prop :=
  ∃ x, Takes s (fun y => y.kind == 6 && byteAt y.bytes 0 == op) x u ∧ m = parseRec x.bytes

/-- Every logical core has nothing issued, in flight or asked of memory, and no token set. -/
def CoresIdle (t : State) : Prop :=
  ∀ l : Core, (coreOf t l).tokens = 0#256 ∧ (coreOf t l).base = 0 ∧ (coreOf t l).flight = [] ∧ (coreOf t l).slots = [] ∧
    (coreOf t l).reqs = []

end Sys2Proof.Slice0

/-- R10, R385, R443 step 1: ROLLBACK stops the module and it enters RECOVERING with the next JOB_EPOCH; waiting transactions end,
and the generation is restored from the local image when that is whole and of it, else from the buddy. A module that runs no job
takes the message and does nothing. -/
def Sys2Proof.Slice0.RollbackEntersRecovering : Prop :=
  ∀ (s u : State) (m : RecMsg), TakesRec s 1 m u →
    (s.dev ≠ .running → s.dev ≠ .recovering → exec .rollback s = .next u) ∧
    (s.dev = .running ∨ s.dev = .recovering →
      1 < reg s Obj.jobModules ∨ (s.recov.localWhole = true ∧ reg s Obj.localImageStep = m.step) →
      ∃ t, exec .rollback s = .next t ∧ t.dev = .recovering ∧ t.mode = s.mode ∧ t.mem = s.mem ∧ CoresIdle t ∧
        reg t Obj.jobEpoch = (reg s Obj.jobEpoch + 1) % 2 ^ 16 ∧ reg t Obj.shiftTotal = 0 ∧ t.net.colls = [] ∧
        t.recov.replaying = false ∧ t.recov.replayStep = m.step + 1 ∧ t.recov.securing = none ∧
        (s.dev = .running → ∀ x ∈ t.dunrel.txns, x.waits = false) ∧
        (if s.recov.localWhole = true ∧ reg s Obj.localImageStep = m.step then t.recov.restoring = some m.step
         else t.recov.restoring = none ∧ t.recov.fromBuddy = some m.step))

/-- R427, R443: the local image that matches its digest and the target is restored and RESTORED goes up; one that does not is fault
code 0x12, counted, and the module no longer restores. -/
def Sys2Proof.Slice0.RestoresCheckTheirDigest : Prop :=
  ∀ (s : State) (g : Nat), s.recov.restoring = some g →
    ((localImage s).2 = true → (localImage s).1.step = g →
      exec .restoreComplete s = .next (finishRestore s (localImage s).1)) ∧
    ((localImage s).2 = false ∨ (localImage s).1.step ≠ g →
      ∃ t, exec .restoreComplete s = .next t ∧ t.recov.restoring = none ∧ t.recov.fromBuddy = none ∧ t.mem = s.mem ∧
        t.dev = s.dev ∧ reg t (Obj.faultCount + 0x12) = (reg s (Obj.faultCount + 0x12) + 1) % 2 ^ 32)

/-- R443 step 3, R452: a buddy that holds the generation streams its log and its image; one that does not answers with E_RANGE, which
is a failed restore (code 0x12) for the module that asked. -/
def Sys2Proof.Slice0.ImageRequestsAreAnswered : Prop :=
  ∀ (s u : State) (m : RecMsg), TakesRec s 10 m u →
    (m.code = 0 → (∀ g ∈ s.recov.held, g.step ≠ m.step ∨ g.rank ≠ m.rank) →
      exec .imageReq s = .next (recTo u m.rank { m with code := eRANGE, rank := ownRank s })) ∧
    (m.code = 0 → 1 < reg s Obj.jobModules → ∀ g, s.recov.held.find? (fun g => g.step == m.step && g.rank == m.rank) = some g →
      let log := (s.recov.heldLog.filter fun e => decide (m.step ≤ e.step)).flatMap LogEntry.bytes
      exec .imageReq s = .next
        (send (send u (.buddy m.rank (2#8 :: log))) (.buddy m.rank (0#8 :: genImage s g none)))) ∧
    (m.code ≠ 0 → exec .imageReq s = .next (if s.recov.fromBuddy = some m.step then restoreFault u else u))

/-- R435, R439, R443: log data of the rank whose buddy the module is are kept; an image is restored when the module awaits it and
held when it is another rank's; one that fails its digest changes nothing unless the module awaits it. A log that the buddy returns is
taken by a module that has none. The tags are the model's (log 41). -/
def Sys2Proof.Slice0.BuddyStreamsAreKept : Prop :=
  ∀ (s u : State) (m : InMsg) (b : List Byte), Takes s (fun x => x.kind == 1) m u →
    (m.bytes = 1#8 :: b → exec .buddyStreamRx s =
      .next { u with recov := { s.recov with heldLog := s.recov.heldLog ++ parseLog b.length b } }) ∧
    (m.bytes = 0#8 :: b → exec .buddyStreamRx s = .next (takeImage u b) ∧
      ((decodeImage b s.recov.held).2 = false → s.recov.fromBuddy = none → takeImage u b = u) ∧
      ((decodeImage b s.recov.held).2 = true → s.recov.fromBuddy = none → (decodeImage b s.recov.held).1.rank ≠ ownRank s →
        takeImage u b = holdGen u (decodeImage b s.recov.held).1)) ∧
    (m.bytes = 2#8 :: b → s.recov.log ≠ [] → exec .buddyStreamRx s = .next u)

/-- The parts above: restores check their digest, image requests are answered and buddy streams are kept. -/
def Obligations.ImagesAreRestoredKeptAndServed : Prop :=
  Sys2Proof.Slice0.RestoresCheckTheirDigest ∧ Sys2Proof.Slice0.ImageRequestsAreAnswered ∧ Sys2Proof.Slice0.BuddyStreamsAreKept

/-- R10, R448: HALT stops the schedule: the module is in READY with JOB_MODE IDLE, RECOVERY_FAILS counts, waiting transactions have
ended and nothing is under way; memory stands. A module that runs no job takes the message and does nothing. -/
def Sys2Proof.Slice0.HaltEndsTheJob : Prop :=
  ∀ (s u : State) (m : RecMsg), TakesRec s 7 m u →
    (s.dev ≠ .running → s.dev ≠ .recovering → exec .halt s = .next u) ∧
    (s.dev = .running ∨ s.dev = .recovering →
      ∃ t, exec .halt s = .next t ∧ t.dev = .ready ∧ t.mode = .idle ∧ t.mem = s.mem ∧ CoresIdle t ∧ t.net.colls = [] ∧
        t.net.fetches = [] ∧ t.kv.runs = [] ∧ t.recov.securing = none ∧ (∀ x ∈ t.dunrel.txns, x.waits = false) ∧
        reg t Obj.recoveryFails = (reg s Obj.recoveryFails + 1) % 2 ^ 32)

/-- The parts above: ROLLBACK enters RECOVERING and HALT ends the job. -/
def Obligations.RollbackAndHaltStopTheSchedule : Prop :=
  Sys2Proof.Slice0.RollbackEntersRecovering ∧ Sys2Proof.Slice0.HaltEndsTheJob

/-- R415, R443 step 4: START sets JOB_S0 and JOB_T0 and the module replays from that step; before the module has restored, the message
waits. -/
def Sys2Proof.Slice0.StartBeginsTheReplay : Prop :=
  ∀ (s u : State) (m : RecMsg), TakesRec s 4 m u →
    (s.dev ≠ .recovering → exec .startMsg s = .next u) ∧
    (s.dev = .recovering → (s.recov.restoring.isSome || s.recov.fromBuddy.isSome) = true → exec .startMsg s = .next s) ∧
    (s.dev = .recovering → s.recov.restoring = none → s.recov.fromBuddy = none →
      ∃ t, exec .startMsg s = .next t ∧ t.dev = .recovering ∧ t.mode = s.mode ∧ t.recov.replaying = true ∧
        t.recov.replayStep = m.step ∧ executing t = true ∧ reg t Obj.jobS0 = m.step ∧ reg t Obj.jobT0 = m.t0 ∧
        t.job.step = m.step ∧ t.job.stage = 0 ∧
        ∀ l : Core, (coreOf t l).tokens = 0#256 ∧ (coreOf t l).base = 0 ∧ (coreOf t l).halted = false ∧
          (coreOf t l).closed = false)

/-- R441, R443 step 5: RESUME returns the module to RUNNING, counts the recovery and records its length and the steps lost; memory
and the schedule stand. -/
def Sys2Proof.Slice0.ResumeReturnsToRunning : Prop :=
  ∀ (s u : State) (m : RecMsg), TakesRec s 6 m u →
    (s.dev ≠ .recovering → exec .resume s = .next u) ∧
    (s.dev = .recovering →
      ∃ t, exec .resume s = .next t ∧ t.dev = .running ∧ t.mode = s.mode ∧ t.mem = s.mem ∧ t.cores = s.cores ∧ t.job = s.job ∧
        t.num = s.num ∧ t.kv = s.kv ∧ t.power = { s.power with ownFault := false } ∧ t.recov.replaying = false ∧
        t.recov.target = none ∧ t.recov.lost = [] ∧ t.recov.faults = [] ∧
        reg t Obj.recoveries = (reg s Obj.recoveries + 1) % 2 ^ 32 ∧
        reg t Obj.lastRecovery = (s.clk - s.recov.rollbackAt) * 5 / 8 ∧
        reg t Obj.stepsLost = s.recov.faultStep + 1 - s.recov.replayStep)

/-- The parts above: START begins the replay and RESUME ends the recovery. -/
def Obligations.ReplayBeginsAndEnds : Prop := Sys2Proof.Slice0.StartBeginsTheReplay ∧ Sys2Proof.Slice0.ResumeReturnsToRunning

/-- R443 steps 4 and 5, R445, R448, R452: the coordinator counts RESTORED and REPLAY_RESULT. It sends START when every rank has restored
and RESUME when every result is OK, waits for the others before, and halts the job at the first result that is not OK. A module that
neither coordinates nor relays takes the message and does nothing. -/
def Sys2Proof.Slice0.CoordinatorCountsItsRanks : Prop :=
  ∀ (s u : State) (m : RecMsg),
    (TakesRec s 3 m u → inCharge s = true → s.recov.target = some m.step →
      exec .restored s = .next (if (gather u m).2.1 < reg s Obj.jobModules then (gather u m).1
        else sendDown (gather u m).1 { op := 4, rank := ownRank s, step := m.step + 1, t0 := ptpNow s + reg s Obj.startMargin,
                                       epoch := s.recov.epoch, time := ptpNow s })) ∧
    (TakesRec s 5 m u → inCharge s = true → s.recov.target.map (· + 1) = some m.step →
      exec .replayResult s = .next (if (gather u m).2.2 ≠ 0 then haltAll (gather u m).1 0x11
        else if (gather u m).2.1 < reg s Obj.jobModules then (gather u m).1
        else sendDown (gather u m).1 { op := 6, rank := ownRank s, step := m.step, epoch := s.recov.epoch, time := ptpNow s })) ∧
    ((∀ w ∈ s.recov.ups, w.op ≠ m.op ∨ w.step ≠ m.step) → (gather u m).2 = (m.count, m.code)) ∧
    (inCharge s = false → relaySpan s = 1 → (TakesRec s 3 m u → exec .restored s = .next u) ∧
      (TakesRec s 5 m u → exec .replayResult s = .next u))

/-- R441, R442, R446 to R450: the coordinator answers the first FAULT of an unmasked fault with recovery, halts the job at a replay
mismatch and at a schedule fault that recurs, and notes a fault that the recovery under way answers already. The standby takes over
when the coordinator is lost or by TAKEOVER. -/
def Obligations.FaultsStartRecovery : Prop :=
  ∀ (s u : State) (m : RecMsg),
    (TakesRec s 0 m u → s.mode ≠ .idle →
      let v := noteFault u m
      v.recov.faults = s.recov.faults ++ [m.entry] ∧ v = { u with recov := v.recov } ∧
      (takesSpare m.fault = true → m.rank ∈ v.recov.lost) ∧ (∀ r ∈ s.recov.lost, r ∈ v.recov.lost) ∧
      (inCharge s = true → m.fault = 0x11 ∨ (m.fault = 0x10 ∧ s.recov.lastSched = some (schedKey m)) →
        exec .faultMessage s = .next (haltAll v m.fault)) ∧
      (inCharge s = true → m.fault ≠ 0x11 → m.fault ≠ 0x10 → s.recov.target = none →
        (∀ p ∈ s.dunrel.pauses, p.state ≠ .waiting ∨ p.selector ≠ 0xA015) → exec .faultMessage s = .next (beginRecovery v)) ∧
      (inCharge s = true → m.fault = 0x0F → s.recov.target.isSome = true → m.rank ∈ s.recov.lost →
        exec .faultMessage s = .next v) ∧
      (ownRank s = reg s Obj.standbyRank → coordOf s ≠ ownRank s → takesSpare m.fault = true → m.rank = reg s Obj.coordRank →
        s.dev ≠ .faulted →
        exec .faultMessage s = .next (beginRecovery { v with recov := { v.recov with root := some (ownRank s) } }))) ∧
    (TakesRec s 9 m u → s.mode ≠ .idle → ownRank s = reg s Obj.standbyRank →
      let v := { u with recov := { s.recov with root := some (ownRank s) } }
      exec .takeover s = .next (if s.recov.faults = [] then v else startRecovery v) ∧ inCharge v = decide (s.dev ≠ .faulted))

/-- R439, R442, R452: a report of a secured generation is kept by the coordinator and the standby, and by no other rank; R444: a spare
that does not commit within 5 ms is passed over for the next listed one. -/
def Sys2Proof.Slice0.ReportsAndSparesAreKept : Prop :=
  ∀ (s u : State) (m : RecMsg),
    (TakesRec s 8 m u → ownRank s = coordOf s ∨ ownRank s = reg s Obj.standbyRank → m.count ≤ 1 →
      ∃ t, exec .secured s = .next t ∧ t = { u with recov := { s.recov with securedBy := t.recov.securedBy } } ∧
        ∀ x, x ∈ t.recov.securedBy ↔ x = (m.rank, m.step) ∨ x ∈ s.recov.securedBy) ∧
    (TakesRec s 8 m u → ownRank s ≠ coordOf s → ownRank s ≠ reg s Obj.standbyRank → ownRank s ≠ reg s Obj.coordRank →
      relaySpan s = 1 → exec .secured s = .next u) ∧
    (∀ rank j, s.recov.joins.find? (fun j => j.rank == rank && !j.done) = some j →
      (elapsed s j.since 5000000 = false → exec (.joinTimeout rank) s = .next s) ∧
      (elapsed s j.since 5000000 = true → inCharge s = true →
        exec (.joinTimeout rank) s = .next (askSpare s rank ((listedSpares s).filter fun i => decide (i ≤ j.spare)))) ∧
      (inCharge s = true → ∃ t, exec (.joinTransaction (.answered rank)) s = .next t ∧
        ∀ y ∈ t.recov.joins, y.rank = rank → y.done = true))

/-- The parts above: the coordinator counts its ranks and keeps their reports. -/
def Obligations.CoordinatorCountsAndKeepsReports : Prop :=
  Sys2Proof.Slice0.CoordinatorCountsItsRanks ∧ Sys2Proof.Slice0.ReportsAndSparesAreKept

/-- R385, R386, R443 step 2: REDRAW commits both entries of its rank in one transaction once the module has restored: RANK_MAP_GEN and
JOB_EPOCH count, the entries take the fields written, their STATUS bits LOST and PATH_DOWN are clear and GEN is the new generation. -/
def Obligations.RedrawWritesBothEntries : Prop :=
  ∀ (s u : State) (m : RecMsg), TakesRec s 2 m u →
    (s.dev ≠ .recovering → exec .redraw s = .next u) ∧
    (s.dev = .recovering → (s.recov.restoring.isSome || s.recov.fromBuddy.isSome) = true → exec .redraw s = .next s) ∧
    (s.dev = .recovering → s.recov.restoring = none → s.recov.fromBuddy = none → m.rank ≠ ownRank s → m.rank < 32768 →
      hostMode s 0xA016 = false →
      ∃ t, exec .redraw s = .next t ∧ t.dev = .recovering ∧ t.mem = s.mem ∧ t.cores = s.cores ∧
        reg t Obj.rankMapGen = (reg s Obj.rankMapGen + 1) % 2 ^ 32 ∧ reg t Obj.jobEpoch = (reg s Obj.jobEpoch + 1) % 2 ^ 16 ∧
        reg t (Obj.rankMap + 2 * m.rank) % 2 ^ 193 = ofLE (m.entries.take 32) % 2 ^ 193 ∧
        reg t (Obj.rankMap + 2 * m.rank + 1) % 2 ^ 193 = ofLE ((m.entries.drop 32).take 32) % 2 ^ 193 ∧
        ∀ p < 2, reg t (Obj.rankMap + 2 * m.rank + p) / 2 ^ 224 = (reg s Obj.rankMapGen + 1) % 2 ^ 32 ∧
          reg t (Obj.rankMap + 2 * m.rank + p) / 2 ^ 200 % 4 = 0)

/-! ### The port and Tabbakan -/

/-- R357 to R361, R364: a frame that fails a check moves that check's counter and nothing else, in the order of the checks; a
datagram to a port that is not served is answered at most once a second; any other frame is handed on. While the link is not up no
frame arrives. -/
def Sys2Proof.Slice0.FramesAreCheckedInOrder : Prop :=
  ∀ (f : Frame) (s : State),
    let u := bump s Obj.fecCorr f.corrected
    let counts := fun (k : Nat) => ∃ t, exec (.frameRx f) s = .next t ∧ reg t k = (reg u k + 1) % 2 ^ 64 ∧ RegsBut u t [k] ∧
      t = { s with regs := t.regs }
    (reg s Obj.linkState ≠ 2 → exec (.frameRx f) s = .next s) ∧
    (reg s Obj.linkState = 2 →
      reg u Obj.fecCorr = (reg s Obj.fecCorr + f.corrected) % 2 ^ 64 ∧
      (f.fecBad = true → counts Obj.fecUncorr) ∧
      (f.fecBad = false → f.fcsBad = true → counts Obj.fcsErr) ∧
      (f.fecBad = false → f.fcsBad = false →
        (reg s Obj.maxFrame < f.len → counts (Obj.tbkDrop + 11)) ∧
        (f.len ≤ reg s Obj.maxFrame →
          (f.pauseFrame = true → counts (Obj.tbkDrop + 12)) ∧
          (f.pauseFrame = false → f.unsupported = true → counts (Obj.tbkDrop + 10)) ∧
          (f.pauseFrame = false → f.unsupported = false →
            (f.port = none → exec (.frameRx f) s = .next u) ∧
            (∀ p, f.port = some p → servedPort s p = true →
              (f.full = true → counts (Obj.tbkDrop + 9)) ∧ (f.full = false → exec (.frameRx f) s = .next u)) ∧
            (∀ p, f.port = some p → servedPort s p = false →
              (∀ t, s.net.unreachAt = some t → elapsed s t 1000000000 = false → counts (Obj.tbkDrop + 13)) ∧
              (s.net.unreachAt = none → ∃ t, exec (.frameRx f) s = .next t ∧ t.sent = .unreachable p :: s.sent ∧
                t.net = { s.net with unreachAt := some s.clk } ∧
                reg t (Obj.tbkDrop + 13) = (reg s (Obj.tbkDrop + 13) + 1) % 2 ^ 64))))))

namespace Sys2Proof.Slice0
open Sys2Proof.Machine

/-- The Tabbakan packet that a command brings: its type, its header, and whether its KIND and lengths are in order (R368, R369). -/
def packetOf : Instr → Option (TbkType × TbkHdr × Bool)
  | .dataRx h e => some (.data, h, e.ok)
  | .ackRx h _ => some (.ack, h, true)
  | .nakRx h _ => some (.nak, h, true)
  | .openCtx h _ => some (.open, h, true)
  | .openAck h _ => some (.openAck, h, true)
  | .tbkClose h _ => some (.close, h, true)
  | .heartbeat h _ => some (.heartbeat, h, true)
  | .stretch h _ => some (.stretch, h, true)
  | _ => none

/-- The first check of R368 is met: version, length, KIND, and a type that the source may send. -/
def WellFormedPacket (t : TbkType) (h : TbkHdr) (ok : Bool) : Prop :=
  h.ver = 1 ∧ h.lenOk = true ∧ ok = true ∧ t.from h.src = true

/-- A packet that meets every check of R368 up to the context. -/
def Passes (s : State) (t : TbkType) (h : TbkHdr) (ok : Bool) : Prop :=
  reg s Obj.linkState = 2 ∧ WellFormedPacket t h ok ∧ h.icrcOk = true ∧ h.job = reg s Obj.jobTag % 2 ^ 16 ∧
  sourceKnown s h = true ∧ (t.epochChecked = true → h.src.isRank = true → h.epoch = reg s Obj.jobEpoch) ∧
  (t.ctxChecked = true → ∃ c, ctxOf s h.dstCtx = some c ∧ c.peer = h.src)

end Sys2Proof.Slice0

/-- R368: a packet of any type that fails a check is dropped, counted for the first check that it fails, and answered as that check
says; it does nothing else. HEARTBEAT and STRETCH come from ranks alone and OPEN from endpoints alone. -/
def Sys2Proof.Slice0.PacketsAreDroppedByTheirFirstFailure : Prop :=
  ∀ (c : Instr) (t : TbkType) (h : TbkHdr) (ok : Bool) (s : State), packetOf c = some (t, h, ok) →
    (reg s Obj.linkState ≠ 2 → exec c s = .next s) ∧
    (reg s Obj.linkState = 2 →
      (¬ WellFormedPacket t h ok → exec c s = .next (drop s 0)) ∧
      (WellFormedPacket t h ok → h.icrcOk = false → exec c s = .next (drop s 5)) ∧
      (WellFormedPacket t h ok → h.icrcOk = true → h.job ≠ reg s Obj.jobTag % 2 ^ 16 → exec c s = .next (drop s 1)) ∧
      (WellFormedPacket t h ok → h.icrcOk = true → h.job = reg s Obj.jobTag % 2 ^ 16 → sourceKnown s h = false →
        exec c s = .next (answerUnknown (violation (drop s 3) 3 h.src.num 2 (h.ipSrc % 2 ^ 64) eAUTH []) h)) ∧
      (WellFormedPacket t h ok → h.icrcOk = true → h.job = reg s Obj.jobTag % 2 ^ 16 → sourceKnown s h = true →
        t.epochChecked = true → h.src.isRank = true → h.epoch ≠ reg s Obj.jobEpoch →
        ∃ u, exec c s = .next u ∧ u = { drop s 2 with sent := u.sent, egress := u.egress } ∧ (t ≠ .data → u = drop s 2) ∧
          (t = .data → ∃ a : AckExt, a.code = eSTATE ∧ a.repoch = reg s Obj.jobEpoch ∧
            (u.sent = .nakTo h.ipSrc a :: s.sent ∨ u.sent = .nak h.dstCtx a :: s.sent))) ∧
      (WellFormedPacket t h ok → h.icrcOk = true → h.job = reg s Obj.jobTag % 2 ^ 16 → sourceKnown s h = true →
        (t.epochChecked = true → h.src.isRank = true → h.epoch = reg s Obj.jobEpoch) → t.ctxChecked = true →
        (∀ x, ctxOf s h.dstCtx = some x → x.peer ≠ h.src) →
        exec c s = .next (send (drop s 4)
          (.nakTo h.ipSrc { next := 0, limit := 0, code := eRANGE, repoch := reg s Obj.jobEpoch })))) ∧
    ∀ k < 16, reg (drop s k) (Obj.tbkDrop + k) = (reg s (Obj.tbkDrop + k) + 1) % 2 ^ 64 ∧
      RegsBut s (drop s k) [Obj.tbkDrop + k] ∧ drop s k = { s with regs := (drop s k).regs }

/-- The parts above: frames and packets are checked in the order of the manual. -/
def Obligations.FramesAndPacketsAreChecked : Prop :=
  Sys2Proof.Slice0.FramesAreCheckedInOrder ∧ Sys2Proof.Slice0.PacketsAreDroppedByTheirFirstFailure

/-- R368, R370, R371, R373, R374, with no collective under way: a DATA packet in sequence and within the credit is taken: the next
number is expected, its units count, and a whole message of the buddy stream waits for the module; a duplicate is
dropped and acknowledged, a packet beyond the credit is dropped. -/
def Sys2Proof.Slice0.DataPacketsFillTheirMessages : Prop :=
  ∀ (s : State) (h : TbkHdr) (e : DataExt) (c : Ctx), Passes s .data h e.ok → ctxOf s h.dstCtx = some c → s.net.colls = [] →
    (h.psn = c.nextPsn → c.recvUnits + unitsOf e.payload.length ≤ c.limit →
      ∃ t, exec (.dataRx h e) s = .next t ∧
        (∀ d, ctxOf t h.dstCtx = some d → d.nextPsn = (c.nextPsn + 1) % 2 ^ 32 ∧
          d.recvUnits = c.recvUnits + unitsOf e.payload.length ∧ (e.kind = 0 → d.held = c.held ++ [e]) ∧
          (e.kind ≠ 0 → d.limit = c.limit + unitsOf e.payload.length)) ∧
        (e.kind = 1 → c.arriving = none → e.payload.length = e.mlen → t.net.inbox =
          s.net.inbox ++ [{ ctx := h.dstCtx, src := c.peer, kind := 1, bytes := e.payload, serial := s.net.messages,
                              forStep := s.job.step + (if s.net.admitClosed then 2 else 1) }] ∧ t.net.messages = s.net.messages + 1) ∧
        (e.kind ≠ 3 → t.mem = s.mem ∧ t.cores = s.cores) ∧ t.dev = s.dev) ∧
    (h.psn ≠ c.nextPsn → atMost h.psn c.nextPsn = true → exec (.dataRx h e) s = .next (sendAck (drop s 7) h.dstCtx)) ∧
    (h.psn ≠ c.nextPsn → atMost h.psn c.nextPsn = false → c.nakAt = none →
      ∃ t, exec (.dataRx h e) s = .next t ∧ t.sent = .nak h.dstCtx (ackExt s c 0) :: s.sent ∧
        reg t (Obj.tbkDrop + 6) = (reg s (Obj.tbkDrop + 6) + 1) % 2 ^ 64 ∧ t.mem = s.mem) ∧
    (h.psn = c.nextPsn → c.limit < c.recvUnits + unitsOf e.payload.length → exec (.dataRx h e) s = .next (drop s 8))

/-- R372, R374, R376, R379, with no collective under way: an ACK frees the packets that it covers and takes the peer's limit; a NAK for
a gap or with E_STATE sends the others again, counted, and one with E_AUTH or E_RANGE closes the context. -/
def Sys2Proof.Slice0.AcknowledgementsFreePackets : Prop :=
  ∀ (s : State) (h : TbkHdr) (e : AckExt) (c : Ctx), ctxOf s h.dstCtx = some c → s.net.colls = [] →
    (Passes s .ack h true → exec (.ackRx h e) s = .next (takeAck s h.dstCtx e)) ∧
    (Passes s .nak h true → e.code = 0 ∨ e.code = eSTATE →
      exec (.nakRx h e) s = .next (resend (takeAck s h.dstCtx e) h.dstCtx)) ∧
    (Passes s .nak h true → e.code = eAUTH ∨ e.code = eRANGE → exec (.nakRx h e) s = .next (closeCtx s h.dstCtx)) ∧
    (∀ p r, c.outstanding = p :: r → (e.next + 2 ^ 32 - p.psn) % 2 ^ 32 ≤ c.outstanding.length → c.queue = [] →
      ∃ d, ctxOf (takeAck s h.dstCtx e) h.dstCtx = some d ∧
        d.outstanding = c.outstanding.drop ((e.next + 2 ^ 32 - p.psn) % 2 ^ 32) ∧ d.peerLimit = e.limit ∧
        (takeAck s h.dstCtx e).sent = s.sent) ∧
    ((resend s h.dstCtx).sent = (c.outstanding.map fun p => .data h.dstCtx c.path true p).reverse ++ s.sent ∧
      reg (resend s h.dstCtx) Obj.tbkRetx = (reg s Obj.tbkRetx + c.outstanding.length) % 2 ^ 64) ∧
    ctxOf (closeCtx s h.dstCtx) h.dstCtx = none

/-- The parts above: data packets fill their messages and acknowledgements free packets. -/
def Obligations.DataAndAcknowledgementsAreTaken : Prop :=
  Sys2Proof.Slice0.DataPacketsFillTheirMessages ∧ Sys2Proof.Slice0.AcknowledgementsFreePackets

/-- R373, R376, R378, R379: an endpoint's OPEN of a kind that its KINDS allows takes the lowest free number and a grant from the pool, any
other is answered with E_ACCESS, and one that no number or grant serves with E_RANGE (INIT_PSN is any value, log 14); OPEN_ACK ends an opening and CLOSE ends a
context. An ACK goes out 0.5 µs after the first packet that waits for one; a context without progress for TBK_RTO sends its
packets again, and moves to the other path at the third time. -/
def Obligations.ContextsOpenProgressAndClose : Prop :=
  ∀ (s : State),
    (∀ (h : TbkHdr) (e : OpenExt) n, Passes s .open h true →
      (∀ c ∈ s.net.ctxs, c.peer ≠ h.src ∨ c.peerCtx ≠ e.ctx ∨ c.nonce ≠ e.nonce ∨ c.kind ≠ e.kind) →
      let kinds := byteAt (regBytes s (Obj.endpoint + h.src.num)) 0x12
      let allowed := (e.kind = 2 ∧ bitOf kinds 0 = true) ∨ (e.kind = 4 ∧ bitOf kinds 1 = true)
      (¬ allowed → exec (.openCtx h e) s = .next (send s
        (.openAck h.src { ctx := 0, kind := e.kind, code := eACCESS, nonce := e.nonce }))) ∧
      (allowed → s.net.pool < reg s Obj.endpointGrant → exec (.openCtx h e) s = .next (send s
        (.openAck h.src { ctx := 0, kind := e.kind, code := eRANGE, nonce := e.nonce }))) ∧
      (allowed → reg s Obj.endpointGrant ≤ s.net.pool → freeCtx s = some n →
        ∃ t, exec (.openCtx h e) s = .next t ∧ t.net.pool = s.net.pool - reg s Obj.endpointGrant ∧
          t.sent = .openAck h.src { ctx := n, kind := e.kind, psn := (Config.freeWord s.fresh).toNat,
                                             limit := reg s Obj.endpointGrant, nonce := e.nonce } :: s.sent ∧
          (∃ c, ctxOf t n = some c ∧ c.peer = h.src ∧ c.peerCtx = e.ctx ∧ c.nextPsn = e.psn ∧ c.peerLimit = e.limit) ∧
          reg t Obj.tbkCtxOpen = (s.net.ctxs.filter Ctx.isOpen).length + 1 ∧ RegsBut s t [Obj.tbkCtxOpen] ∧ t.mem = s.mem)) ∧
    (∀ (h : TbkHdr) (e : OpenExt) (c : Ctx), Passes s .openAck h true → ctxOf s h.dstCtx = some c →
      (c.opening = false ∨ c.nonce ≠ e.nonce → exec (.openAck h e) s = .next s) ∧
      (c.opening = true → c.nonce = e.nonce → e.code ≠ 0 → exec (.openAck h e) s = .next (closeCtx s h.dstCtx)) ∧
      (c.opening = true → c.nonce = e.nonce → e.code = 0 → exec (.openAck h e) s = .next (pumpAll
        (modCtx s h.dstCtx fun d => { d with opening := false, peerCtx := e.ctx, nextPsn := e.psn, peerLimit := e.limit }) h.dstCtx))) ∧
    (∀ (h : TbkHdr) (e : OpenExt), Passes s .close h true → exec (.tbkClose h e) s = .next (closeCtx s h.dstCtx)) ∧
    (∀ n c, ctxOf s n = some c →
      (0 < c.unacked → elapsed s c.unackedAt 500 = true → exec (.ackTimer n) s = .next (sendAck s n)) ∧
      (c.unacked = 0 → exec (.ackTimer n) s = .next s) ∧
      (elapsed s c.since (reg s Obj.tbkRto) = false → ∀ late, exec (.tbkRtoExpiry n late) s = .next s) ∧
      (elapsed s c.since (reg s Obj.tbkRto) = true → c.opening = false → c.outstanding ≠ [] →
        exec (.tbkRtoExpiry n true) s = .next (lateAccept s 5) ∧
        let u := modCtx s n fun d => { d with timeouts := d.timeouts + 1, since := s.clk }
        exec (.tbkRtoExpiry n false) s = .next (resend (if 3 ≤ c.timeouts + 1 then movePath u n else u) n)) ∧
      (elapsed s c.since (reg s Obj.tbkRto) = true → c.opening = true → 9 ≤ c.opens →
        exec (.tbkRtoExpiry n false) s = .next (closeCtx s n)))

/-- R12, R380 to R383, R314, R419, R421: in a job a heartbeat keeps its rank watched and its path up, and one in IDLE ends the watch, as
does any outside a job; the timer sends the module's own every 200 µs of a job. A rank silent for 600 µs on both paths is lost: both its
entries say so, HB_LOST counts and fault 0x0F is reported; silent on one path, that path is down; a heartbeat that registers in the
clock of the expiry is a late acceptance. A stretch request is registered once, and a held boundary asks for 255 quanta. -/
def Obligations.HeartbeatsWatchTheRanks : Prop :=
  ∀ (s : State),
    (∀ h e r, Passes s .heartbeat h true → h.src = .rank r →
      ∃ t, exec (.heartbeat h e) s = .next t ∧ t.mem = s.mem ∧ t.cores = s.cores ∧ t.sent = s.sent ∧
        (e.mode = 0 ∨ watching s = false → t.net.watches = s.net.watches.filter fun w => w.rank != r) ∧
        (e.mode ≠ 0 → watching s = true → (∃ i, watchIndex s r = some i) → r ≠ ownRank s →
          (∃ w ∈ t.net.watches, w.rank = r ∧ w.on h.path = s.clk) ∧ (r < 32768 → h.path < 2 → pathDown t r h.path = false)) ∧
        (∀ i, watchIndex s r = some i → r < 32768 → h.path < 2 → reg t (Obj.hbLast + i) = ptpNow s)) ∧
    (s.mode ≠ .idle → reg s Obj.linkState = 2 → elapsed s s.net.hbAt 200000 = true → watchers s ≠ [] →
      ∃ t e, exec .heartbeatTimer s = .next t ∧ t.sent = .heartbeat (watchers s) e :: s.sent ∧ e.seq = s.net.hbSeq ∧
        t = { s with sent := t.sent, egress := t.egress
                     net := { s.net with hbSeq := (s.net.hbSeq + 1) % 2 ^ 32, hbAt := s.clk } }) ∧
    (s.mode = .idle ∨ elapsed s s.net.hbAt 200000 = false → exec .heartbeatTimer s = .next s) ∧
    (∀ rank w, s.net.watches.find? (fun w => w.rank == rank) = some w →
      (watching s = false → ∀ late, exec (.heartbeatLoss rank late) s = .next s) ∧
      (elapsed s (w.on 0) 600000 = false → elapsed s (w.on 1) 600000 = false →
        ∀ late, exec (.heartbeatLoss rank late) s = .next s) ∧
      (watching s = true → elapsed s (w.on 0) 600000 = true → elapsed s (w.on 1) 600000 = true →
        exec (.heartbeatLoss rank true) s = .next (lateAccept s 4) ∧
        (rank < 32768 → ∃ t, exec (.heartbeatLoss rank false) s = .next t ∧
          (∀ p < 2, bitOf (rankEntry t rank p / 2 ^ 200 % 256) 1 = true) ∧ (∀ y ∈ t.net.watches, y.rank ≠ rank) ∧
          reg t Obj.hbLost = (reg s Obj.hbLost + 1) % 2 ^ 32 ∧
          reg t (Obj.faultCount + 0x0F) = (reg s (Obj.faultCount + 0x0F) + 1) % 2 ^ 32 ∧ t.mem = s.mem)) ∧
      (∀ p < 2, watching s = true → elapsed s (w.on p) 600000 = true → elapsed s (w.on (1 - p)) 600000 = false →
        (pathDown s rank p = false → exec (.heartbeatLoss rank true) s = .next (lateAccept s 4) ∧
          exec (.heartbeatLoss rank false) s = .next (markPathDown s rank p) ∧
          (rank < 32768 → pathDown (markPathDown s rank p) rank p = true)) ∧
        (pathDown s rank p = true → ∀ late, exec (.heartbeatLoss rank late) s = .next s))) ∧
    (∀ h m, Passes s .stretch h true → exec (.stretch h m) s = .next (takeStretch m s) ∧
      (s.mode = .idle ∨ (m.origin, m.reqId) ∈ s.net.seenStretch → takeStretch m s = s)) ∧
    ((s.job.held = true → nextStepStart s ≤ ptpNow s + reg s Obj.stretchLead →
      ∃ t m, exec .heldBoundaryStretch s = .next t ∧ t.sent = .stretch (originTargets s) m :: s.sent ∧ m.quanta = 255 ∧
        m.emerg = true ∧ m.step = s.job.step ∧ m.phase = s.job.phases.length - 1 ∧
        reg t Obj.stretchEmerg = (reg s Obj.stretchEmerg + 1) % 2 ^ 32) ∧
      (s.job.held = false → exec .heldBoundaryStretch s = .next s))

/-- R355, R357, R360, R362: a link that is lost trains again in the mode of PORT_MODE and its contexts stand; one that comes up
resolves its gateways, as does every 30 s. A request for an own address and an echo request are answered, the latter at most 1,000
times a second. -/
def Sys2Proof.Slice0.LinkAndNeighboursAreServed : Prop :=
  ∀ (s : State),
    (reg s Obj.linkState = 2 → ∃ t, exec .linkLoss s = .next t ∧ reg t Obj.linkState = 1 ∧ RegsBut s t [Obj.linkState] ∧
      t = { s with regs := t.regs, net := { s.net with portMode := reg s Obj.portMode } }) ∧
    (reg s Obj.linkState ≠ 2 → exec .linkLoss s = .next s) ∧
    (reg s Obj.linkState = 1 → ∃ t, exec .linkUp s = .next t ∧ reg t Obj.linkState = 2 ∧ RegsBut s t [Obj.linkState] ∧
      (∀ g ∈ [reg s Obj.pathGateway, reg s (Obj.pathGateway + 1)], g ≠ 0 → OutMsg.resolve g ∈ t.sent) ∧
      t = { s with regs := t.regs, sent := t.sent, egress := t.egress, net := { s.net with gatewayAt := s.clk } }) ∧
    (reg s Obj.linkState ≠ 1 → exec .linkUp s = .next s) ∧
    (reg s Obj.linkState = 2 → elapsed s s.net.gatewayAt 30000000000 = true →
      exec (.gatewayResolve []) s = .next (resolveGateways s) ∧
      (reg s Obj.pathGateway ≠ 0 → reg s Obj.jobModules = 1 → ∃ t, exec (.gatewayResolve [0]) s = .next t ∧ pathDown t 0 0 = true)) ∧
    (elapsed s s.net.gatewayAt 30000000000 = false → ∀ f, exec (.gatewayResolve f) s = .next s) ∧
    (∀ (p : Fin 2) (a b : Nat), reg s Obj.linkState = 2 → b ≠ 0 →
      (reg s (Obj.pathAddr + p.val) = b →
        exec (.neighbourResolution p a b) s = .next (send s (.neighbour a b))) ∧
      (reg s (Obj.pathAddr + p.val) ≠ b → exec (.neighbourResolution p a b) s = .next s)) ∧
    (∀ (a : Nat) (b : List Byte), reg s Obj.linkState = 2 →
      (1024 < b.length → exec (.icmpEcho a b) s = .next s) ∧
      (b.length ≤ 1024 → elapsed s s.net.icmpAt 1000000000 = false → s.net.icmpSent < 1000 →
        exec (.icmpEcho a b) s =
          .next (send { s with net := { s.net with icmpSent := s.net.icmpSent + 1 } } (.echoReply a b))) ∧
      (elapsed s s.net.icmpAt 1000000000 = false → 1000 ≤ s.net.icmpSent → exec (.icmpEcho a b) s = .next s))

/-- R399, R400: only a configured master in the domain is heard. The Announce with the best data set selects its sender and begins the
locking; a Sync of the selected master is answered with a Delay_Req and corrects the time by its offset, 16 in a row below 1 µs lock it, and one above 2 µs unlocks it with the event. Without an Announce the clock holds over, and after
10 s of that it is unlocked. The correction by the whole offset is the model's (log 46). -/
def Sys2Proof.Slice0.PtpLocksHoldsAndUnlocks : Prop :=
  (∀ (s : State) (src : Nat),
    (∀ i < 4, reg s (Obj.ptpMaster + i) = 0 ∨ reg s (Obj.ptpMaster + i) ≠ src) →
      ∀ d k, exec (.ptpMessage src d k) s = .next s) ∧
  ∀ (s : State) (src : Nat), reg s Obj.linkState = 2 → (∃ i < 4, reg s (Obj.ptpMaster + i) = src) → src ≠ 0 →
    (∀ d k, d ≠ reg s Obj.ptpDomain → exec (.ptpMessage src d k) s = .next s) ∧
    (∀ d : Nat, (s.net.ptpBest = none ∨ (∃ m b, s.net.ptpBest = some (m, b) ∧ (m = src ∨ d < b)) →
        ∃ t, exec (.ptpMessage src (reg s Obj.ptpDomain) (.announce d)) s = .next t ∧
          reg t Obj.ptpState = (if reg s Obj.ptpState = 0 then 1 else reg s Obj.ptpState) ∧ RegsBut s t [Obj.ptpState] ∧
          t = { s with regs := t.regs, net := { s.net with announceAt := s.clk, ptpBest := some (src, d) } }) ∧
      (∀ m b, s.net.ptpBest = some (m, b) → m ≠ src → b ≤ d →
        exec (.ptpMessage src (reg s Obj.ptpDomain) (.announce d)) s = .next s)) ∧
    (s.net.ptpBest.map Prod.fst ≠ some src → ∀ o, exec (.ptpMessage src (reg s Obj.ptpDomain) (.sync o)) s = .next s) ∧
    (s.net.ptpBest.map Prod.fst = some src → ∀ o : Int, ∃ t, exec (.ptpMessage src (reg s Obj.ptpDomain) (.sync o)) s = .next t ∧
      t.net.ptpBase = s.net.ptpBase - o ∧ OutMsg.delayReq src ∈ t.sent ∧
      reg t Obj.ptpOffset = (o % 2 ^ 32).toNat ∧
      (o.natAbs < 1000 → 15 ≤ s.net.syncGood → reg t Obj.ptpState = 2) ∧
      (2000 < o.natAbs → reg s Obj.ptpState = 2 ∨ reg s Obj.ptpState = 3 → reg t Obj.ptpState = 4) ∧
      (1000 ≤ o.natAbs → o.natAbs ≤ 2000 → reg t Obj.ptpState = reg s Obj.ptpState ∧ t.net.syncGood = 0) ∧ t.mem = s.mem) ∧
    (reg s Obj.ptpState = 1 ∨ reg s Obj.ptpState = 2 → ∃ t, exec .ptpAnnounceTimeout s = .next t ∧ reg t Obj.ptpState = 3 ∧
      RegsBut s t [Obj.ptpState] ∧ t = { s with regs := t.regs, net := { s.net with holdoverAt := s.clk, syncGood := 0, ptpBest := none } }) ∧
    (reg s Obj.ptpState = 3 → elapsed s s.net.holdoverAt 10000000000 = true →
      ∃ t, exec .ptpHoldoverExpiry s = .next t ∧ reg t Obj.ptpState = 4 ∧ t.mem = s.mem ∧ t.net = s.net) ∧
    (elapsed s s.net.holdoverAt 10000000000 = false → exec .ptpHoldoverExpiry s = .next s)

/-- The parts above: the port's egress queues, the link, neighbour discovery and the time protocol. -/
def Obligations.LinkNeighboursAndTimeAreServed : Prop :=
  Sys2Proof.Slice0.PortSendsInPriorityOrder ∧ Sys2Proof.Slice0.LinkAndNeighboursAreServed ∧ Sys2Proof.Slice0.PtpLocksHoldsAndUnlocks

/-- R393 to R397: a whole shard whose length and CRC match is done; one that fails is asked for again, counted, and so is one that is not
complete within FETCH_TIMEOUT. A serving request waits for the next step, or the one after when it was completed after the
admission phase had closed. -/
def Obligations.FetchesAndServingRequestsProgress : Prop :=
  ∀ (s u : State) (m : InMsg),
    (∀ f, Takes s (fun x => x.kind == 3) m u → fetchOf s (fieldBE m.bytes 0 4) = some f →
      let len := readLE s (fetchEntry s s.net.fetchFor f.entry + 0x10) 4
      let crc := fieldBE m.bytes 0x10 4
      (byteAt m.bytes 4 ≠ 0 → exec .fetchResponse s = .next (retryFetch u f (byteAt m.bytes 4))) ∧
      (byteAt m.bytes 4 = 0 → m.bytes.length - 24 ≠ len → exec .fetchResponse s = .next (retryFetch u f eRANGE)) ∧
      (byteAt m.bytes 4 = 0 → m.bytes.length - 24 = len → crc ≠ (crc32c (m.bytes.drop 24)).toNat →
        exec .fetchResponse s = .next (retryFetch (bump u Obj.fetchCrcErr 1) f 0)) ∧
      (byteAt m.bytes 4 = 0 → m.bytes.length - 24 = len → crc = (crc32c (m.bytes.drop 24)).toNat →
        exec .fetchResponse s = .next (shardDone u f (fieldBE m.bytes 8 8) crc))) ∧
    (∀ entry f, s.net.fetches.find? (fun f => f.entry == entry && f.sent != 0 && !f.done) = some f →
      (elapsed s f.at_ (reg s Obj.fetchTimeout) = false → (fetchCtx s f.endpoint).isSome = true →
        ∀ late, exec (.fetchTimeout entry late) s = .next s) ∧
      (elapsed s f.at_ (reg s Obj.fetchTimeout) = true → exec (.fetchTimeout entry true) s = .next (lateAccept s 6) ∧
        exec (.fetchTimeout entry false) s = .next (retryFetch s f eTIMEOUT))) ∧
    (let q : ServeReq := { ctx := m.ctx, bytes := m.bytes, serial := m.serial }
     let v := { u with net := if s.job.step + 1 < m.forStep then { u.net with admitsLater := s.net.admitsLater ++ [q] }
                              else { u.net with admits := s.net.admits ++ [q] } }
     (s.mode ≠ .serve → exec .servingRequestAdmit s = .next s ∧ exec .servingRequestFork s = .next s ∧
       exec .servingRequestRetire s = .next s) ∧
     (s.mode = .serve →
       (Takes s (fun x => x.kind == 4 && (byteAt x.bytes 0 == 0 || decide (2 < byteAt x.bytes 0))) m u →
         exec .servingRequestAdmit s = .next v) ∧
       (Takes s (fun x => x.kind == 4 && byteAt x.bytes 0 == 1) m u → exec .servingRequestFork s = .next v) ∧
       (Takes s (fun x => x.kind == 4 && byteAt x.bytes 0 == 2) m u → exec .servingRequestRetire s = .next v)))

/-! ### Dunrel -/

namespace Sys2Proof.Slice0
open Sys2Proof.Machine

/-- A request of a session that Dunrel takes up (R462, R463, R466): its version, length and size are in order, and no kept response has
its number. -/
def Live (s : State) (m : DReq) (x : Session) : Prop :=
  s.dunrel.sessions[m.sess] = some x ∧ m.ver = 1 ∧ m.lenOk = true ∧ m.payload.length ≤ segMax s ∧ ∀ k ∈ x.kept, k.1 ≠ m.reqId

/-- The state in which a request is served: the idle time of its session starts again. -/
def heard (s : State) (m : DReq) : State := modSess s m.sess fun y => { y with last := s.clk }

/-- No transaction of the list that the request could name by handle 0. -/
def NoHandleZero (s : State) : Prop := ∀ t ∈ s.dunrel.txns, t.handle ≠ 0

/-- The response with a code, the last message handed out. -/
def Answered (t : State) (m : DReq) (code : Nat) : Prop := t.sent.head? = some (.dunrel m.sess true (answer m code))

/-- The request that a command brings, when its type is the command's own (R464). -/
def requestOf : Instr → Option DReq
  | .read m => if m.type = 1 then some m else none
  | .write m => if m.type = 2 then some m else none
  | .txnOpen m => if m.type = 3 then some m else none
  | .txnCommit m => if m.type = 4 then some m else none
  | .txnAbort m => if m.type = 5 then some m else none
  | .subscribe m => if m.type = 6 then some m else none
  | .eventAck m => if m.type = 8 then some m else none
  | .decide m => if m.type = 9 then some m else none
  | .attest m => if m.type = 10 then some m else none
  | .close m => if m.type = 11 then some m else none
  | .otherTypeRequest m => if m.type ∈ [1, 2, 3, 4, 5, 6, 8, 9, 10, 11] then none else some m
  | _ => none

end Sys2Proof.Slice0

/-- R459 to R462, R480, R534: a handshake that a check refuses gets that check's alert; one whose certificate grants a level takes the
lowest free slot at that level. A session ends at CLOSE, at close_notify and after its idle limit: its slot is free, its transactions
are gone, and memory, registers but TXN_ABORTED and IMAGE_STATE, and the other sessions stand. -/
def Obligations.SessionsOpenAndEnd : Prop :=
  (∀ (h : Handshake) (s : State),
    (dunrelUp s = false → exec (.dtlsHandshake h) s = .next s) ∧
    (dunrelUp s = true → 4 < h.inProgress ∨ freeSession s = none ∨ s.power.noiseBad = true →
      exec (.dtlsHandshake h) s = .next (send s (.alert h.peer "internal_error"))) ∧
    (dunrelUp s = true → h.inProgress ≤ 4 → s.power.noiseBad = false → ∀ i, freeSession s = some i →
      (h.version13 = false → exec (.dtlsHandshake h) s = .next (send s (.alert h.peer "protocol_version"))) ∧
      (h.version13 = true → h.suiteOk = false → exec (.dtlsHandshake h) s = .next (send s (.alert h.peer "handshake_failure"))) ∧
      (h.version13 = true → h.suiteOk = true →
        (h.key = none → exec (.dtlsHandshake h) s = .next (refuseHandshake s h "certificate_required")) ∧
        (∀ key, h.key = some key → h.certOk = false → exec (.dtlsHandshake h) s = .next (refuseHandshake s h "bad_certificate")) ∧
        (∀ key, h.key = some key → h.certOk = true → handshakeLevel s h key = 0 →
          exec (.dtlsHandshake h) s = .next (refuseHandshake s h "access_denied")) ∧
        (∀ key, h.key = some key → h.certOk = true → handshakeLevel s h key ≠ 0 →
          ∃ t, exec (.dtlsHandshake h) s = .next t ∧ t = { s with dunrel := { s.dunrel with sessions := t.dunrel.sessions } } ∧
            (∀ j, j ≠ i → t.dunrel.sessions[j] = s.dunrel.sessions[j]) ∧
            ∃ x, t.dunrel.sessions[i] = some x ∧ x.level = handshakeLevel s h key ∧ x.key = key ∧ x.peer = h.peer ∧
              x.last = s.clk ∧ x.idle = reg s Obj.sessionIdle ∧ x.mask = 0)))) ∧
  ∀ (s : State) (i : Sess),
    (let t := endSession s i
     t.dunrel.sessions[i] = none ∧ (∀ j, j ≠ i → t.dunrel.sessions[j] = s.dunrel.sessions[j]) ∧
       (s.dunrel.sessions[i].isSome = true → ∀ x ∈ t.dunrel.txns, x.sess ≠ i) ∧
       RegsBut s t [Obj.txnAborted, Obj.imageState] ∧ t = { s with dunrel := t.dunrel, regs := t.regs }) ∧
    exec (.closeNotify i) s = .next (endSession s i) ∧
    (∀ x, s.dunrel.sessions[i] = some x →
      exec (.sessionIdleExpiry i) s = .next (if elapsed s x.last x.idle = true then endSession s i else s)) ∧
    (∀ m x, m.type = 11 → m.sess = i → m.payload = [] → Live s m x →
      exec (.close m) s = .next (endSession (reply (heard s m) m eOK) i))

/-- R462 to R466, R482, R558: a request of no session changes nothing; one with a bad version or length restarts the idle time
alone; one whose number is kept gets its responses again. A READ of an object of the tables that passes its checks answers the bytes
and changes nothing else; a READ that fails is answered with the code of the first failing check, and one without the right to read is
a violation too. A request of a type that does not exist is answered with E_RANGE. -/
def Obligations.RequestsAreAnswered : Prop :=
  (∀ (c : Instr) (m : DReq) (s : State), requestOf c = some m →
    (s.dunrel.sessions[m.sess] = none → exec c s = .next s) ∧
    (∀ x, s.dunrel.sessions[m.sess] = some x →
      m.ver ≠ 1 ∨ m.lenOk = false ∨ segMax s < m.payload.length → exec c s = .next (heard s m)) ∧
    (∀ x, s.dunrel.sessions[m.sess] = some x → m.ver = 1 → m.lenOk = true →
      m.payload.length ≤ segMax s → (∃ k ∈ x.kept, k.1 = m.reqId) → m.type ≠ 8 →
      ∃ t, exec c s = .next t ∧ t = { heard s m with sent := t.sent, egress := t.egress } ∧
        t.sent = ((x.kept.filter fun k => k.1 == m.reqId).map fun k => .dunrel m.sess true k.2) ++ s.sent)) ∧
  (∀ (m : DReq) (s : State) (x : Session), m.type = 1 → Live s m x → m.payload = [] → m.txn = 0 → NoHandleZero s → m.index ≠ 0x3200 →
    (∀ r, m.index < 0xF000 → findRow m.index m.sub = some r → readCheck s x m = eOK →
      let b := (List.range m.count).flatMap fun i => elementBytes (heard s m) none r (m.element + i)
      let part := (b.drop m.offset).take (segMax s)
      ∃ t, exec (.read m) s = .next t ∧
        t.sent = .dunrel m.sess true { answer m eOK with offset := m.offset, total := b.length, payload := part,
                                                         more := decide (m.offset + part.length < b.length) } :: s.sent ∧
        t = { s with sent := t.sent, egress := t.egress, dunrel := { s.dunrel with sessions := t.dunrel.sessions } } ∧
        ∀ j, j ≠ m.sess → t.dunrel.sessions[j] = s.dunrel.sessions[j]) ∧
    (readCheck s x m ≠ eOK → ∃ t, exec (.read m) s = .next t ∧ Answered t m (readCheck s x m) ∧ t.mem = s.mem ∧
      t.cores = s.cores ∧ t.dunrel.txns = s.dunrel.txns ∧
      reg t Obj.violHead = if readCheck s x m = eACCESS then (reg s Obj.violHead + 1) % 64 else reg s Obj.violHead)) ∧
  ∀ (m : DReq) (s : State) (x : Session), m.type = 7 ∨ m.type = 0 ∨ 11 < m.type → Live s m x →
    ∃ t, exec (.otherTypeRequest m) s = .next t ∧ Answered t m eRANGE ∧ t.mem = s.mem ∧ t.regs = s.regs

namespace Sys2Proof.Slice0
open Sys2Proof.Machine

/-- The transaction of its own that a WRITE outside a transaction is, with no transaction open (R469). -/
def ownWrite (s : State) (m : DReq) (r : ObjRow) : Txn :=
  stageWrite { handle := 1, sess := m.sess, once := true, last := s.clk, reqId := m.reqId } r m

/-- A WRITE of one whole element outside a transaction, with none open, whose checks hold (R465, R469, R470, R558). -/
def WritesWhole (s : State) (m : DReq) (x : Session) (r : ObjRow) : Prop :=
  m.type = 2 ∧ Live s m x ∧ m.txn = 0 ∧ s.dunrel.txns = [] ∧ m.count = 1 ∧ m.offset = 0 ∧ m.total = m.payload.length ∧
  writeCheck (heard s m) { x with last := s.clk } (ownWrite s m r) r m = eOK ∧ objChecks (heard s m) (ownWrite s m r) = eOK

/-- The answer is OK and the write counts in TXN_COMMITTED (R469, R480). -/
def CommittedOk (s t : State) (m : DReq) : Prop :=
  Answered t m eOK ∧ reg t Obj.txnCommitted = (reg s Obj.txnCommitted + 1) % 2 ^ 64

end Sys2Proof.Slice0

/-- R3, R479: on the production part a READ or a WRITE of any object from 0xF000 on, at any access level, is answered with E_ACCESS and
entered in the violation log; nothing is read or written. -/
def Sys2Proof.Slice0.VendorTestObjectsAreLocked : Prop :=
  ∀ (m : DReq) (s : State) (x : Session), s.part = .production → Live s m x → NoHandleZero s → m.txn = 0 → 0xF000 ≤ m.index →
    (m.type = 1 → m.payload = [] → ∃ t, exec (.read m) s = .next t ∧ Answered t m eACCESS ∧
      reg t Obj.violHead = (reg s Obj.violHead + 1) % 64 ∧
      (leBytes 32 (reg t (Obj.violLog + reg s Obj.violHead % 64))).drop 21 =
        leBytes 1 eACCESS ++ leBytes 2 0 ++ (x.key.take 8 ++ List.replicate 8 0#8).take 8 ∧
      t.mem = s.mem ∧ t.cores = s.cores ∧ t.dev = s.dev ∧ t.dunrel.txns = s.dunrel.txns) ∧
    (m.type = 2 → ∃ t, exec (.write m) s = .next t ∧ Answered t m eACCESS ∧
      reg t Obj.violHead = (reg s Obj.violHead + 1) % 64 ∧
      t.mem = s.mem ∧ t.cores = s.cores ∧ t.dev = s.dev ∧ t.dunrel.txns = s.dunrel.txns)

/-- R4, R497: on the engineering sample a session at VENDOR reaches the vendor-test objects. A READ that passes its checks answers as many
bytes as the object has, which the manual does not give: they are free values (log 12). A WRITE that passes its checks is answered with
OK, and nothing but TXN_COMMITTED and, for a retained object, the store's due write changes (log 12: the effect is the model's choice).
What the directory does not list is answered with E_RANGE, and a WRITE below VENDOR with E_ACCESS. -/
def Sys2Proof.Slice0.VendorTestObjectsAreAnswered : Prop :=
  ∀ (m : DReq) (s : State) (x : Session), s.part = .sample → 0xF000 ≤ m.index →
    (m.type = 1 → Live s m x → m.payload = [] → m.txn = 0 → NoHandleZero s → 4 ≤ x.level →
      match objectRow m.index m.sub with
      | none => ∃ t, exec (.read m) s = .next t ∧ Answered t m eRANGE ∧ t.mem = s.mem ∧ t.regs = s.regs
      | some r => readCheck s x m = eOK →
        ∃ t d, exec (.read m) s = .next t ∧ t.sent = .dunrel m.sess true d :: s.sent ∧ d.code = eOK ∧
        d.total = r.ty.size * m.count ∧ d.payload.length = min (segMax s) (r.ty.size * m.count - m.offset) ∧
        (∀ i < d.payload.length, d.payload[i]? = some (BitVec.ofNat 8 (Config.freeWord (s.fresh + (m.offset + i))).toNat)) ∧
        t = { s with sent := t.sent, egress := t.egress, fresh := s.fresh + r.ty.size * m.count
                     dunrel := { s.dunrel with sessions := t.dunrel.sessions } }) ∧
    (m.type = 2 → Live s m x → m.txn = 0 → s.dunrel.txns = [] → 4 ≤ x.level →
      match objectRow m.index m.sub with
      | none => ∃ t, exec (.write m) s = .next t ∧ Answered t m eRANGE ∧ t.mem = s.mem ∧ t.regs = s.regs
      | some r => WritesWhole s m x r → r.nextBoundary = false → ∃ t, exec (.write m) s = .next t ∧ CommittedOk s t m ∧
        RegsBut s t [Obj.txnCommitted] ∧ t.mem = s.mem ∧ t.cores = s.cores ∧ t.dev = s.dev ∧ t.mode = s.mode ∧ t.job = s.job ∧ t.num = s.num ∧ t.power = s.power ∧ t.net = s.net ∧
        t.recov = (if r.retained = true then { s.recov with storeDue := true } else s.recov)) ∧
    (m.type = 2 → Live s m x → m.txn = 0 → NoHandleZero s → x.level < 4 → ∃ t, exec (.write m) s = .next t ∧ Answered t m eACCESS ∧
      reg t Obj.violHead = (reg s Obj.violHead + 1) % 64 ∧ t.mem = s.mem ∧ t.cores = s.cores ∧ t.dunrel.txns = s.dunrel.txns)

/-- The parts above: vendor-test objects are locked on the production part and answered on the sample. -/
def Obligations.VendorTestObjectsAreLockedOrAnswered : Prop :=
  Sys2Proof.Slice0.VendorTestObjectsAreLocked ∧ Sys2Proof.Slice0.VendorTestObjectsAreAnswered

/-- R465, R469, R470, R471: a WRITE in a transaction that passes its checks and limits is staged, and changes nothing else; one whose
transaction is not OPEN is answered with E_STATE. A WRITE of one whole element outside a transaction, of an object that has no effect of
its own and takes effect at once, sets the element to the value and is answered with OK; a check that fails is answered with its
code and nothing is written. -/
def Obligations.WritesAreStagedOrCommitted : Prop :=
  ∀ (s : State) (m : DReq) (x : Session) (r : ObjRow), m.index < 0xF000 → findRow m.index m.sub = some r →
    (Live s m x → m.type = 2 → m.txn ≠ 0 → ∀ t, ownTxn s m = some t →
      (t.state = .open →
        let y := { t with last := s.clk }
        let z := stageWrite y r m
        let c := writeCheck (touchTxn (heard s m) m) { x with last := s.clk } z r m
        (z.within = true → c = eOK →
          ∃ u, exec (.write m) s = .next u ∧ Answered u m eOK ∧
            u.dunrel.txns = s.dunrel.txns.map (fun w => if w.handle = t.handle then z else w) ∧ u.regs = s.regs ∧ u.mem = s.mem ∧
            u.cores = s.cores ∧ u.net = s.net ∧ u.dev = s.dev) ∧
        (z.within = true → c ≠ eOK → ∃ u, exec (.write m) s = .next u ∧ Answered u m c ∧ u.mem = s.mem ∧
          u.dunrel.txns = s.dunrel.txns.map (fun w => if w.handle = t.handle then y else w)) ∧
        (z.within = false → ∃ u, exec (.write m) s = .next u ∧ Answered u m eRANGE ∧ u.mem = s.mem ∧
          u.dunrel.txns = s.dunrel.txns.map (fun w => if w.handle = t.handle then y else w))) ∧
      (t.state ≠ .open → ∃ u, exec (.write m) s = .next u ∧ Answered u m eSTATE ∧ u.mem = s.mem ∧ u.regs = s.regs)) ∧
    (WritesWhole s m x r → r.nextBoundary = false →
      m.index ∉ [0x1011, 0x1012, 0x1013, 0x1014, 0x1030, 0x1043, 0x2001, 0x3200, 0x4800, 0x4803, 0x4900, 0x6030, 0x8040, 0x9012, 0x9013] →
      ∃ u, exec (.write m) s = .next u ∧ CommittedOk s u m ∧
        reg u (objKey m.index m.sub m.element) = keepFields m.index (r.ty.ofWire m.payload) ∧
        RegsBut s u [objKey m.index m.sub m.element, Obj.txnCommitted] ∧ u.mem = s.mem ∧ u.cores = s.cores ∧ u.job = s.job ∧
        u.dev = s.dev ∧ u.mode = s.mode ∧ u.net = s.net ∧ u.dunrel.txns = []) ∧
    (m.type = 2 → Live s m x → m.txn = 0 → s.dunrel.txns = [] →
      let c := writeCheck (heard s m) { x with last := s.clk } (ownWrite s m r) r m
      c ≠ eOK → ∃ u, exec (.write m) s = .next u ∧ Answered u m c ∧ u.mem = s.mem ∧ u.dunrel.txns = [] ∧ u.dev = s.dev)

/-- R469, R470, R472, R314, R483: TXN_OPEN takes the lowest free handle, while fewer than 4 transactions are open, and remembers the
dictionary and memory as they stand; TXN_ABORT and the idle time of an OPEN one free it and count; a waiting one is left, and a handle
that is not the session's own is answered with E_STATE. At the end of the deferral time a DEFERRED one ends with E_CONFLICT, is counted,
and those that waited for it are tried; a release in that clock is a late acceptance. -/
def Obligations.TransactionsOpenAbortAndExpire : Prop :=
  (∀ (s : State) (m : DReq) (x : Session), Live s m x → m.payload = [] →
    (m.type = 3 →
      (∀ h, freeHandle s = some h → ∃ t u, exec (.txnOpen m) s = .next t ∧ t.dunrel.txns = s.dunrel.txns ++ [u] ∧ u.handle = h ∧
        u.sess = m.sess ∧ u.state = .open ∧ u.writes = [] ∧ u.last = s.clk ∧ u.snapMem = s.mem ∧ u.snapRegs = snapshot (heard s m) ∧
        t.sent = .dunrel m.sess true { answer m eOK with txn := h } :: s.sent ∧
        t = { s with sent := t.sent, egress := t.egress
                     dunrel := { s.dunrel with sessions := t.dunrel.sessions, txns := t.dunrel.txns } }) ∧
      (∀ h, freeHandle s = some h → 1 ≤ h ∧ h ≤ 255 ∧ s.dunrel.txns.length < 4 ∧ (∀ y ∈ s.dunrel.txns, y.handle ≠ h) ∧
        ∀ k, 1 ≤ k → k < h → ∃ y ∈ s.dunrel.txns, y.handle = k) ∧
      (4 ≤ s.dunrel.txns.length → exec (.txnOpen m) s = .next (reply (heard s m) m eRANGE))) ∧
    (m.type = 5 → ∀ t, ownTxn s m = some t →
      (t.state = .open → ∃ u, exec (.txnAbort m) s = .next u ∧ (∀ y ∈ u.dunrel.txns, y.handle ≠ t.handle) ∧
        reg u Obj.txnAborted = (reg s Obj.txnAborted + 1) % 2 ^ 32 ∧ RegsBut s u [Obj.txnAborted] ∧ u.mem = s.mem ∧
        u.cores = s.cores ∧ Answered u m eOK) ∧
      (t.state ≠ .open → ∃ u, exec (.txnAbort m) s = .next u ∧ Answered u m eSTATE ∧ u.regs = s.regs ∧
        ∃ w ∈ u.dunrel.txns, w.handle = t.handle ∧ w.state = t.state ∧ w.writes = t.writes)) ∧
    (m.type = 5 → ownTxn s m = none → ∃ u, exec (.txnAbort m) s = .next u ∧ Answered u m eSTATE ∧
      u.regs = s.regs ∧ u.dunrel.txns = s.dunrel.txns)) ∧
  ∀ (s : State) (h : Nat) (t : Txn), s.dunrel.txns.find? (fun t => t.handle == h) = some t →
    (t.state = .open → elapsed s t.last (reg s Obj.txnIdle) = true → ∃ u, exec (.txnIdleExpiry h) s = .next u ∧
      u = { s with regs := u.regs, dunrel := { s.dunrel with txns := s.dunrel.txns.filter fun y => y.handle != h } } ∧
      reg u Obj.txnAborted = (reg s Obj.txnAborted + 1) % 2 ^ 32 ∧ RegsBut s u [Obj.txnAborted]) ∧
    (t.state = .open → elapsed s t.last (reg s Obj.txnIdle) = false → exec (.txnIdleExpiry h) s = .next s) ∧
    (∀ since, t.state = .deferred since →
      (elapsed s since (reg s Obj.txnDeferLimit) = false → ∀ late, exec (.txnDeferLimitExpiry h late) s = .next s) ∧
      (elapsed s since (reg s Obj.txnDeferLimit) = true →
        exec (.txnDeferLimitExpiry h true) s = .next (lateAccept s 3) ∧
        exec (.txnDeferLimitExpiry h false) s = .next (settle (endTxn s t eCONFLICT)) ∧
        (s.dunrel.txns = [t] → ∃ u, exec (.txnDeferLimitExpiry h false) s = .next u ∧ u.dunrel.txns = [] ∧ u.mem = s.mem ∧
          u.cores = s.cores ∧ u.dev = s.dev ∧ reg u Obj.txnAborted = (reg s Obj.txnAborted + 1) % 2 ^ 32)))

/-- R464, R467, R502, R534 to R536: SUBSCRIBE replaces the mask; EVENT_ACK ends the sending of its event, and has no response; an event
that is not acknowledged is sent again every 20 ms, 8 times in all, and is then discarded and counted. ATTEST answers the report
over the nonce, a new signature each time, and with a noise source that failed E_STATE. -/
def Obligations.EventsAndAttestation : Prop :=
  (∀ (s : State) (m : DReq) (x : Session), Live s m x →
    (m.type = 6 → m.payload.length ≠ 4 → exec (.subscribe m) s = .next (reply (heard s m) m eTYPE)) ∧
    (m.type = 6 → m.payload.length = 4 → bitOf x.mask 10 = true ∨ bitOf (reg s Obj.retainedStatus) 2 = false →
      ∃ t y, exec (.subscribe m) s = .next t ∧ Answered t m eOK ∧ t.dunrel.sessions[m.sess] = some y ∧
        y.mask = ofBE m.payload % 2 ^ 12 ∧ y.unacked = x.unacked ∧ t.regs = s.regs ∧ t.mem = s.mem) ∧
    (m.type = 10 → m.payload.length ≠ 32 → exec (.attest m) s = .next (reply (heard s m) m eTYPE)) ∧
    (m.type = 10 → m.payload.length = 32 → s.power.noiseBad = true → exec (.attest m) s = .next (reply (heard s m) m eSTATE)) ∧
    (m.type = 10 → m.payload.length = 32 → s.power.noiseBad = false →
      let body := attestBody (heard s m) m.payload
      let rep := body ++ padTo 64 (Config.signature (sha256 body) s.power.signatures)
      let u := heard s m
      exec (.attest m) s = .next (respond { u with power := { s.power with signatures := s.power.signatures + 1 } } m
        (attestParts m rep.length (segMax s) (rep.length + 1) 0 rep)))) ∧
  (∀ (s : State) (m : DReq) (x : Session), m.type = 8 → m.payload = [] → s.dunrel.sessions[m.sess] = some x → m.ver = 1 →
    m.lenOk = true → ∃ t y, exec (.eventAck m) s = .next t ∧ t.dunrel.sessions[m.sess] = some y ∧ t.sent = s.sent ∧
      (∀ e ∈ y.unacked, e.num ≠ m.reqId) ∧ (∀ e ∈ x.unacked, e.num ≠ m.reqId → e ∈ y.unacked) ∧ t.regs = s.regs ∧
      t.mem = s.mem) ∧
  ∀ (s : State) (i : Sess) (x : Session) (e : PendEvent), s.dunrel.sessions[i] = some x → x.unacked.find? (fun y => y.num == e.num) = some e →
    (elapsed s e.last 20000000 = false → exec (.eventResend i e.num) s = .next s) ∧
    (elapsed s e.last 20000000 = true → e.sends < 8 → ∃ t y, exec (.eventResend i e.num) s = .next t ∧
      t.sent = .dunrel i false (eventMsg e.num e.record) :: s.sent ∧ t.dunrel.sessions[i] = some y ∧ t.regs = s.regs ∧
      ∀ z ∈ y.unacked, z.num = e.num → z.last = s.clk) ∧
    (elapsed s e.last 20000000 = true → 8 ≤ e.sends → ∃ t y, exec (.eventResend i e.num) s = .next t ∧ t.sent = s.sent ∧
      t.dunrel.sessions[i] = some y ∧ (∀ z ∈ y.unacked, z.num ≠ e.num) ∧
      reg t (Obj.eventDropped + i.val) = (reg s (Obj.eventDropped + i.val) + 1) % 2 ^ 32)

/-! ### Object writes and commits -/

namespace Sys2Proof.Slice0
open Sys2Proof.Machine

/-- A TXN_COMMIT of the only transaction open, which stands OPEN. -/
def CommitsLone (s : State) (m : DReq) (x : Session) (t : Txn) : Prop :=
  m.type = 4 ∧ Live s m x ∧ m.payload = [] ∧ s.dunrel.txns = [t] ∧ t.handle = m.txn ∧ t.sess = m.sess ∧ t.state = .open ∧
  t.once = false ∧ t.image = none

/-- Such a commit that names no image command and no reset. -/
def CommitOf (s : State) (m : DReq) (x : Session) (t : Txn) : Prop :=
  CommitsLone s m x t ∧ t.touches 0x2001 = false ∧ t.touches 0x8040 = false

/-- A commit whose checks hold and whose point is now, with nothing pinned (R469 to R472). -/
def CommitsNow (s : State) (m : DReq) (x : Session) (t : Txn) : Prop :=
  CommitOf s m x t ∧ objChecks s t = eOK ∧ jobRules s t = eOK ∧ commitPoint s t = .now ∧ pinned s t = false

/-- The state in which the writes of a commit are made: its session was heard, it has its place in the order, and it is no longer
among the transactions. -/
def atCommit (s : State) (m : DReq) : State :=
  { heard s m with dunrel := { (heard s m).dunrel with txns := [], nextOrder := s.dunrel.nextOrder + 1 } }

/-- The transaction as it commits. -/
def committed (s : State) (t : Txn) : Txn := { t with last := s.clk, order := s.dunrel.nextOrder }

/-- The transaction writes one element of one object and nothing else. -/
def WritesOne (t : Txn) (idx : Nat) (v : StagedVal) : Prop := t.writes = [{ index := idx, sub := 0, vals := [v] }]

/-- Each object that the transaction writes is a scalar, written once and at its size. -/
def Simple (t : Txn) : Prop :=
  (t.writes.map ObjWrite.index).Nodup ∧ ∀ w ∈ t.writes, w.sub = 0 ∧ ∃ v, w.vals = [v] ∧ v.elem = 0 ∧
    ∀ r, findRow w.index 0 = some r → v.total = r.ty.size

/-- A WRITE of a whole element outside a transaction, from OWNER, with no transaction open. -/
def PlainWrite (s : State) (m : DReq) (x : Session) (idx elem : Nat) (b : List Byte) : Prop :=
  m.type = 2 ∧ Live s m x ∧ 3 ≤ x.level ∧ s.dunrel.txns = [] ∧ m.txn = 0 ∧ m.index = idx ∧ m.sub = 0 ∧ m.element = elem ∧
  m.count = 1 ∧ m.offset = 0 ∧ m.total = b.length ∧ m.payload = b

end Sys2Proof.Slice0

/-- R469 to R473: what TXN_COMMIT answers. A check that fails ends the transaction with its code and nothing is written; a commit point
to come answers E_DEFERRED and the transaction is DUE; a pin answers E_DEFERRED and starts the deferral timer; otherwise all the
writes are made together and the answer is OK. The commands that name one object, a redraw and a join are such commits. -/
def Sys2Proof.Slice0.CommitsTakeEffectTogether : Prop :=
  ∀ (s : State) (m : DReq) (x : Session) (t : Txn), CommitOf s m x t →
    (∀ c, firstBad [objChecks s t, jobRules s t] = c → c ≠ eOK →
      ∃ u, exec (.txnCommit m) s = .next u ∧ Answered u m c ∧ u.dunrel.txns = [] ∧ u.mem = s.mem ∧ u.dev = s.dev ∧
        reg u Obj.txnAborted = (reg s Obj.txnAborted + 1) % 2 ^ 32) ∧
    (objChecks s t = eOK → jobRules s t = eOK → commitPoint s t ≠ .now →
      ∃ u, exec (.txnCommit m) s = .next u ∧ Answered u m eDEFERRED ∧
        u.dunrel.txns = [{ committed s t with state := .due }] ∧ u.regs = s.regs ∧ u.mem = s.mem) ∧
    (objChecks s t = eOK → jobRules s t = eOK → commitPoint s t = .now → pinned s t = true →
      ∃ u, exec (.txnCommit m) s = .next u ∧ Answered u m eDEFERRED ∧
        u.dunrel.txns = [{ committed s t with state := .deferred s.clk }] ∧
        reg u Obj.txnDeferred = (reg s Obj.txnDeferred + 1) % 2 ^ 32 ∧ u.mem = s.mem) ∧
    (CommitsNow s m x t →
      (∀ v, applyTxn (atCommit s m) (committed s t) = .ok v → v.dunrel.txns = [] →
        let u := reply (bump v Obj.txnCommitted 1) m eOK
        exec (.txnCommit m) s = .next u ∧
        (t.writesTo 0x3200 anyValue = true → exec (.memAccessWrite m) s = .next u) ∧
        (t.writesTo 0x9012 anyValue = true → exec (.fwStageWrite m) s = .next u) ∧
        (t.joins = false → t.writesTo 0x4800 anyValue = true → exec (.rankMapRedraw m) s = .next u) ∧
        (t.joins = true → exec (.joinTransaction (.spare m)) s = .next u) ∧
        (t.writesTo 0x6030 (codeIs 0) = true → exec (.admitSeq m) s = .next u) ∧
        (t.writesTo 0x6030 (codeIs 1) = true → exec (.fork m) s = .next u) ∧
        (t.writesTo 0x6030 (codeIs 2) = true → exec (.evict m) s = .next u) ∧
        (t.writesTo 0x6030 (codeIs 3) = true → exec (.retire m) s = .next u)) ∧
      (∀ c, applyTxn (atCommit s m) (committed s t) = .error c →
        ∃ u, exec (.txnCommit m) s = .next u ∧ Answered u m c ∧ u.dunrel.txns = [] ∧ u.mem = s.mem ∧ u.kv = s.kv ∧
          reg u Obj.txnAborted = (reg s Obj.txnAborted + 1) % 2 ^ 32))

/-- R385, R444, R474, R491, R537: what the writes of a commit do. MEM_ACCESS stores its bytes; FW_STAGE waits to be programmed and makes
FW_STATE 1; a redraw outside a join counts RANK_MAP_GEN and JOB_EPOCH and sets its entry; edits are made all or none; a join enters
RECOVERING in its mode with JOIN_EPOCH. -/
def Sys2Proof.Slice0.CommittedWritesHaveTheirEffects : Prop :=
  ∀ (s : State) (t : Txn) (v : StagedVal), s.dunrel.txns = [] → t.image = none →
    (WritesOne t 0x3200 v → s.MemOk → spanMirrored s (memElement v.elem) v.bytes.length = false →
      ∃ u, applyTxn s t = .ok u ∧ Stored s u (memElement v.elem) v.bytes ∧ u.dev = s.dev ∧ u.num = s.num ∧ u.kv = s.kv) ∧
    (WritesOne t 0x9012 v → ∃ u, applyTxn s t = .ok u ∧ reg u Obj.fwState = 1 ∧
      u.power = { s.power with program := s.power.program ++ [(v.elem, v.bytes)] } ∧
      RegsBut s u [Obj.fwState, Obj.fwBank + (1 - reg s Obj.fwActive % 2)] ∧ u = { s with regs := u.regs, power := u.power }) ∧
    (WritesOne t 0x4800 v → v.elem < 65536 → ∃ u, applyTxn s t = .ok u ∧
      reg u Obj.rankMapGen = (reg s Obj.rankMapGen + 1) % 2 ^ 32 ∧ reg u Obj.jobEpoch = (reg s Obj.jobEpoch + 1) % 2 ^ 16 ∧
      reg u (Obj.rankMap + v.elem) % 2 ^ 193 = ofLE v.bytes % 2 ^ 193 ∧ u.mem = s.mem ∧ u.dev = s.dev ∧ u.net.colls = []) ∧
    (s.mode = .idle → (∀ w ∈ t.writes, w.index = 0x6030) → t.writes ≠ [] →
      (∀ u, applyEdits s t.edits [] = .ok u → applyTxn s t = .ok u) ∧
      (∀ c, applyEdits s t.edits [] = .error c → applyTxn s t = .error c)) ∧
    (t.joins = true → s.dev = .ready → s.mode = .idle → t.touches 0x2410 = false → t.touches 0x6030 = false →
      (∀ w ∈ t.writes, w.index = 0x1011 ∨ w.index = 0x4800 ∨ w.index = 0x4803 ∨ w.index = 0x7013) →
      (∀ w ∈ t.writes, ∀ y ∈ w.vals, y.elem < 65536) → ∀ c, t.scalar 0x1011 0 = some c → modeOf c ≠ .idle →
      ∃ u, applyTxn s t = .ok u ∧ u.dev = .recovering ∧ u.mode = modeOf c ∧ CoresIdle u ∧ u.mem = s.mem ∧
        reg u Obj.jobEpoch = reg u Obj.joinEpoch % 2 ^ 16)

/-- Entry i of the sequence table stands as given, and every other entry, the device state, the job and the weights as they did. -/
def Sys2Proof.Slice0.SeqWritten (s u : State) (i : Nat) (x : Seq) : Prop :=
  seqAt u i = x ∧ (∀ j < 8192, j ≠ i → seqAt u j = seqAt s j) ∧ u.dev = s.dev ∧ u.mode = s.mode ∧ u.job = s.job ∧ u.num = s.num

/-- R267, R268, R281: what one edit does to the sequence table. ADMIT and FORK write the lowest FREE entry, ACTIVE with its next
generation, FORK with the n pages that it shares; EVICT adds to the entry's EVICTED and to KV_EVICTIONS; RETIRE leaves its entry FREE.
KV_ACTIVE_SEQ is the number of entries not FREE. -/
def Sys2Proof.Slice0.EditsChangeTheSequenceTable : Prop :=
  ∀ (s : State) (id : Nat), id < 2 ^ 40 →
    (∀ i base cap srec, freeEntry s = some i → findSeq s id = none → 1 ≤ cap → cap ≤ 262144 → base < 2 ^ 64 → srec < 2 ^ 16 →
      reg s Obj.kvProtFirst < 2 ^ 16 → reg s Obj.kvRecent < 2 ^ 16 →
      let x : Seq := { id := id, state := 1, gen := ((seqAt s i).gen + 1) % 2 ^ 16, ptBase := base, ptCap := cap
                       protFirst := reg s Obj.kvProtFirst, recent := reg s Obj.kvRecent, srec := srec }
      (∃ u, applyEdits s [.admitSeq id base cap srec] [] = .ok u ∧ SeqWritten s u i x ∧
        reg u Obj.kvActiveSeq = (liveSeqs u).length) ∧
      ∀ parent j p n, findSeq s parent = some (j, p) → n ≤ p.len / 64 → n ≤ cap →
        ∃ u e, applyEdits s [.fork parent id n base cap srec] [] = .ok u ∧ e ≤ n ∧
          SeqWritten s u i { x with len := 64 * n, npages := n, evicted := e } ∧ reg u Obj.kvActiveSeq = (liveSeqs u).length) ∧
    ∀ i x, findSeq s id = some (i, x) →
      (∃ u, applyEdits s [.retire id] [] = .ok u ∧ SeqWritten s u i { gen := (x.gen + 1) % 2 ^ 16 } ∧
        reg u Obj.kvActiveSeq = (liveSeqs u).length) ∧
      ∀ p, p < x.npages → x.protFirst ≤ p → p + x.recent < x.npages → entryEvicted (pageEntry s x p) = false →
        ∃ u, applyEdits s [.evict id p] [] = .ok u ∧
          SeqWritten s u i { x with gen := (x.gen + 1) % 2 ^ 16, evicted := (x.evicted + 1) % 2 ^ 32 } ∧
          reg u Obj.kvEvictions = (reg s Obj.kvEvictions + 1) % 2 ^ 64

/-- The parts above: a commit takes effect at once, each of its writes has its effect, and edits change the sequence table. -/
def Obligations.CommitsTakeEffect : Prop :=
  Sys2Proof.Slice0.CommitsTakeEffectTogether ∧ Sys2Proof.Slice0.CommittedWritesHaveTheirEffects ∧
  Sys2Proof.Slice0.EditsChangeTheSequenceTable

/-- R8, R11, R12, R35: a job starts in READY with JOB_MODE, JOB_T0 and JOB_S0 while an image is loaded: the module is RUNNING in the mode
written and the streams are armed for the first step. In RUNNING the present mode changes nothing; another mode needs an image swap in
its transaction: with one the image's checks run, and at its boundary the module runs in that mode, without one it is refused; IDLE needs
JOB_LAST_STEP, not yet passed, and is due at that step's boundary. At that boundary the module is in READY and IDLE, and its watchers
are told. -/
def Obligations.JobsStartSwitchAndEnd : Prop :=
  ∀ (s : State) (m : DReq) (x : Session) (t : Txn) (c : Nat), Simple t → t.scalar 0x1011 0 = some c → objChecks s t = eOK →
    (CommitOf s m x t → s.dev = .ready → s.mode = .idle → s.power.trans = none → reg s Obj.imageState = 2 → c ≠ 0 →
      (∀ w ∈ t.writes, w.index = 0x1011 ∨ w.index = 0x2410 ∨ w.index = 0x2411) →
      (∀ t0 s0, t.scalar 0x2410 0 = some t0 → t.scalar 0x2411 0 = some s0 → ∀ plan,
        ∃ u, exec (.jobStart m plan) s = .next u ∧ Answered u m eOK ∧ u.dev = .running ∧ u.mode = modeOf c ∧
          reg u Obj.jobT0 = t0 ∧ reg u Obj.jobS0 = s0 ∧ u.job.step = s0 ∧ u.job.plan = plan ∧ executing u = true ∧
          ∀ l : Core, (coreOf u l).tokens = 0#256 ∧ (coreOf u l).base = 0 ∧ (coreOf u l).flight = [] ∧
            (coreOf u l).halted = false) ∧
      (t.touches 0x2411 = false → ∀ plan, ∃ u, exec (.jobStart m plan) s = .next u ∧ Answered u m eSTATE ∧ u.dev = .ready ∧
        u.mode = .idle ∧ u.dunrel.txns = [])) ∧
    (CommitOf s m x t → s.dev = .running → modeOf c = s.mode → c ≠ 0 → (∀ w ∈ t.writes, w.index = 0x1011) →
      ∃ u, exec (.jobModeSwitch m) s = .next u ∧ Answered u m eOK ∧ u.mode = s.mode ∧ u.dev = s.dev ∧ u.job = s.job ∧
        u.mem = s.mem ∧ u.dunrel.txns = []) ∧
    (CommitOf s m x t → s.dev = .running → modeOf c ≠ s.mode → c ≠ 0 → (∀ w ∈ t.writes, w.index = 0x1011) →
      ∃ u, exec (.jobModeSwitch m) s = .next u ∧ Answered u m eSCHED ∧ u.mode = s.mode ∧ u.dev = s.dev ∧ u.dunrel.txns = []) ∧
    (CommitsLone s m x t → s.dev = .running → c ≠ 0 → t.imageCmd = 2 → (∀ w ∈ t.writes, w.index = 0x1011 ∨ w.index = 0x2001) →
      ∃ u, exec (.jobModeSwitch m) s = .next u ∧ Answered u m eDEFERRED ∧ reg u Obj.imageState = 4 ∧
        u.dunrel.txns = [{ committed s t with state := .checking }] ∧ RegsBut s u [Obj.imageState] ∧ u.mode = s.mode ∧
        u.dev = .running ∧ u.mem = s.mem) ∧
    (s.dev = .running → modeOf c ≠ .idle → modeOf c ≠ s.mode →
      (commitMode s t).mode = modeOf c ∧ (commitMode s t).dev = .running ∧ (commitMode s t).mem = s.mem ∧
      (commitMode s t).cores = s.cores ∧ (commitMode s t).job = s.job ∧
      (modeOf c = .serve → ∀ y ∈ (commitMode s t).num.slots, y.state = .current ∨ (y.state = .free ∧ y.refs = 0))) ∧
    (CommitOf s m x t → s.dev = .running → s.mode ≠ .idle → c = 0 →
      (∀ w ∈ t.writes, w.index = 0x1011 ∨ w.index = 0x1014) →
      (∀ n, t.scalar 0x1014 0 = some n → s.job.step ≤ n → ∃ u, exec (.jobEnd m) s = .next u ∧ Answered u m eDEFERRED ∧
        u.dunrel.txns = [{ committed s t with state := .due }] ∧ u.dev = .running ∧ u.mode = s.mode) ∧
      (∀ n, t.scalar 0x1014 0 = some n → n < s.job.step → ∃ u, exec (.jobEnd m) s = .next u ∧ Answered u m eRANGE ∧
        u.dunrel.txns = [] ∧ u.dev = .running ∧ u.mode = s.mode) ∧
      (t.touches 0x1014 = false → ∃ u, exec (.jobEnd m) s = .next u ∧ Answered u m eSTATE ∧ u.dunrel.txns = [] ∧
        u.dev = .running ∧ u.mode = s.mode)) ∧
    (s.dev = .running → s.mode ≠ .idle → c = 0 →
      (commitMode s t).dev = .ready ∧ (commitMode s t).mode = .idle ∧ (commitMode s t).mem = s.mem ∧
      CoresIdle (commitMode s t) ∧ (watchers s ≠ [] → ∃ w e, OutMsg.heartbeat w e ∈ (commitMode s t).sent ∧
        e.state = DeviceState.ready.code ∧ e.mode = 0))

/-- R489, R490: a LOAD in READY and a SWAP in RUNNING are answered with E_DEFERRED and their checks run. A checked LOAD that no rule
refuses is installed and IMAGE_STATE reads 2; one that is refused leaves no image, IMAGE_STATE 3 and E_SCHED in IMAGE_ERR. A checked SWAP
waits for its boundary, or ends with E_SCHED while the old image stands. -/
def Obligations.ImagesAreCheckedAndInstalled : Prop :=
  (∀ (s : State) (m : DReq) (x : Session) (t : Txn) (b : Byte), CommitsLone s m x t → 3 ≤ x.level →
    t.writes = [{ index := 0x2001, sub := 0, vals := [{ elem := 0, total := 1, segs := [(0, [b])] }] }] →
    (b = 1#8 → s.dev = .ready → ∃ u, exec (.imageLoad m) s = .next u ∧ Answered u m eDEFERRED ∧ reg u Obj.imageState = 1 ∧
      u.dunrel.txns = [{ committed s t with state := .checking }] ∧ RegsBut s u [Obj.imageState] ∧ u.mem = s.mem) ∧
    (b = 2#8 → s.dev = .running → ∃ u, exec (.imageSwap m) s = .next u ∧ Answered u m eDEFERRED ∧ reg u Obj.imageState = 4 ∧
      u.dunrel.txns = [{ committed s t with state := .checking }] ∧ RegsBut s u [Obj.imageState] ∧ u.mem = s.mem)) ∧
  ∀ (s : State) (t : Txn) (img : Image),
    (s.dunrel.txns.find? (fun t => t.state == .checking && t.imageCmd == 1) = some t → ∀ u, commitTxn s t = .ok u →
      (imageFault u (installLoad u img) img = none →
        exec (.imageLoadDone img) s = .next (settle (endTxn (setReg (installLoad u img) Obj.imageState 2) t eOK)) ∧
        (s.dunrel.txns = [t] → u.dunrel.txns = [] → ∃ v, exec (.imageLoadDone img) s = .next v ∧ v.dunrel.txns = [] ∧
          reg v Obj.imageState = 2 ∧ v.job = (installLoad u img).job ∧ v.num = (installLoad u img).num ∧
          v.kv = (installLoad u img).kv ∧ v.mem = (installLoad u img).mem)) ∧
      (imageFault u (installLoad u img) img ≠ none → s.dunrel.txns = [t] →
        ∃ v, exec (.imageLoadDone img) s = .next v ∧ reg v Obj.imageState = 3 ∧ v.job.streams = [] ∧
          reg v Obj.imageLoadedHash = 0 ∧ reg v Obj.kvPagesTotal = 0 ∧ reg v Obj.imageErr % 256 = eSCHED ∧
          (s.kv.seqTable = none → v.mem = s.mem) ∧ v.dunrel.txns = [])) ∧
    (s.dunrel.txns.find? (fun t => t.state == .checking && t.imageCmd == 2) = some t →
      (imageFault (writeAll s t) (installSwap (writeAll s t) img) img = none →
        ∃ v, exec (.imageSwapCheckDone img) s = .next v ∧ v.job = s.job ∧ v.num = s.num ∧ v.regs = s.regs ∧ v.mem = s.mem ∧
          v.dunrel.txns = s.dunrel.txns.map fun y => if y.handle = t.handle then { t with state := .due, image := some img } else y) ∧
      (imageFault (writeAll s t) (installSwap (writeAll s t) img) img ≠ none → s.dunrel.txns = [t] →
        ∃ v, exec (.imageSwapCheckDone img) s = .next v ∧ v.job = s.job ∧ v.num = s.num ∧ v.mem = s.mem ∧
          reg v Obj.imageErr % 256 = eSCHED ∧ v.dunrel.txns = []))

/-- R469, R488, R508, R537: writes outside a transaction of STATE_REQ, RESTORE_DEFAULTS and FW_CMD. A code of STATE_REQ that the present
state accepts begins its transition, that of the present state changes nothing, and one that it does not accept is answered with E_STATE;
RESTORE_DEFAULTS puts every retained object but those it spares at its default; FW_CMD checks or selects the inactive bank. What is done
is answered with OK and counts in TXN_COMMITTED. -/
def Obligations.RequestsOfStateDefaultsAndFirmware : Prop :=
  ∀ (s : State) (m : DReq) (x : Session),
    (s.power.trans = none →
      (PlainWrite s m x 0x1012 0 [1#8] →
        (s.dev = .ready → ∃ t, exec (.stateReqAsleep m) s = .next t ∧ CommittedOk s t m ∧
          t.power = { s.power with trans := some .asleep } ∧ t.dev = .ready ∧ RegsBut s t [Obj.stateReq, Obj.txnCommitted] ∧
          t.mem = s.mem ∧ t.cores = s.cores) ∧
        (s.dev = .asleep → ∃ t, exec (.stateReqAsleep m) s = .next t ∧ CommittedOk s t m ∧ t.power = s.power ∧ t.dev = .asleep ∧
          RegsBut s t [Obj.txnCommitted] ∧ t.mem = s.mem)) ∧
      (PlainWrite s m x 0x1012 0 [2#8] →
        (s.dev = .asleep ∨ (s.dev = .maint ∧ reg s Obj.fwState ≠ 2) → ∃ t, exec (.stateReqReady m) s = .next t ∧
          CommittedOk s t m ∧ t.power = { s.power with trans := some .ready } ∧ t.dev = s.dev ∧
          RegsBut s t [Obj.stateReq, Obj.txnCommitted] ∧ t.mem = s.mem ∧ t.cores = s.cores) ∧
        (s.dev = .ready → ∃ t, exec (.stateReqReady m) s = .next t ∧ CommittedOk s t m ∧ t.power = s.power ∧ t.dev = .ready ∧
          RegsBut s t [Obj.txnCommitted] ∧ t.mem = s.mem)) ∧
      (PlainWrite s m x 0x1012 0 [5#8] →
        (s.dev = .ready → ∃ t, exec (.stateReqMaint m) s = .next t ∧ CommittedOk s t m ∧
          t.power = { s.power with trans := some .maint } ∧ t.dev = .ready ∧ RegsBut s t [Obj.stateReq, Obj.txnCommitted] ∧
          t.mem = s.mem ∧ t.cores = s.cores) ∧
        (s.dev = .maint → ∃ t, exec (.stateReqMaint m) s = .next t ∧ CommittedOk s t m ∧ t.power = s.power ∧ t.dev = .maint ∧
          RegsBut s t [Obj.txnCommitted] ∧ t.mem = s.mem))) ∧
    (s.power.trans ≠ none ∨ s.dev = .running ∨ s.dev = .recovering ∨ s.dev = .faulted → PlainWrite s m x 0x1012 0 [1#8] →
      ∃ t, exec (.stateReqAsleep m) s = .next t ∧ Answered t m eSTATE ∧ t.power = s.power ∧ t.dev = s.dev ∧ t.mem = s.mem ∧
        RegsBut s t [Obj.txnAborted]) ∧
    (PlainWrite s m x 0x1013 0 [1#8] → s.dev = .ready ∨ s.dev = .maint → ∃ t, exec (.restoreDefaults m) s = .next t ∧
      CommittedOk s t m ∧ t.recov = { s.recov with storeDue := true } ∧ t.mem = s.mem ∧ t.dev = s.dev ∧
      ∀ k, k ≠ Obj.txnCommitted → reg t k =
        if retainedKey k = true ∧ keyIdx k ∉ [0x1030, 0x1031, 0x1005, 0x2010, 0x3020, 0x5405, 0x5406, 0x6000, 0x7033, 0x7050, 0x7051]
        then keyDefault k else reg s k) ∧
    (PlainWrite s m x 0x9013 0 [1#8] → s.dev = .maint → reg s Obj.fwState = 0 ∨ reg s Obj.fwState = 3 ∨ reg s Obj.fwState = 5 →
      ∃ t, exec (.fwCheck m) s = .next t ∧ CommittedOk s t m ∧ reg t Obj.fwState = 2 ∧
        RegsBut s t [Obj.fwState, Obj.txnCommitted] ∧ t.power = s.power ∧ t.mem = s.mem ∧ t.dev = .maint) ∧
    (PlainWrite s m x 0x9013 0 [2#8] → s.dev = .maint → reg s Obj.fwState = 3 →
      ∃ t, exec (.fwSelect m) s = .next t ∧ CommittedOk s t m ∧ reg t Obj.fwState = 4 ∧
        byteAt (bankRecord t (1 - reg s Obj.fwActive % 2)) 1 = 1 ∧
        RegsBut s t [Obj.fwState, Obj.fwBank + (1 - reg s Obj.fwActive % 2), Obj.txnCommitted] ∧ t.power = s.power ∧
        t.mem = s.mem ∧ t.dev = .maint)

/-- R387, R461, R469, R493, R512: writes outside a transaction of ACCESS_LIST, ENDPOINT and RESET_REQ, from OWNER. ACCESS_LIST and
ENDPOINT take their entry, without its reserved fields; the sessions of a key whose level the list lowers end; RESET_REQ is answered and the
reset follows. The answer is OK and counts in TXN_COMMITTED, but for a session that its own write has ended. -/
def Obligations.ListsEndpointsAndResetsAreWritten : Prop :=
  ∀ (s : State) (m : DReq) (x : Session),
    (∀ e b, PlainWrite s m x 0x1030 e b → e < 64 → b.length = 40 → byteAt b 32 ≤ 3 → ownerListed s = true →
      ∃ t, exec (.accessListWrite m) s = .next t ∧ reg t (Obj.accessList + e) = ofLE b % 2 ^ 264 ∧ t.mem = s.mem ∧
        t.cores = s.cores ∧ t.dev = s.dev ∧ reg t Obj.txnCommitted = (reg s Obj.txnCommitted + 1) % 2 ^ 64 ∧
        RegsBut s t [Obj.accessList + e, Obj.txnCommitted] ∧ (t.dunrel.sessions[m.sess] ≠ none → Answered t m eOK) ∧
        ∀ (i : Sess) y, s.dunrel.sessions[i] = some y →
          (t.dunrel.sessions[i] = none ↔
            listedLevel (setReg s (Obj.accessList + e) (ofLE b % 2 ^ 264)) y.key < listedLevel s y.key)) ∧
    (∀ e b, PlainWrite s m x 0x4900 e b → e < 1024 → b.length = 32 → (∀ c ∈ s.net.ctxs, c.peer ≠ .endpoint e) →
      ∃ t, exec (.endpointWrite m) s = .next t ∧ CommittedOk s t m ∧ t.net = s.net ∧ t.mem = s.mem ∧ t.cores = s.cores ∧
        reg t (Obj.endpoint + e) % 2 ^ 144 = ofLE b % 2 ^ 144 ∧ RegsBut s t [Obj.endpoint + e, Obj.txnCommitted]) ∧
    (PlainWrite s m x 0x8040 0 [1#8] → s.dev = .ready ∨ s.dev = .maint ∨ s.dev = .faulted → ∀ y,
      ∃ u, exec (.resetReq m y) s = .next (beginStart u (.warm 2) y) ∧ CommittedOk s u m ∧
        u = { s with sent := u.sent, egress := u.egress, regs := u.regs, dunrel := u.dunrel } ∧ RegsBut s u [Obj.txnCommitted])

/-! ### Module memory's condition, links, power and firmware -/

namespace Sys2Proof.Slice0
open Sys2Proof.Machine

/-- A fault counted under its code (R432). -/
def FaultCounted (s t : State) (code : Nat) : Prop :=
  reg t (Obj.faultCount + code) = (reg s (Obj.faultCount + code) + 1) % 2 ^ 32

/-- A module that has started: READY or FAULTED, with no job, session, transaction or pause, and its cause recorded. -/
def Started (t : State) (cause : Nat) : Prop :=
  (t.dev = .ready ∨ t.dev = .faulted) ∧ t.mode = .idle ∧ t.power.start = none ∧ t.power.pwrgd = true ∧
    t.dunrel.txns = [] ∧ t.dunrel.pauses = [] ∧ (∀ i : Sess, t.dunrel.sessions[i] = none) ∧ t.job.streams = [] ∧
    reg t Obj.resetCause = cause ∧ (t.dev = .ready → t.power.dormer = true ∧ t.power.reachedReady = true)

/-- A module whose rails are off: nothing runs, module memory is empty, PWRGD is low and no store write is under way. -/
def Dark (t : State) : Prop :=
  t.dev = .off ∧ t.mode = .idle ∧ t.mem = [] ∧ t.power.pwrgd = false ∧ t.power.dormer = false ∧ t.power.start = none ∧
    t.power.writing = none ∧ t.dunrel.txns = [] ∧ (∀ i : Sess, t.dunrel.sessions[i] = none) ∧ t.job.streams = []

/-- The two copies of the retained store stand. -/
def StoreKept (s t : State) : Prop := t.power.copyA = s.power.copyA ∧ t.power.copyB = s.power.copyB

end Sys2Proof.Slice0

/-- R336, R339, R341: a scrub read takes one granule of its channel and moves on by one, and changes no memory unless the granule is
mirrored; a channel off, asleep, retired or read to its end does nothing. A pass that has read the whole channel is counted, its
corrections are forgotten, and the next pass starts at 0. R350: a copy that ends retires its channel with the next reserve part. -/
def Sys2Proof.Slice0.ScrubbersReadInOrder : Prop :=
  ∀ (s : State) (c : Fin 128),
    (s.dev = .off ∨ s.dev = .asleep ∨ chanState s c.val = 2 ∨ scrubPos s c.val ≥ channelGranules →
      ∀ e m w, exec (.scrubRead c e m w) s = .next s) ∧
    (s.dev ≠ .off → s.dev ≠ .asleep → chanState s c.val ≠ 2 → scrubPos s c.val < channelGranules →
      s.ras.scrubAt.length = 128 → isMirrored s (granuleOf s c.val (scrubPos s c.val)) = false →
      ∀ e m w, ∃ t, exec (.scrubRead c e m w) s = .next t ∧ scrubPos t c.val = scrubPos s c.val + 1 ∧
        (∀ d : Fin 128, d ≠ c → scrubPos t d.val = scrubPos s d.val) ∧ t.mem = s.mem ∧ t.cores = s.cores ∧ t.job = s.job ∧
        t.dev = s.dev ∧ t.ras.lost = s.ras.lost) ∧
    (scrubPos s c.val < channelGranules → exec (.scrubPassEnd c) s = .next s) ∧
    (channelGranules ≤ scrubPos s c.val → ∃ t, exec (.scrubPassEnd c) s = .next t ∧ scrubPos t c.val = 0 ∧
      passCorrected t c.val = 0 ∧ reg t (Obj.scrubPasses + c.val) = (reg s (Obj.scrubPasses + c.val) + 1) % 2 ^ 32 ∧
      t.mem = s.mem ∧ t.cores = s.cores ∧ t.job = s.job ∧ t.dev = s.dev ∧
      (∀ d : Fin 128, d ≠ c → scrubPos t d.val = scrubPos s d.val ∧ passCorrected t d.val = passCorrected s d.val)) ∧
    (c.val ∉ s.ras.copying → exec (.retireCopyDone c) s = .next s) ∧
    (c.val ∈ s.ras.copying → ∃ t, exec (.retireCopyDone c) s = .next t ∧
      reg t (Obj.memChanState + c.val) = 2 ^ 15 + (retirements s).length % 8 * 2 ^ 11 ∧ c.val ∉ t.ras.copying ∧
      t.ras.lost = s.ras.lost ∧ t.mem = s.mem ∧ t.cores = s.cores ∧ t.dev = s.dev ∧ t.recov = { s.recov with storeDue := true })

/-- R347 to R349, R351: a channel that fails is retired at once with the next reserve part, fault code 0x0C; of the granules homed on it
those outside the reserve and outside mirrored pairs are lost, and no others become lost. With the reserve used up the module goes
FAULTED and the channel stays. A rebuild that completes is no longer awaited. -/
def Sys2Proof.Slice0.FailedChannelsAreRetired : Prop :=
  ∀ (s : State) (c : Fin 128),
    (∀ phy : Bool, (phy = false ∧ c.val ∉ s.ras.failing) ∨ chanState s c.val = 2 ∨ s.dev = .off →
      exec (.channelFailed c phy) s = .next s) ∧
    (∀ phy : Bool, phy = true ∨ c.val ∈ s.ras.failing → chanState s c.val ≠ 2 → s.dev ≠ .off →
      ∃ t, exec (.channelFailed c phy) s = .next t ∧ FaultCounted s t 0x0C ∧ t.mem = s.mem ∧ t.cores = s.cores ∧
        c.val ∉ t.ras.failing ∧
        (if (reg s Obj.retireReserve + 1) / 2 ≤ (retirements s).length then
          t.dev = .faulted ∧ reg t (Obj.memChanState + c.val) = reg s (Obj.memChanState + c.val) ∧ t.ras.lost = s.ras.lost
        else
          t.dev = s.dev ∧ reg t (Obj.memChanState + c.val) = 2 ^ 15 + (retirements s).length % 8 * 2 ^ 11 ∧
            (∀ g, g ∈ t.ras.lost ↔ g ∈ lostWith s c.val ∨ g ∈ s.ras.lost) ∧ reg t Obj.memLost = t.ras.lost.length ∧
            c.val ∈ t.ras.rebuilding)) ∧
    (∃ t, exec (.rebuildComplete c) s = .next t ∧ c.val ∉ t.ras.rebuilding ∧
      (∀ d, d ≠ c.val → (d ∈ t.ras.rebuilding ↔ d ∈ s.ras.rebuilding)) ∧
      t = { s with ras := { s.ras with rebuilding := t.ras.rebuilding } })

/-- The parts above: scrubbers read in order and failed channels are retired. -/
def Obligations.ScrubbingAndRetirement : Prop := Sys2Proof.Slice0.ScrubbersReadInOrder ∧ Sys2Proof.Slice0.FailedChannelsAreRetired

/-- R26, R427 (0x0A, 0x0B), R430: a flit that fails its check is replayed and counted; a failed lane takes a spare, and the third costs
the link; a lost link makes the module FAULTED only when a compute die reaches the hub die neither over its own link nor through a
neighbour. Memory, the cores and the schedule stand in every case. -/
def Sys2Proof.Slice0.LinksReplayRepairAndReroute : Prop :=
  ∀ (s : State) (k : Fin 8), s.ras.linkReplays.length = 8 → s.ras.linkLanes.length = 8 → s.dev ≠ .off →
    exec (.flitRx k true) s = .next s ∧
    (∃ t, exec (.flitRx k false) s = .next t ∧ FaultCounted s t 0x0A ∧ t.ras.linkReplays[k.val]? =
      (s.ras.linkReplays[k.val]?).map (· + 1) ∧ t.mem = s.mem ∧ t.cores = s.cores ∧ t.job = s.job ∧ t.dev = s.dev ∧
      t.ras = { s.ras with linkReplays := t.ras.linkReplays }) ∧
    (s.ras.linkLanes.getD k.val 0 < 2 → ∃ t, exec (.d2dLaneFail k) s = .next t ∧ FaultCounted s t 0x0A ∧
      t.ras.linkLanes[k.val]? = (s.ras.linkLanes[k.val]?).map (· + 1) ∧ t.mem = s.mem ∧ t.cores = s.cores ∧ t.job = s.job ∧
      t.dev = s.dev ∧ t.ras = { s.ras with linkLanes := t.ras.linkLanes }) ∧
    (2 ≤ s.ras.linkLanes.getD k.val 0 → exec (.d2dLaneFail k) s = exec (.d2dLinkLoss k) s) ∧
    (k.val ∈ s.ras.linksLost → exec (.d2dLinkLoss k) s = .next s) ∧
    (k.val ∉ s.ras.linksLost → ∃ t, exec (.d2dLinkLoss k) s = .next t ∧ FaultCounted s t 0x0B ∧
      t.ras = { s.ras with linksLost := k.val :: s.ras.linksLost } ∧ t.mem = s.mem ∧ t.cores = s.cores ∧ t.job = s.job ∧
      t.mode = s.mode ∧
      (t.dev = if ∀ d < 4, (4 + d ∉ k.val :: s.ras.linksLost) ∨
          (d ∉ k.val :: s.ras.linksLost ∧ 4 + (d + 1) % 4 ∉ k.val :: s.ras.linksLost) ∨
          ((d + 3) % 4 ∉ k.val :: s.ras.linksLost ∧ 4 + (d + 3) % 4 ∉ k.val :: s.ras.linksLost)
        then s.dev else .faulted))

/-- R314, R431, R427 (0x0E): a control core that misses its watchdog restarts the management complex: every session ends, open
transactions are aborted, MGMT_RESTARTS counts; the schedule, the cores, memory and the pauses go on. A signal that registers in the
same clock is a late acceptance. Service resumes when the restart is done. -/
def Sys2Proof.Slice0.ManagementRestartsAlone : Prop :=
  ∀ (s : State),
    (s.power.dormer = false → ∀ late, exec (.mgmtWdtExpiry late) s = .next s) ∧
    (s.power.dormer = true →
      (∃ t, exec (.mgmtWdtExpiry true) s = .next t ∧ reg t (Obj.lateAccept + 7) = (reg s (Obj.lateAccept + 7) + 1) % 2 ^ 32 ∧
        RegsBut s t [Obj.lateAccept + 7] ∧ t = { s with regs := t.regs }) ∧
      (∃ t, exec (.mgmtWdtExpiry false) s = .next t ∧ (∀ i : Sess, t.dunrel.sessions[i] = none) ∧
        reg t Obj.mgmtRestarts = (reg s Obj.mgmtRestarts + 1) % 2 ^ 32 ∧ FaultCounted s t 0x0E ∧
        t.power = { s.power with dormer := false, restarting := true } ∧ (∀ x ∈ t.dunrel.txns, x ∈ s.dunrel.txns) ∧
        t.dunrel.pauses = s.dunrel.pauses ∧ t.mem = s.mem ∧ t.cores = s.cores ∧ t.job = s.job ∧ t.num = s.num ∧ t.kv = s.kv ∧
        t.dev = s.dev ∧ t.mode = s.mode)) ∧
    (s.power.restarting = true →
      exec .dormerRestartDone s = .next { s with power := { s.power with dormer := true, restarting := false } }) ∧
    (s.power.restarting = false → exec .dormerRestartDone s = .next s)

/-- The parts above: die-to-die links reroute and the management complex restarts alone. -/
def Obligations.LinksAndManagementRecover : Prop :=
  Sys2Proof.Slice0.LinksReplayRepairAndReroute ∧ Sys2Proof.Slice0.ManagementRestartsAlone

/-- R509, R512, R514, R522: PWR_EN and the input start the module when nothing holds it, with memory initialised; RST_N low or an absent
reference holds the start at 20 ms. RST_N low begins a warm reset in every state but OFF, which keeps module memory; its release goes
on with the start that waits. PWR_EN deasserted writes the retained store and turns the rails off. -/
def Sys2Proof.Slice0.StartsAndStopsFollowTheirPins : Prop :=
  ∀ (s : State) (x : StartRun), s.MemOk →
    (s.power.pwrEn = true → exec (.coldStart x) s = .next s) ∧
    (s.power.pwrEn = false → s.dev = .off → s.power.start = none → s.power.locked = false → s.power.inputOk = true →
      s.power.awaitInput = false →
      ∃ t, exec (.coldStart x) s = .next t ∧ t.power.pwrEn = true ∧ t.mem = [] ∧
        (if s.power.rstLow = false ∧ s.power.refs = 3 then Started t s.power.cause
         else t.dev = .off ∧ t.power.start = some .cold)) ∧
    (s.power.pwrEn = false → s.power.locked = true ∨ s.power.inputOk = false ∨ s.power.awaitInput = true →
      exec (.coldStart x) s = .next { s with power := { s.power with pwrEn := true } }) ∧
    (s.power.pwrEn = true → s.dev = .off → s.power.start = none → s.power.locked = false → s.power.rstLow = false →
      s.power.refs = 3 → ∃ t, exec (.inputInRange x) s = .next t ∧ t.power.inputOk = true ∧ t.power.awaitInput = false ∧
        t.mem = [] ∧ Started t s.power.cause) ∧
    (s.power.pwrEn = false → exec (.inputInRange x) s =
      .next { s with power := { s.power with inputOk := true, awaitInput := false } }) ∧
    (s.dev ≠ .off → ∃ t, exec .rstNAssert s = .next t ∧ t.dev = .off ∧ t.power.start = some (.warm 1) ∧ t.power.rstLow = true ∧
      (∀ a < memEnd, memGet t.mem a = memGet s.mem a) ∧ (∀ i : Sess, t.dunrel.sessions[i] = none) ∧ t.dunrel.txns = []) ∧
    (s.dev = .off → exec .rstNAssert s = .next { s with power := { s.power with rstLow := true } }) ∧
    (∀ n, s.power.start = some (.warm n) → s.power.refs = 3 → ∃ t, exec (.rstNRelease x) s = .next t ∧ Started t n ∧
      t.power.rstLow = false ∧ (∀ a < memEnd, memGet t.mem a = memGet s.mem a)) ∧
    (∀ n, s.power.start = some (.warm n) → s.power.rstLow = false → ∃ t, exec (.referencePresent x) s = .next t ∧ Started t n ∧
      t.power.refs = 3 ∧ (∀ a < memEnd, memGet t.mem a = memGet s.mem a)) ∧
    (s.power.start = none → exec (.rstNRelease x) s = .next { s with power := { s.power with rstLow := false } }) ∧
    (s.dev ≠ .off → ∃ t, exec .stop s = .next t ∧ Dark t ∧ t.power.pwrEn = false ∧ t.power.cause = 0 ∧
      (if (nextCopy (endStore s)).1 = true then t.power.copyB else t.power.copyA) =
        some { seq := (nextCopy (endStore s)).2, vals := storeVals (endStore s) } ∧
      reg t Obj.securityVersion = reg s Obj.securityVersion ∧ reg t Obj.fwActive = reg s Obj.fwActive)

/-- R505, R506, R515, R521, R522, R534: a thermal trip, an input out of range and an over-current shut the module down: rails off, memory
lost, the cause held, the retained store as the last completed write left it, and a cold start held as R522 says. A rail fault makes
it FAULTED and loses memory; a lost reference makes it FAULTED and keeps memory; a failed noise source is noted. -/
def Sys2Proof.Slice0.PowerFaultsShutDownOrFault : Prop :=
  ∀ (s : State),
    (s.dev ≠ .off → ∀ (z : Fin 6) (v : W32), w32Lt v (BitVec.ofNat 32 (reg s Obj.thermalTrip)) = false →
      ∃ t, exec (.thermalTrip z v) s = .next t ∧ Dark t ∧ StoreKept s t ∧ t.power.cause = 3 ∧ t.power.locked = true ∧
        t.power.alertHeld = true) ∧
    (∀ (z : Fin 6) (v : W32), s.dev = .off ∨ w32Lt v (BitVec.ofNat 32 (reg s Obj.thermalTrip)) = true →
      exec (.thermalTrip z v) s = .next s) ∧
    (s.dev ≠ .off → ∀ b, ∃ t, exec (.inputVoltageFault b) s = .next t ∧ Dark t ∧ StoreKept s t ∧
      t.power.cause = (if b then 0 else 4) ∧ t.power.locked = false ∧ t.power.awaitInput = true ∧ t.power.inputOk = false) ∧
    (s.dev ≠ .off → ∃ t, exec .inputOvercurrent s = .next t ∧ Dark t ∧ StoreKept s t ∧ t.power.cause = 5 ∧
      t.power.locked = true) ∧
    (s.dev ≠ .off → ∃ t, exec .railFault s = .next t ∧ t.dev = .faulted ∧ t.mem = [] ∧ t.power.pwrgd = false ∧
      FaultCounted s t 0x13 ∧ StoreKept s t ∧ t.power.dormer = s.power.dormer ∧ t.cores = s.cores) ∧
    (s.dev = .ready ∨ s.dev = .running ∨ s.dev = .recovering ∨ s.dev = .maint → ∀ fast, ∃ t,
      exec (.referenceLoss fast) s = .next t ∧ t.dev = .faulted ∧ t.mem = s.mem ∧ t.cores = s.cores ∧ FaultCounted s t 0x13 ∧
      (∀ y ∈ t.dunrel.txns, y.waits = false) ∧ bitOf t.power.refs (if fast then 1 else 0) = false ∧
      (fast = true → reg t Obj.linkState = 0)) ∧
    (s.dev = .off → ∀ fast, ∃ t, exec (.referenceLoss fast) s = .next t ∧ t = { s with power := t.power }) ∧
    (s.dev ≠ .off → exec .noiseHealthFail s = .next { s with power := { s.power with noiseBad := true } }) ∧
    (s.dev = .off → exec .railFault s = .next s ∧ exec .noiseHealthFail s = .next s ∧
      (s.power.start = none → exec .inputOvercurrent s = .next s))

/-- The parts above: starts and stops follow their pins, and power faults shut the module down or fault it. -/
def Obligations.PowerFollowsPinsAndFaults : Prop :=
  Sys2Proof.Slice0.StartsAndStopsFollowTheirPins ∧ Sys2Proof.Slice0.PowerFaultsShutDownOrFault

/-- R507, R508: a transition that completes moves the device state and nothing else ends: ASLEEP loses Thatch, local SRAM and every image
and keeps module memory; on leaving it a channel that still fails is retired; MAINT and READY lose nothing. With no transition in
progress nothing happens. -/
def Sys2Proof.Slice0.TransitionsMoveTheDeviceState : Prop :=
  ∀ (s : State), s.MemOk →
    (s.power.trans = none → ∀ bad, exec (.stateTransitionDone bad) s = .next s) ∧
    (s.power.trans = some .asleep → s.dev = .ready → ∀ bad, ∃ t, exec (.stateTransitionDone bad) s = .next t ∧ t.dev = .asleep ∧
      (∀ a < memEnd, memGet t.mem a = memGet s.mem a) ∧ (∀ a, memEnd ≤ a → memGet t.mem a = 0#8) ∧
      reg t Obj.imageState = 0 ∧ t.job.streams = [] ∧ t.power = { s.power with trans := none }) ∧
    (s.power.trans = some .maint → s.dev = .ready → ∀ bad, ∃ t, exec (.stateTransitionDone bad) s = .next t ∧ t.dev = .maint ∧
      t.mem = s.mem ∧ t.cores = s.cores ∧ t.job = s.job ∧ t.power = { s.power with trans := none }) ∧
    (s.power.trans = some .ready → s.dev = .maint → ∀ bad, ∃ t, exec (.stateTransitionDone bad) s = .next t ∧ t.dev = .ready ∧
      t.mem = s.mem ∧ t.cores = s.cores ∧ t.job = s.job ∧ t.power = { s.power with trans := none }) ∧
    (s.power.trans = some .ready → s.dev = .asleep → ∀ bad, ∃ t, exec (.stateTransitionDone bad) s = .next t ∧
      (∀ c ∈ bad, chanState t c.val = 2) ∧ (∀ c : Fin 128, c ∉ bad → chanState t c.val = chanState s c.val) ∧
      (t.dev = if dieLost t = true then .faulted else .ready) ∧ t.mem = s.mem ∧ t.power = { s.power with trans := none }) ∧
    (s.dev = .faulted → ∀ d, s.power.trans = some d → ∀ bad, exec (.stateTransitionDone bad) s =
      .next { s with power := { s.power with trans := none } })

/-- R499: a store write takes the copy that the next write is due to, leaves the other, and the copy counts once it is complete, with its
SEQ in RETAINED_SEQ. R527, R532, R537: a committed part is programmed into the inactive bank and never into the bank that runs, the
check of that bank ends in READY or FAILED, and the security version only follows the firmware that runs. -/
def Sys2Proof.Slice0.StoreAndFirmwareAreWritten : Prop :=
  ∀ (s : State),
    (s.dev ≠ .off → ∀ b c, s.power.writing = some (b, c) → ∃ t, exec .storeWrite s = .next t ∧ reg t Obj.retainedSeq = c.seq ∧
      t.power.writing = none ∧ (if b then t.power.copyB else t.power.copyA) = some c ∧
      (if b then t.power.copyA else t.power.copyB) = (if b then s.power.copyA else s.power.copyB) ∧
      RegsBut s t [Obj.retainedSeq] ∧ t = { s with regs := t.regs, power := t.power }) ∧
    (s.dev ≠ .off → s.power.writing = none → s.recov.storeDue = false → exec .storeWrite s = .next s) ∧
    (s.dev ≠ .off → s.power.writing = none → elapsed s s.power.storeAt 60000000000 = true →
      ∃ t, exec .storeWriteTimer s = .next t ∧
        t.power.writing = some ((nextCopy s).1, { seq := (nextCopy s).2, vals := storeVals s }) ∧ t.power.storeAt = s.clk ∧
        (if (nextCopy s).1 then t.power.copyA else t.power.copyB) = (if (nextCopy s).1 then s.power.copyA else s.power.copyB) ∧
        t = { s with power := t.power, recov := { s.recov with storeDue := false } }) ∧
    (elapsed s s.power.storeAt 60000000000 = false → exec .storeWriteTimer s = .next s) ∧
    (∀ e b rest, s.power.program = (e, b) :: rest → (∀ m, bankOf' s (inactiveBank s) = .staged m → Memory.wf m = true) → ∃ t m, exec .fwProgramDone s = .next t ∧
      bankOf' t (inactiveBank s) = .staged m ∧ (∀ i < b.length, memGet m (e * 1048576 + i) = b.getD i 0#8) ∧
      bankOf' t (1 - inactiveBank s) = bankOf' s (1 - inactiveBank s) ∧ t.power.program = rest ∧ t = { s with power := t.power }) ∧
    (s.power.program = [] → exec .fwProgramDone s = .next s) ∧
    (reg s Obj.fwState ≠ 2 → exec .fwCheckDone s = .next s) ∧
    (reg s Obj.fwState = 2 → ∃ t, exec .fwCheckDone s = .next t ∧
      reg t Obj.fwState = (if (checkBank s (inactiveBank s)).2 = 0 then 3 else 5) ∧
      RegsBut s t [Obj.fwState, Obj.fwBank + inactiveBank s] ∧ t = { s with regs := t.regs }) ∧
    (s.power.dormer = true → s.power.reachedReady = true → securityVersion s < runningSvn s → ∃ t, exec .antiRollback s = .next t ∧
      reg t Obj.securityVersion = min 64 (runningSvn s) ∧ RegsBut s t [Obj.securityVersion] ∧ t = { s with regs := t.regs }) ∧
    (s.power.dormer = false ∨ s.power.reachedReady = false ∨ runningSvn s ≤ securityVersion s → exec .antiRollback s = .next s)

/-- The parts above: state transitions, the retained store and the firmware banks. -/
def Obligations.TransitionsStoreAndFirmware : Prop :=
  Sys2Proof.Slice0.TransitionsMoveTheDeviceState ∧ Sys2Proof.Slice0.StoreAndFirmwareAreWritten

/-- R517, R519, R520: an update shows what Purlin measured, and the activity cap moves by at most 4 and stays from 16 to 80; above
POWER_LIMIT it falls. Memory and the schedule stand. -/
def Obligations.TelemetryUpdatesAndTheCapMoves : Prop :=
  ∀ (s : State) (x : Telemetry), 
    (s.dev = .off → ∀ ends, exec (.telemetryUpdate x ends) s = .next s) ∧
    (s.dev ≠ .off → ∃ t, exec (.telemetryUpdate x []) s = .next t ∧ reg t Obj.inputVoltage = x.voltage.toNat ∧
      reg t Obj.inputCurrent = x.current.toNat ∧ reg t Obj.modulePower = x.power.toNat ∧
      reg t Obj.energy = (reg s Obj.energy + x.joules) % 2 ^ 64 ∧
      (∀ z : Fin 6, reg t (Obj.temp + z.val) = (x.temps.getD z.val (tempOf s z.val)).toNat) ∧
      t.mem = s.mem ∧ t.cores = s.cores ∧ t.job = s.job ∧ t.dev = s.dev ∧
      (16 ≤ s.power.cap → s.power.cap ≤ 80 → (∀ h, s.power.held = some h → 16 ≤ h ∧ h ≤ 80) →
        16 ≤ t.power.cap ∧ t.power.cap ≤ 80 ∧ s.power.cap ≤ t.power.cap + 4 ∧ t.power.cap ≤ s.power.cap + 4 ∧
        (w32Lt (BitVec.ofNat 32 (reg s Obj.powerLimit)) x.power = true → t.power.cap = max 16 (s.power.cap - 4))))

/-- R227: a 32-bit word a gives the uniform W32 value u = (2 × (a >> 9) + 1) × 2^−24, exactly; it lies in [2^−24, 1 − 2^−24] and is
never 0 or 1. -/
def Obligations.UniformValuesAreExactOddMultiples : Prop :=
  ∀ (x : Draw) (i : Nat), ∃ u, w32Val (fillVariate x 0 i) = .fin false u ∧
    u.toQ.n * 2 ^ 24 = (2 * ((x.word i >>> 9).toNat : Int) + 1) * u.toQ.d ∧
    u.toQ.d ≤ u.toQ.n * 2 ^ 24 ∧ u.toQ.n * 2 ^ 24 ≤ (2 ^ 24 - 1) * u.toQ.d ∧ 0 < u.toQ.n ∧ u.toQ.n < u.toQ.d

/-- R44, R45, R72, R74, R557: rounding to nearest is exact on what a format represents: the magnitude of every finite code of W32, W16, K8
and L8 rounds to that code, and every finite W32 word is the rounding of its own value with its own sign of zero. -/
def Obligations.RepresentableValuesRoundToThemselves : Prop :=
  (∀ f ∈ [fmtW32, fmtW16, fmtK8, fmtL8], ∀ c ≤ f.maxCode, f.roundNear (f.mag c).toQ = c) ∧
  (∀ (x : W32) (neg : Bool) (v : Dy), w32Val x = .fin neg v → roundDy v neg = x)

end
end

