-- ==== Sys2Proof/Laws/Memory.lean ====
section
/-!
SUPPORT. The laws of memory as a list of cells: what a read gives after a write, and that every operation keeps the
canonical form.
-/
namespace Sys2Proof.Machine

theorem memSorted_mono {m : Mem} {a b : Nat} (h : memSorted b m = true) (hab : a ≤ b) : memSorted a m = true := by
  cases m with
  | nil => rfl
  | cons c r => simp only [memSorted, Bool.and_eq_true, decide_eq_true_eq] at h ⊢; exact ⟨⟨by omega, h.1.2⟩, h.2⟩

theorem memSet_sorted {m : Mem} {lo a : Nat} (v : Byte) (h : memSorted lo m = true) (ha : lo ≤ a) :
    memSorted lo (memSet m a v) = true := by
  induction m generalizing lo with
  | nil => unfold memSet; split <;> simp_all [memSorted]
  | cons c r ih =>
    obtain ⟨k, b⟩ := c
    simp only [memSorted, Bool.and_eq_true, decide_eq_true_eq] at h
    simp only [memSet]
    split
    · split
      · simp [memSorted, h]
      · rename_i h1 h2
        simp only [memSorted, Bool.and_eq_true, decide_eq_true_eq]
        exact ⟨⟨ha, h2⟩, ⟨by omega, h.1.2⟩, h.2⟩
    · split
      · split
        · exact memSorted_mono h.2 (by omega)
        · rename_i _ h1 h2
          simp only [memSorted, Bool.and_eq_true, decide_eq_true_eq]
          exact ⟨⟨ha, h2⟩, h1 ▸ h.2⟩
      · simp only [memSorted, Bool.and_eq_true, decide_eq_true_eq]
        exact ⟨h.1, ih h.2 (by omega)⟩

/-- Storing a byte keeps the canonical form. -/
theorem memSet_wf {m : Mem} (a : Nat) (v : Byte) (h : Memory.wf m = true) : Memory.wf (memSet m a v) = true :=
  memSet_sorted v h (Nat.zero_le a)

/-- Storing consecutive bytes keeps the canonical form. -/
theorem memWrite_wf {m : Mem} (a : Nat) (b : List Byte) (h : Memory.wf m = true) : Memory.wf (memWrite m a b) = true := by
  induction b generalizing m a with
  | nil => exact h
  | cons x r ih => exact ih _ (memSet_wf a x h)

theorem filter_sorted {m : Mem} {lo : Nat} (p : Host.Cell → Bool) (h : memSorted lo m = true) :
    memSorted lo (m.filter p) = true := by
  induction m generalizing lo with
  | nil => rfl
  | cons c r ih =>
    obtain ⟨k, b⟩ := c
    simp only [memSorted, Bool.and_eq_true, decide_eq_true_eq] at h
    simp only [List.filter_cons]
    split
    · simp only [memSorted, Bool.and_eq_true, decide_eq_true_eq]; exact ⟨h.1, ih h.2⟩
    · exact memSorted_mono (ih h.2) (by omega)

/-- Dropping cells keeps the canonical form. -/
theorem filter_wf {m : Mem} (p : Host.Cell → Bool) (h : Memory.wf m = true) : Memory.wf (m.filter p) = true :=
  filter_sorted p h

/-- Clearing a span keeps the canonical form. -/
theorem memClear_wf {m : Mem} (a n : Nat) (h : Memory.wf m = true) : Memory.wf (memClear m a n) = true :=
  filter_wf _ h

/-- Copying a span keeps the canonical form. -/
theorem memCopy_wf {m : Mem} (src dst n : Nat) (h : Memory.wf m = true) : Memory.wf (memCopy m src dst n) = true := by
  have hf : ∀ (l : List Host.Cell) (t : Mem), Memory.wf t = true →
      Memory.wf (l.foldl (fun t c => memSet t (c.1 - src + dst) c.2) t) = true := by
    intro l
    induction l with
    | nil => intro t ht; exact ht
    | cons c r ih => intro t ht; exact ih _ (memSet_wf _ _ ht)
  exact hf _ _ (filter_wf _ h)

/-! ### What a read gives after a write -/

theorem memGet_below {m : Mem} {lo a : Nat} (h : memSorted lo m = true) (ha : a < lo) : memGet m a = 0#8 := by
  cases m with
  | nil => rfl
  | cons c r =>
    obtain ⟨k, b⟩ := c
    simp only [memSorted, Bool.and_eq_true, decide_eq_true_eq] at h
    simp only [memGet]; rw [if_pos (by omega)]

theorem memGet_memSet_sorted {m : Mem} {lo : Nat} (a x : Nat) (v : Byte) (h : memSorted lo m = true) :
    memGet (memSet m a v) x = if x = a then v else memGet m x := by
  induction m generalizing lo with
  | nil =>
    simp only [memSet]
    by_cases hv : v = 0#8
    · simp [hv, memGet]
    · rw [if_neg hv]; simp only [memGet]
      split
      · rw [if_neg (by omega)]
      · split <;> rfl
  | cons c r ih =>
    obtain ⟨k, b⟩ := c
    simp only [memSorted, Bool.and_eq_true, decide_eq_true_eq] at h
    simp only [memSet]
    by_cases h1 : a < k
    · rw [if_pos h1]
      by_cases hv : v = 0#8
      · rw [if_pos hv]
        by_cases hx : x = a
        · subst hx; rw [if_pos rfl, hv]; simp only [memGet]; rw [if_pos h1]
        · rw [if_neg hx]
      · rw [if_neg hv]
        simp only [memGet]
        by_cases hx : x = a
        · subst hx; rw [if_neg (by omega), if_pos rfl]
        · rw [if_neg hx]
          by_cases hlt : x < a
          · rw [if_pos hlt, if_pos (by omega)]
          · rw [if_neg hlt]
    · rw [if_neg h1]
      by_cases h2 : a = k
      · subst h2
        rw [if_pos rfl]
        by_cases hv : v = 0#8
        · rw [if_pos hv]
          by_cases hx : x = a
          · subst hx; rw [if_pos rfl, hv]; exact memGet_below h.2 (by omega)
          · rw [if_neg hx]; simp only [memGet]
            by_cases hlt : x < a
            · rw [if_pos hlt]; exact memGet_below h.2 (by omega)
            · rw [if_neg hlt, if_neg hx]
        · rw [if_neg hv]; simp only [memGet]
          by_cases hx : x = a
          · subst hx; simp
          · simp only [if_neg hx]
      · rw [if_neg h2]
        simp only [memGet]
        by_cases hlt : x < k
        · rw [if_pos hlt, if_pos hlt, if_neg (by omega)]
        · rw [if_neg hlt, if_neg hlt]
          by_cases hx : x = k
          · rw [if_pos hx, if_pos hx, if_neg (by omega)]
          · rw [if_neg hx, if_neg hx]; exact ih h.2

/-- A byte read after a byte was stored. -/
theorem memGet_memSet {m : Mem} (a x : Nat) (v : Byte) (h : Memory.wf m = true) :
    memGet (memSet m a v) x = if x = a then v else memGet m x := memGet_memSet_sorted a x v h

/-- A byte outside the bytes stored is unchanged. -/
theorem memGet_memWrite_outside {m : Mem} (a x : Nat) (b : List Byte) (h : Memory.wf m = true)
    (hx : x < a ∨ a + b.length ≤ x) : memGet (memWrite m a b) x = memGet m x := by
  induction b generalizing m a with
  | nil => rfl
  | cons v r ih =>
    simp only [List.length_cons] at hx
    rw [memWrite, ih _ (memSet_wf _ _ h) (by omega), memGet_memSet _ _ _ h, if_neg (by omega)]

/-- A byte among the bytes stored is the one stored there. -/
theorem memGet_memWrite_inside {m : Mem} (a i : Nat) (b : List Byte) (h : Memory.wf m = true) (hi : i < b.length) :
    memGet (memWrite m a b) (a + i) = b[i] := by
  induction b generalizing m a i with
  | nil => simp at hi
  | cons v r ih =>
    cases i with
    | zero =>
      rw [memWrite, memGet_memWrite_outside _ _ _ (memSet_wf _ _ h) (by omega), memGet_memSet _ _ _ h]; simp
    | succ i =>
      have := ih (a + 1) i (memSet_wf a v h) (by simpa using hi)
      rw [memWrite, show a + (i + 1) = a + 1 + i by omega, this]; rfl

end Sys2Proof.Machine
end

