-- ==== Sys2Proof/Laws/Keeps.lean ====
section
/-!
SUPPORT. What no operation of the model does: `Keeps r s` says that s came from r without touching the queue, the clock
or the order code, without drawing a free value twice or taking back a message, with memory and the register list
still in canonical form, and with job mode and device state in agreement. Each operation has its lemma in the files Laws/Keeps*.lean.
-/
namespace Sys2Proof.Machine

/-- What every operation leaves as it was, from state r to state s. -/
structure Keeps (r s : State) : Prop where
  pending : s.pending = r.pending
  part : s.part = r.part
  clk : s.clk = r.clk
  fresh : r.fresh ≤ s.fresh
  sent : r.sent <:+ s.sent
  mem : r.MemOk → s.MemOk
  regs : r.RegsOk → s.RegsOk
  job : r.JobOk → s.JobOk

theorem Keeps.refl (s : State) : Keeps s s :=
  ⟨rfl, rfl, rfl, Nat.le_refl _, List.suffix_rfl, id, id, id⟩

theorem Keeps.trans {a b c : State} (h : Keeps a b) (k : Keeps b c) : Keeps a c :=
  ⟨k.pending.trans h.pending, k.part.trans h.part, k.clk.trans h.clk, Nat.le_trans h.fresh k.fresh,
    h.sent.trans k.sent, k.mem ∘ h.mem, k.regs ∘ h.regs, k.job ∘ h.job⟩

/-- A record update of fields that `Keeps` does not mention. -/
theorem Keeps.mk_iff {r x : State} {cores : Vector CoreState 128}
    {num : NumState} {kv : KvState} {job : JobState} {dunrel : DunrelState} {ras : RasState} {net : NetState}
    {recov : RecovState} {power : PowerState} {egress : EgressState} :
    Keeps r ⟨x.pending, x.clk, x.part, x.dev, x.mode, x.fresh, x.regs, x.mem, cores, num, kv, job, dunrel, ras, net,
      recov, power, x.sent, egress⟩ ↔ Keeps r x :=
  ⟨fun h => ⟨h.pending, h.part, h.clk, h.fresh, h.sent, h.mem, h.regs, h.job⟩,
    fun h => ⟨h.pending, h.part, h.clk, h.fresh, h.sent, h.mem, h.regs, h.job⟩⟩

/-- FAULTED agrees with every job mode. -/
theorem modesAgree_faulted (m : JobMode) : modesAgree .faulted m := ⟨by simp, by simp⟩

/-- A state without a job agrees with IDLE. -/
theorem modesAgree_idle {d : DeviceState} (h : d ≠ .running) (k : d ≠ .recovering) : modesAgree d .idle :=
  ⟨fun x => (x.elim h k).elim, fun x => (x rfl).elim⟩

/-- RUNNING and RECOVERING agree with every mode but IDLE. -/
theorem modesAgree_job {d : DeviceState} {m : JobMode} (h : m ≠ .idle) (k : d = .running ∨ d = .recovering) : modesAgree d m :=
  ⟨fun _ => h, fun _ => k.elim .inl fun x => .inr (.inl x)⟩

/-- Outside RUNNING, RECOVERING and FAULTED the mode is IDLE. -/
theorem modesAgree.idle {d : DeviceState} {m : JobMode} (h : modesAgree d m) (h1 : d ≠ .running) (h2 : d ≠ .recovering)
    (h3 : d ≠ .faulted) : m = .idle := by
  by_cases e : m = .idle
  · exact e
  · rcases h.2 e with x | x | x <;> contradiction

/-- Job mode and device state changed, to a pair that agrees. -/
theorem Keeps.setMode {r x : State} (h : Keeps r x) {d : DeviceState} {m : JobMode}
    (hj : r.JobOk → modesAgree x.dev x.mode → modesAgree d m) : Keeps r { x with dev := d, mode := m } :=
  ⟨h.pending, h.part, h.clk, h.fresh, h.sent, h.mem, h.regs, fun k => hj k (h.job k)⟩

/-- A record update that changes memory and registers as well, by operations that keep their forms. -/
theorem Keeps.update {r x : State} (h : Keeps r x) {m : Mem} {l : List (Nat × Nat)} (hm : x.MemOk → Memory.wf m = true)
    (hl : x.RegsOk → l.Pairwise fun a b => a.1 < b.1) 
    {cores : Vector CoreState 128} {num : NumState} {kv : KvState} {job : JobState} {dunrel : DunrelState} {ras : RasState}
    {net : NetState} {recov : RecovState} {power : PowerState} {egress : EgressState} :
    Keeps r ⟨x.pending, x.clk, x.part, x.dev, x.mode, x.fresh, l, m, cores, num, kv, job, dunrel, ras, net, recov, power,
      x.sent, egress⟩ :=
  ⟨h.pending, h.part, h.clk, h.fresh, h.sent, fun k => hm (h.mem k), fun k => hl (h.regs k), h.job⟩

/-- A record update of memory by an operation that keeps its form. -/
theorem Keeps.setMem {r x : State} {m : Mem} (h : Keeps r x) (hm : x.MemOk → Memory.wf m = true) :
    Keeps r { x with mem := m } :=
  ⟨h.pending, h.part, h.clk, h.fresh, h.sent, fun k => hm (h.mem k), h.regs, h.job⟩

/-- Bytes stored. -/
theorem Keeps.store {r x : State} {a : Nat} {b : List Byte} (h : Keeps r x) :
    Keeps r { x with mem := memWrite x.mem a b } := h.setMem fun k => memWrite_wf a b k

/-- A detour over another memory, after which the memory is put back. -/
theorem Keeps.swap {r s t : State} {m : Mem} (h : Keeps r s) (k : Keeps { s with mem := m } t) :
    Keeps r { t with mem := s.mem } :=
  ⟨k.pending.trans h.pending, k.part.trans h.part, k.clk.trans h.clk, Nat.le_trans h.fresh k.fresh,
    h.sent.trans k.sent, h.mem, fun j => k.regs (h.regs j), fun j => k.job (h.job j)⟩

theorem regPut_lower {l : List (Nat × Nat)} {x v k : Nat} (h : ∀ p ∈ l, k < p.1) (hk : k < x) :
    ∀ p ∈ regPut l x v, k < p.1 := by
  induction l with
  | nil => intro p hp; simp only [regPut, List.mem_singleton] at hp; subst hp; exact hk
  | cons c r ih =>
    obtain ⟨a, u⟩ := c
    intro p hp
    simp only [regPut] at hp
    split at hp
    · rcases List.mem_cons.mp hp with rfl | hp
      · exact hk
      · exact h p hp
    · split at hp
      · rcases List.mem_cons.mp hp with rfl | hp
        · exact hk
        · exact h p (List.mem_cons_of_mem _ hp)
      · rcases List.mem_cons.mp hp with rfl | hp
        · exact h _ List.mem_cons_self
        · exact ih (fun q hq => h q (List.mem_cons_of_mem _ hq)) p hp

/-- Listing a register keeps the keys rising. -/
theorem regPut_rises {l : List (Nat × Nat)} (x v : Nat) (h : l.Pairwise fun a b => a.1 < b.1) :
    (regPut l x v).Pairwise fun a b => a.1 < b.1 := by
  induction l with
  | nil => simp [regPut]
  | cons c r ih =>
    obtain ⟨a, u⟩ := c
    rw [List.pairwise_cons] at h
    simp only [regPut]
    split
    · rename_i hx
      refine List.pairwise_cons.mpr ⟨?_, List.pairwise_cons.mpr h⟩
      intro p hp
      rcases List.mem_cons.mp hp with rfl | hp
      · exact hx
      · exact Nat.lt_trans hx (h.1 p hp)
    · split
      · rename_i _ hx
        subst hx
        exact List.pairwise_cons.mpr h
      · exact List.pairwise_cons.mpr ⟨regPut_lower h.1 (by omega), ih h.2⟩

/-- A record update of the registers by an operation that keeps them in order. -/
theorem Keeps.setRegs {r x : State} {l : List (Nat × Nat)} (h : Keeps r x)
    (hl : x.RegsOk → l.Pairwise fun a b => a.1 < b.1) : Keeps r { x with regs := l } :=
  ⟨h.pending, h.part, h.clk, h.fresh, h.sent, h.mem, fun k => hl (h.regs k), h.job⟩

/-- A choice: what holds of the state that stands otherwise may be used for the state that is taken. -/
theorem Keeps.ite {r a b : State} {c : Prop} [Decidable c] (k : Keeps r b) (h : Keeps r b → Keeps r a) :
    Keeps r (if c then a else b) := by
  split
  · exact h k
  · exact k

theorem Keeps.foldl {α : Type} {r s : State} {f : State → α → State} {l : List α}
    (hf : ∀ t x, Keeps r t → Keeps r (f t x)) (h : Keeps r s) : Keeps r (l.foldl f s) := by
  induction l generalizing s with
  | nil => exact h
  | cons x l ih => exact ih (hf s x h)

theorem Keeps.map_getD {α : Type} {r s : State} {o : Option α} {f : α → State} (hf : ∀ a, Keeps r (f a))
    (h : Keeps r s) : Keeps r ((o.map f).getD s) := by
  cases o with
  | none => exact h
  | some a => exact hf a

/-- The same of a state with a value beside it. -/
def KeepsP {β : Type} (r : State) (p : State × β) : Prop := Keeps r p.1

theorem KeepsP.mk {β : Type} {r a : State} {b : β} (h : Keeps r a) : KeepsP r (a, b) := h

theorem KeepsP.fst {β : Type} {r : State} {p : State × β} (h : KeepsP r p) : Keeps r p.1 := h

theorem KeepsP.ite {β : Type} {r : State} {a b : State × β} {c : Prop} [Decidable c] (k : KeepsP r b)
    (h : KeepsP r b → KeepsP r a) : KeepsP r (if c then a else b) := by
  split
  · exact h k
  · exact k

theorem KeepsP.foldl {α β : Type} {r : State} {p : State × β} {f : State × β → α → State × β} {l : List α}
    (hf : ∀ q x, KeepsP r q → KeepsP r (f q x)) (h : KeepsP r p) : KeepsP r (l.foldl f p) := by
  induction l generalizing p with
  | nil => exact h
  | cons x l ih => exact ih (hf p x h)

theorem Keeps.of_mk {β : Type} {r a : State} {b : β} (h : KeepsP r (a, b)) : Keeps r a := h

theorem Keeps.of_pair {β : Type} {r a : State} {b : β} {p : State × β} (h : KeepsP r p) (e : p = (a, b)) :
    Keeps r a := by subst e; exact h

theorem Keeps.of_pair_snd {β : Type} {r a : State} {b : β} {p : β × State} (h : Keeps r p.2) (e : p = (b, a)) :
    Keeps r a := by subst e; exact h

/-- An optional state, framed when there is one. -/
def KeepsOpt {β : Type} (r : State) (o : Option (β × State)) : Prop := ∀ b t, o = some (b, t) → Keeps r t

theorem Keeps.of_opt {β : Type} {r t : State} {b : β} {o : Option (β × State)} (h : KeepsOpt r o)
    (e : o = some (b, t)) : Keeps r t := h b t e

theorem KeepsOpt.none {β : Type} {r : State} : KeepsOpt (β := β) r none := fun _ _ e => nomatch e

theorem KeepsOpt.some {β : Type} {r t : State} {b : β} (h : Keeps r t) : KeepsOpt r (some (b, t)) := by
  intro _ _ e; cases e; exact h

theorem KeepsOpt.map {α β : Type} {r : State} {o : Option α} {f : α → β × State} (h : ∀ a, Keeps r (f a).2) :
    KeepsOpt r (o.map f) := by
  cases o with
  | none => exact KeepsOpt.none
  | some a =>
    intro b t e
    have e : f a = (b, t) := Option.some.inj e
    have k := h a
    rw [e] at k
    exact k

theorem KeepsOpt.mapS {α β : Type} {r : State} {o : Option (α × State)} {f : α × State → β × State}
    (ho : KeepsOpt r o) (h : ∀ a, Keeps r a.2 → Keeps r (f a).2) : KeepsOpt r (o.map f) := by
  cases o with
  | none => exact KeepsOpt.none
  | some a =>
    intro b t e
    have e : f a = (b, t) := Option.some.inj e
    have k := h a (ho a.1 a.2 rfl)
    rw [e] at k
    exact k

/-- A state or an error code, framed when there is a state. -/
def KeepsExc {ε : Type} (r : State) (e : Except ε State) : Prop := ∀ t, e = .ok t → Keeps r t

theorem KeepsExc.error {ε : Type} {r : State} {x : ε} : KeepsExc r (.error x) := fun _ e => nomatch e

theorem KeepsExc.ok {ε : Type} {r t : State} (h : Keeps r t) : KeepsExc (ε := ε) r (.ok t) := by
  intro _ e; cases e; exact h

theorem KeepsExc.elim {ε α : Type} {r : State} {o : Option α} {x : Except ε State} {f : α → Except ε State}
    (hx : KeepsExc r x) (h : ∀ a, KeepsExc r (f a)) : KeepsExc r (o.elim x f) := by
  cases o with
  | none => exact hx
  | some a => exact h a

theorem KeepsExc.bind {ε α : Type} {r : State} {e : Except ε α} {f : α → Except ε State}
    (h : ∀ a, KeepsExc r (f a)) : KeepsExc r (e >>= f) := by
  cases e with
  | error x => exact KeepsExc.error
  | ok a => exact h a

theorem KeepsExc.bindS {ε : Type} {r : State} {e : Except ε State} {f : State → Except ε State}
    (he : KeepsExc r e) (h : ∀ a, Keeps r a → KeepsExc r (f a)) : KeepsExc r (e >>= f) := by
  cases e with
  | error x => exact KeepsExc.error
  | ok a => exact h a (he a rfl)

/-- The same with a value beside the state. -/
def KeepsExcP {ε β : Type} (r : State) (e : Except ε (State × β)) : Prop := ∀ p, e = .ok p → KeepsP r p

theorem KeepsExcP.error {ε β : Type} {r : State} {x : ε} : KeepsExcP (β := β) r (.error x) := fun _ e => nomatch e

theorem KeepsExcP.ok {ε β : Type} {r : State} {p : State × β} (h : KeepsP r p) : KeepsExcP (ε := ε) r (.ok p) := by
  intro _ e; cases e; exact h

theorem KeepsExcP.bind {ε α β : Type} {r : State} {e : Except ε α} {f : α → Except ε (State × β)}
    (h : ∀ a, KeepsExcP r (f a)) : KeepsExcP r (e >>= f) := by
  cases e with
  | error x => exact KeepsExcP.error
  | ok a => exact h a

theorem KeepsExcP.elim {ε α β : Type} {r : State} {o : Option α} {x : Except ε (State × β)}
    {f : α → Except ε (State × β)} (hx : KeepsExcP r x) (h : ∀ a, KeepsExcP r (f a)) : KeepsExcP r (o.elim x f) := by
  cases o with
  | none => exact hx
  | some a => exact h a

theorem Keeps.of_exc {ε : Type} {r t : State} {o : Except ε State} (h : KeepsExc r o) (e : o = .ok t) : Keeps r t :=
  h t e

/-- A check that answers a state when it refuses, framed when it does. -/
def KeepsErr {α : Type} (r : State) (e : Except State α) : Prop := ∀ t, e = .error t → Keeps r t

theorem KeepsErr.ok {α : Type} {r : State} {x : α} : KeepsErr r (.ok x) := fun _ e => nomatch e

theorem KeepsErr.error {α : Type} {r t : State} (h : Keeps r t) : KeepsErr (α := α) r (.error t) := by
  intro _ e; cases e; exact h

theorem Keeps.of_err {α : Type} {r t : State} {o : Except State α} (h : KeepsErr r o) (e : o = .error t) :
    Keeps r t := h t e

theorem Keeps.of_excP {ε β : Type} {r t : State} {b : β} {o : Except ε (State × β)} (h : KeepsExcP r o)
    (e : o = .ok (t, b)) : Keeps r t := h _ e

/-- An outcome of a command, framed when it is a next state. -/
def KeepsOut (r : State) (o : Host.Outcome State Fault Refusal) : Prop := ∀ t, o = .next t → Keeps r t

theorem KeepsOut.next {r t : State} (h : Keeps r t) : KeepsOut r (.next t) := by
  intro _ e; cases e; exact h

theorem KeepsOut.fault {r : State} {x : Fault} : KeepsOut r (.fault x) := fun _ e => nomatch e

theorem KeepsOut.refused {r : State} {x : Refusal} : KeepsOut r (.refused x) := fun _ e => nomatch e

theorem KeepsOut.ite {r : State} {a b : Host.Outcome State Fault Refusal} {c : Prop} [Decidable c] (h : KeepsOut r a)
    (k : KeepsOut r b) : KeepsOut r (if c then a else b) := by split <;> assumption

end Sys2Proof.Machine
end

