-- ==== Sys2Proof/Laws/KeepsOps.lean ====
section
/-!
SUPPORT. That the shared operations, the request slots, the phases, the tracker tables and the converters keep what `Keeps` says.
-/
namespace Sys2Proof.Machine

theorem setReg_keeps {r : State} (s : State) (k v : Nat) (h : Keeps r s) : Keeps r (setReg s k v) := h.setRegs fun k
    => regPut_rises _ _ k

theorem bump_keeps {r : State} (s : State) (k n : Nat) (h : Keeps r s) : Keeps r (bump s k n) := by
  rw [show @bump = _ from by delta bump; exact rfl]; apply setReg_keeps; exact h

theorem bumpIf_keeps {r : State} (s : State) (c : Bool) (k n : Nat) (h : Keeps r s) : Keeps r (bumpIf s c k n) := by
  rw [show @bumpIf = _ from by delta bumpIf; exact rfl]; refine Keeps.ite ?_ ?_
  · exact h
  · intro k0; apply bump_keeps; exact k0

theorem setRegBytes_keeps {r : State} (s : State) (k : Nat) (b : List Byte) (h : Keeps r s) : Keeps r (setRegBytes s
    k b) := by
  rw [show @setRegBytes = _ from by delta setRegBytes; exact rfl]; apply setReg_keeps; exact h

theorem lateAccept_keeps {r : State} (s : State) (t : Nat) (h : Keeps r s) : Keeps r (lateAccept s t) := by
  rw [show @lateAccept = _ from by delta lateAccept; exact rfl]; apply bump_keeps; exact h

theorem modCore_keeps {r : State} (s : State) (l : Core) (f : CoreState → CoreState) (h : Keeps r s) : Keeps r
    (modCore s l f) := by
  rw [show @modCore = _ from by delta modCore; exact rfl]; refine Keeps.mk_iff.mpr ?_; exact h

theorem noticeCore_keeps {r : State} (a n : Nat) (s : State) (l : Core) (h : Keeps r s) : Keeps r (noticeCore a n s
    l) := by
  rw [show @noticeCore = _ from by delta noticeCore; exact rfl]; extract_lets +onlyGivenNames -underBinder v0 v1 v2
  clear_value v0
  have hv1 : Keeps r v1 := by
    unfold v1; refine Keeps.ite ?_ ?_
    · exact h
    · intro k3; apply bump_keeps; apply modCore_keeps; exact k3
  clear_value v1; clear_value v2; refine Keeps.ite ?_ ?_
  · apply bump_keeps; apply modCore_keeps; exact hv1
  · intro k4; exact hv1

theorem notice_keeps {r : State} (s : State) (a n : Nat) (h : Keeps r s) : Keeps r (notice s a n) := by
  rw [show @notice = _ from by delta notice; exact rfl]; refine Keeps.ite ?_ ?_
  · refine Keeps.foldl ?_ ?_
    · intro x0 x1 k2; apply noticeCore_keeps; exact k2
    · exact h
  · intro k3; exact h

theorem freshGranule_keeps {r : State} (s : State) (a n g : Nat) (h : Keeps r s) : Keeps r (freshGranule s a n g) :=
    by
  rw [show @freshGranule = _ from by delta freshGranule; exact rfl]
  extract_lets +onlyGivenNames -underBinder v0 v1 v2 v3 v4 v5 v6 v7 v8; clear_value v0; clear_value v1
  clear_value v2; clear_value v3; clear_value v4; clear_value v5; clear_value v6; clear_value v7
  have hv8 : Keeps r v8 := by unfold v8; refine Keeps.mk_iff.mpr ?_; exact h
  clear_value v8; apply setReg_keeps; exact hv8

theorem freshSpan_keeps {r : State} (s : State) (a n : Nat) (h : Keeps r s) : Keeps r (freshSpan s a n) := by
  rw [show @freshSpan = _ from by delta freshSpan; exact rfl]; refine Keeps.ite ?_ ?_
  · exact h
  · intro k0; refine Keeps.foldl ?_ ?_
    · intro x1 x2 k3; extract_lets +onlyGivenNames -underBinder v4
      have hv4 : Keeps r v4 := by unfold v4; apply freshGranule_keeps; exact k3
      clear_value v4; refine Keeps.ite ?_ ?_
      · exact hv4
      · intro k5; extract_lets +onlyGivenNames -underBinder v6 v7; clear_value v6; clear_value v7
        apply freshGranule_keeps; exact k5
    · exact k0

theorem mirrorBytes_wf (s : State) {m : Mem} (a : Nat) (b : List Byte) (h : Memory.wf m = true) :
    Memory.wf (mirrorBytes s m a b) = true := by
  induction b generalizing m a with
  | nil => exact h
  | cons x b ih =>
    unfold mirrorBytes; refine ih _ ?_; split
    · exact memSet_wf _ _ h
    · exact h

theorem writeBytes_keeps {r : State} (s : State) (a : Nat) (b : List Byte) (h : Keeps r s) :
    Keeps r (writeBytes s a b) := by
  unfold writeBytes; split
  · exact h
  · refine notice_keeps _ _ _ (freshSpan_keeps _ _ _ (h.setMem fun k => ?_)); split
    · exact mirrorBytes_wf s _ _ (memWrite_wf _ _ k)
    · exact memWrite_wf _ _ k

theorem writeLE_keeps {r : State} (s : State) (a n v : Nat) (h : Keeps r s) : Keeps r (writeLE s a n v) := by
  rw [show @writeLE = _ from by delta writeLE; exact rfl]; apply writeBytes_keeps; exact h

theorem mirrorSpan_wf (s : State) {m : Mem} (dst n : Nat) (h : Memory.wf m = true) :
    Memory.wf (mirrorSpan s m dst n) = true := by
  unfold mirrorSpan; split
  · dsimp only
    have hf : ∀ (l : List Host.Cell) (t : Mem), Memory.wf t = true → Memory.wf (l.foldl (fun t c =>
        if isMirrored s c.1 then memSet t (mirrorOf (groupFull s c.1) c.1) c.2 else t) t) = true := by
      intro l
      induction l with
      | nil => intro t ht; exact ht
      | cons c l ih =>
        intro t ht; refine ih _ ?_; dsimp only; split
        · exact memSet_wf _ _ ht
        · exact ht
    exact hf _ _ (filter_wf _ h)
  · exact h

theorem copyMem_keeps {r : State} (s : State) (src dst n : Nat) (h : Keeps r s) : Keeps r (copyMem s src dst n) :=
  notice_keeps _ _ _ (freshSpan_keeps _ _ _ (h.setMem fun k => mirrorSpan_wf _ _ _ (memCopy_wf _ _ _ k)))

theorem clearMem_keeps {r : State} (s : State) (a n : Nat) (h : Keeps r s) : Keeps r (clearMem s a n) :=
  notice_keeps _ _ _ (freshSpan_keeps _ _ _ (h.setMem fun k => mirrorSpan_wf _ _ _ (memClear_wf _ _ k)))

theorem send_keeps {r : State} (s : State) (m : OutMsg) (h : Keeps r s) : Keeps r (send s m) := ⟨h.pending, h.part,
    h.clk, h.fresh, h.sent.trans (List.suffix_cons _ _), h.mem, h.regs, h.job⟩

theorem modSess_keeps {r : State} (s : State) (i : Sess) (f : Session → Session) (h : Keeps r s) : Keeps r (modSess
    s i f) := by
  rw [show @modSess = _ from by delta modSess; exact rfl]; refine Keeps.mk_iff.mpr ?_; exact h

theorem deliver_keeps {r : State} (s : State) (i : Sess) (code : Nat) (body : List Byte) (h : Keeps r s) : Keeps r
    (deliver s i code body) := by
  rw [show @deliver = _ from by delta deliver; exact rfl]; split
  · exact h
  · refine Keeps.ite ?_ ?_
    · extract_lets +onlyGivenNames -underBinder v0 v1; clear_value v0
      have hv1 : Keeps r v1 := by unfold v1; apply modSess_keeps; exact h
      clear_value v1; apply send_keeps; exact hv1
    · intro k2; apply bump_keeps; apply modSess_keeps; exact h

theorem raiseEvent_keeps {r : State} (s : State) (code : Nat) (body : List Byte) (h : Keeps r s) : Keeps r
    (raiseEvent s code body) := by
  rw [show @raiseEvent = _ from by delta raiseEvent; exact rfl]; refine Keeps.foldl ?_ ?_
  · intro x0 x1 k2; split
    · refine Keeps.ite ?_ ?_
      · exact k2
      · intro k3; apply deliver_keeps; exact k3
    · exact k2
  · exact h

theorem violation_keeps {r : State} (s : State) (kind num space addr code : Nat) (key : List Byte) (h : Keeps r s) :
    Keeps r (violation s kind num space addr code key) := by
  rw [show @violation = _ from by delta violation; exact rfl]; extract_lets +onlyGivenNames -underBinder v0 v1 v2 v3
  clear_value v0; clear_value v1
  have hv2 : Keeps r v2 := by unfold v2; apply setReg_keeps; exact h
  clear_value v2
  have hv3 : Keeps r v3 := by unfold v3; apply setReg_keeps; exact hv2
  clear_value v3; apply raiseEvent_keeps; exact hv3

theorem recTo_keeps {r : State} (s : State) (rank : Nat) (m : RecMsg) (h : Keeps r s) : Keeps r (recTo s rank m) :=
    by
  rw [show @recTo = _ from by delta recTo; exact rfl]; refine Keeps.ite ?_ ?_
  · apply send_keeps; exact h
  · intro k0; refine Keeps.mk_iff.mpr ?_; exact h

theorem reportFault_keeps {r : State} (s : State) (code outcome addr err die unit : Nat) (h : Keeps r s) : Keeps r
    (reportFault s code outcome addr err die unit) := by
  rw [show @reportFault = _ from by delta reportFault; exact rfl]
  extract_lets +onlyGivenNames -underBinder v0 v1 v2 v3 v4 v5; clear_value v0; clear_value v1
  have hv2 : Keeps r v2 := by unfold v2; apply setReg_keeps; exact h
  clear_value v2
  have hv3 : Keeps r v3 := by unfold v3; apply setReg_keeps; exact hv2
  clear_value v3
  have hv4 : Keeps r v4 := by unfold v4; apply bump_keeps; exact hv3
  clear_value v4
  have hv5 : Keeps r v5 := by unfold v5; apply raiseEvent_keeps; exact hv4
  clear_value v5; refine Keeps.ite ?_ ?_
  · extract_lets +onlyGivenNames -underBinder v6 v7 v8; clear_value v6; clear_value v7; clear_value v8
    refine Keeps.ite ?_ ?_
    · apply recTo_keeps; apply recTo_keeps; exact hv5
    · intro k9; apply recTo_keeps; exact hv5
  · intro k10; exact hv5

theorem stateEvent_keeps {r : State} (s : State) (h : Keeps r s) : Keeps r (stateEvent s) := by
  rw [show @stateEvent = _ from by delta stateEvent; exact rfl]; apply raiseEvent_keeps; exact h

theorem dropTxn_keeps {r : State} (s : State) (h0 : Nat) (h : Keeps r s) : Keeps r (dropTxn s h0) := by
  rw [show @dropTxn = _ from by delta dropTxn; exact rfl]; refine Keeps.mk_iff.mpr ?_; exact h

theorem imageIdle_keeps {r : State} (s : State) (t : Txn) (h : Keeps r s) : Keeps r (imageIdle s t) := by
  rw [show @imageIdle = _ from by delta imageIdle; exact rfl]; refine Keeps.ite ?_ ?_
  · exact h
  · intro k0; apply setReg_keeps; exact k0

theorem endTxn_keeps {r : State} (s : State) (t : Txn) (code : Nat) (h : Keeps r s) : Keeps r (endTxn s t code) :=
    by
  rw [show @endTxn = _ from by delta endTxn; exact rfl]; extract_lets +onlyGivenNames -underBinder v0 v1 v2
  have hv0 : Keeps r v0 := by unfold v0; apply dropTxn_keeps; exact h
  clear_value v0
  have hv1 : Keeps r v1 := by
    unfold v1; refine Keeps.ite ?_ ?_
    · apply imageIdle_keeps; exact hv0
    · intro k3; exact hv0
  clear_value v1
  have hv2 : Keeps r v2 := by unfold v2; apply bump_keeps; exact hv1
  clear_value v2; apply deliver_keeps; exact hv2

theorem abortWaiting_keeps {r : State} (s : State) (h : Keeps r s) : Keeps r (abortWaiting s) := by
  rw [show @abortWaiting = _ from by delta abortWaiting; exact rfl]; extract_lets +onlyGivenNames -underBinder v0 v1
  have hv0 : Keeps r v0 := by
    unfold v0; refine Keeps.foldl ?_ ?_
    · intro x2 x3 k4; apply endTxn_keeps; exact k4
    · exact h
  clear_value v0; clear_value v1; refine Keeps.foldl ?_ ?_
  · intro x5 x6 k7; apply bump_keeps; apply dropTxn_keeps; exact k7
  · exact hv0

theorem setDev_keeps {r : State} (s : State) (d : DeviceState) (h : Keeps r s)
    (hd : r.JobOk → modesAgree s.dev s.mode → modesAgree d s.mode) : Keeps r (setDev s d) := by
  rw [show @setDev = _ from by delta setDev; exact rfl]; refine Keeps.ite ?_ ?_
  · extract_lets +onlyGivenNames -underBinder v0 v1
    have hv0 : Keeps r v0 := h.setMode hd
    clear_value v0
    have hv1 : Keeps r v1 := by
      unfold v1; refine Keeps.ite ?_ ?_
      · exact hv0
      · intro k2; apply abortWaiting_keeps; exact hv0
    clear_value v1; apply stateEvent_keeps; exact hv1
  · intro k3; exact h

theorem setMode_keeps {r : State} (s : State) (m : JobMode) (h : Keeps r s)
    (hd : r.JobOk → modesAgree s.dev s.mode → modesAgree s.dev m) : Keeps r (setMode s m) := by
  rw [show @setMode = _ from by delta setMode; exact rfl]; refine Keeps.ite ?_ ?_
  · apply stateEvent_keeps; exact h.setMode hd
  · intro k0; exact h

theorem setDevMode_keeps {r : State} (s : State) (d : DeviceState) (m : JobMode) (h : Keeps r s)
    (hd : r.JobOk → modesAgree s.dev s.mode → modesAgree d m) : Keeps r (setDevMode s d m) := by
  rw [show @setDevMode = _ from by delta setDevMode; exact rfl]; refine Keeps.ite ?_ ?_
  · extract_lets +onlyGivenNames -underBinder v0 v1; clear_value v0
    have hv1 : Keeps r v1 := h.setMode hd
    clear_value v1; apply stateEvent_keeps; refine Keeps.ite ?_ ?_
    · exact hv1
    · intro k2; apply abortWaiting_keeps; exact hv1
  · intro k3; exact h

theorem takeFree_keeps {r : State} (s : State) (h : Keeps r s) : Keeps r (takeFree s).2 := ⟨h.pending, h.part,
    h.clk, Nat.le_succ_of_le h.fresh, h.sent, h.mem, h.regs, h.job⟩

theorem setToken_keeps {r : State} (s : State) (l : Core) (t : Nat) (h : Keeps r s) : Keeps r (setToken s l t) := by
  rw [show @setToken = _ from by delta setToken; exact rfl]; extract_lets +onlyGivenNames -underBinder v0
  clear_value v0; refine Keeps.ite ?_ ?_
  · apply modCore_keeps; exact h
  · intro k1; apply bump_keeps; exact h

theorem setTokens_keeps {r : State} (s : State) (l : Core) (ts : List Nat) (h : Keeps r s) : Keeps r (setTokens s l
    ts) := by
  rw [show @setTokens = _ from by delta setTokens; exact rfl]; refine Keeps.foldl ?_ ?_
  · intro x0 x1 k2; apply setToken_keeps; exact k2
  · exact h

theorem issue_keeps {r : State} (s : State) (l : Core) (idx : Nat) (w : BitVec 256) (op : Opcode) (fly : Bool) (h :
    Keeps r s) : Keeps r (issue s l idx w op fly) := by
  rw [show @issue = _ from by delta issue; exact rfl]; extract_lets +onlyGivenNames -underBinder v0
  have hv0 : Keeps r v0 := by unfold v0; apply modCore_keeps; exact h
  clear_value v0; apply bump_keeps; exact hv0

theorem modFlight_keeps {r : State} (s : State) (l : Core) (idx : Nat) (f : Flight → Flight) (h : Keeps r s) : Keeps
    r (modFlight s l idx f) := by
  rw [show @modFlight = _ from by delta modFlight; exact rfl]; apply modCore_keeps; exact h

theorem markDone_keeps {r : State} (s : State) (l : Core) (idx : Nat) (h : Keeps r s) : Keeps r (markDone s l idx)
    := by
  rw [show @markDone = _ from by delta markDone; exact rfl]; apply modFlight_keeps; exact h

theorem opFault_keeps {r : State} (s : State) (l : Core) (q : Queue) (idx space addr err code : Nat) (h : Keeps r s)
    : Keeps r (opFault s l q idx space addr err code) := by
  rw [show @opFault = _ from by delta opFault; exact rfl]; extract_lets +onlyGivenNames -underBinder v0 v1 v2 v3
  have hv0 : Keeps r v0 := by unfold v0; apply modCore_keeps; exact h
  clear_value v0; clear_value v1; clear_value v2; clear_value v3; extract_lets +onlyGivenNames -underBinder v4 v5 v6
  have hv4 : Keeps r v4 := by unfold v4; refine Keeps.mk_iff.mpr ?_; exact hv0
  clear_value v4
  have hv5 : Keeps r v5 := by unfold v5; apply violation_keeps; exact hv4
  clear_value v5
  have hv6 : Keeps r v6 := by unfold v6; apply reportFault_keeps; exact hv5
  clear_value v6; refine Keeps.mk_iff.mpr ?_; exact hv6

theorem descFault_keeps {r : State} (s : State) (l : Core) (q : Queue) (idx : Nat) (e : DescErr × Nat) (h : Keeps r
    s) : Keeps r (descFault s l q idx e) := by
  rw [show @descFault = _ from by delta descFault; exact rfl]; extract_lets +onlyGivenNames -underBinder v0
  have hv0 : Keeps r v0 := by
    unfold v0; refine Keeps.ite ?_ ?_
    · exact h
    · intro k1; apply bump_keeps; exact k1
  clear_value v0; apply opFault_keeps; exact hv0

theorem writeBits_keeps {r : State} (s : State) (a bit n v : Nat) (h : Keeps r s) : Keeps r (writeBits s a bit n v)
    := by
  rw [show @writeBits = _ from by delta writeBits; exact rfl]; extract_lets +onlyGivenNames -underBinder v0 v1 v2 v3
  clear_value v0; clear_value v1; clear_value v2; clear_value v3; apply writeLE_keeps; exact h

theorem putCode_keeps {r : State} (s : State) (d : Desc) (i k v : Nat) (h : Keeps r s) : Keeps r (putCode s d i k v)
    := by
  rw [show @putCode = _ from by delta putCode; exact rfl]; split; apply writeBits_keeps; exact h

theorem putBit_keeps {r : State} (s : State) (base i : Nat) (v : Bool) (h : Keeps r s) : Keeps r (putBit s base i v)
    := by
  rw [show @putBit = _ from by delta putBit; exact rfl]; apply writeBits_keeps; exact h

theorem orFault_keeps {r : State} (s : State) (l : Core) (q : Queue) (idx : Nat)
    (x : Except (DescErr × Nat) State) (h : Keeps r s) (hx : KeepsExc r x) :
    Keeps r (orFault s l q idx x) := by
  unfold orFault; split
  · exact hx _ rfl
  · exact descFault_keeps _ _ _ _ _ h

theorem countHeld_keeps {r : State} (s : State) (l : Core) (h : Keeps r s) : Keeps r (countHeld s l) := by
  rw [show @countHeld = _ from by delta countHeld; exact rfl]; refine Keeps.foldl ?_ ?_
  · intro x0 x1 k2; extract_lets +onlyGivenNames -underBinder v3; clear_value v3; split
    · refine Keeps.ite ?_ ?_
      · apply bump_keeps; apply modCore_keeps; exact k2
      · intro k4; exact k2
    · exact k2
  · exact h

theorem grant_keeps {r : State} (l : Core) (a : Nat) (x2 : State) (h : Keeps r x2) : Keeps r (grant l a x2) := by
  induction a generalizing l x2 with
  | zero =>
    unfold grant; exact h
  | succ n ih =>
    unfold grant; extract_lets +onlyGivenNames -underBinder v0 v1
    have hv0 : Keeps r v0 := by unfold v0; apply countHeld_keeps; exact h
    clear_value v0; clear_value v1; refine Keeps.ite ?_ ?_
    · split
      · exact hv0
      · apply ih; apply modCore_keeps; exact hv0
    · intro k2; exact hv0

theorem ask_keeps {r : State} (s : State) (l : Core) (rs : List Request) (h : Keeps r s) : Keeps r (ask s l rs) :=
    by
  rw [show @ask = _ from by delta ask; exact rfl]; apply grant_keeps; apply modCore_keeps; exact h

theorem askRuns_keeps {r : State} (s : State) (l : Core) (idx : Nat) (q : Queue) (write : Bool) (runs : List (Nat ×
    Nat)) (h : Keeps r s) : Keeps r (askRuns s l idx q write runs) := by
  rw [show @askRuns = _ from by delta askRuns; exact rfl]; apply ask_keeps; exact h

theorem cacheLine_keeps {r : State} (s : State) (l : Core) (idx : Nat) (q : Queue) (line : Nat) (h : Keeps r s) :
    Keeps r (cacheLine s l idx q line) := by
  rw [show @cacheLine = _ from by delta cacheLine; exact rfl]; extract_lets +onlyGivenNames -underBinder v0
  clear_value v0; refine Keeps.ite ?_ ?_
  · extract_lets +onlyGivenNames -underBinder v1 v2; clear_value v1
    have hv2 : Keeps r v2 := by unfold v2; apply bump_keeps; apply modCore_keeps; exact h
    clear_value v2; apply ask_keeps; exact hv2
  · intro k3; apply bump_keeps; apply modCore_keeps; exact h

theorem readCached_keeps {r : State} (s : State) (l : Core) (idx : Nat) (q : Queue) (d : Desc) (runs : List (Nat ×
    Nat)) (h : Keeps r s) : Keeps r (readCached s l idx q d runs) := by
  rw [show @readCached = _ from by delta readCached; exact rfl]; extract_lets +onlyGivenNames -underBinder v0 v1 v2
  clear_value v0; clear_value v1; clear_value v2; refine Keeps.ite ?_ ?_
  · extract_lets +onlyGivenNames -underBinder v3
    have hv3 : Keeps r v3 := by
      unfold v3; refine Keeps.ite ?_ ?_
      · apply modCore_keeps; exact h
      · intro k4; exact h
    clear_value v3; refine Keeps.foldl ?_ ?_
    · intro x5 x6 k7; apply cacheLine_keeps; exact k7
    · exact hv3
  · intro k8; apply askRuns_keeps; exact h

theorem readRuns_keeps {r : State} (s : State) (l : Core) (idx : Nat) (q : Queue) (d : Desc) (runs : List (Nat ×
    Nat)) (h : Keeps r s) : Keeps r (readRuns s l idx q d runs) := by
  rw [show @readRuns = _ from by delta readRuns; exact rfl]; refine Keeps.ite ?_ ?_
  · apply askRuns_keeps; exact h
  · intro k0; apply readCached_keeps; exact h

theorem traffic_keeps {r : State} (s : State) (l : Core) (idx : Nat) (q : Queue) (reads writes : List Desc) (h :
    Keeps r s) : Keeps r (traffic s l idx q reads writes) := by
  rw [show @traffic = _ from by delta traffic; exact rfl]; extract_lets +onlyGivenNames -underBinder v0
  have hv0 : Keeps r v0 := by
    unfold v0; refine Keeps.foldl ?_ ?_
    · intro x1 x2 k3; apply readRuns_keeps; exact k3
    · exact h
  clear_value v0; apply ask_keeps; exact hv0

theorem invalidateCache_keeps {r : State} (s : State) (l : Core) (h : Keeps r s) : Keeps r (invalidateCache s l) :=
    by
  rw [show @invalidateCache = _ from by delta invalidateCache; exact rfl]; apply modCore_keeps; exact h

theorem memLog_keeps {r : State} (s : State) (a : Nat) (h0 : Nat × Nat) (outcome sym0 sym1 req : Nat)
    (h : Keeps r s) : Keeps r (memLog s a h0 outcome sym0 sym1 req) := by
  rw [show @memLog = _ from by delta memLog; exact rfl]; extract_lets +onlyGivenNames -underBinder v0 v1
  clear_value v0; clear_value v1; apply setReg_keeps; apply setReg_keeps; exact h

theorem declareFailed_keeps {r : State} (s : State) (c : Nat) (h : Keeps r s) : Keeps r (declareFailed s c) := by
  rw [show @declareFailed = _ from by delta declareFailed; exact rfl]; refine Keeps.ite ?_ ?_
  · refine Keeps.mk_iff.mpr ?_; exact h
  · intro k0; exact h

theorem markDq_keeps {r : State} (s : State) (c dq : Nat) (h : Keeps r s) : Keeps r (markDq s c dq) := by
  rw [show @markDq = _ from by delta markDq; exact rfl]; extract_lets +onlyGivenNames -underBinder v0
  clear_value v0; split
  · extract_lets +onlyGivenNames -underBinder v1
    have hv1 : Keeps r v1 := by unfold v1; apply setReg_keeps; exact h
    clear_value v1; refine Keeps.mk_iff.mpr ?_; exact hv1
  · refine Keeps.ite ?_ ?_
    · apply declareFailed_keeps; exact h
    · intro k2; exact h
  · exact h

theorem countCorrected_keeps {r : State} (s : State) (c : Nat) (syms : List Nat) (h : Keeps r s) : Keeps r
    (countCorrected s c syms) := by
  rw [show @countCorrected = _ from by delta countCorrected; exact rfl]
  extract_lets +onlyGivenNames -underBinder v0 v1
  have hv0 : Keeps r v0 := by unfold v0; apply bump_keeps; exact h
  clear_value v0; clear_value v1; extract_lets +onlyGivenNames -underBinder v2
  have hv2 : Keeps r v2 := by unfold v2; refine Keeps.mk_iff.mpr ?_; exact hv0
  clear_value v2; split
  · exact hv2
  · extract_lets +onlyGivenNames -underBinder v3 v4; clear_value v3; clear_value v4
    extract_lets +onlyGivenNames -underBinder v5
    have hv5 : Keeps r v5 := by unfold v5; refine Keeps.mk_iff.mpr ?_; exact hv2
    clear_value v5; refine Keeps.ite ?_ ?_
    · exact hv5
    · intro k6; apply markDq_keeps; exact k6

theorem noteUncorrectable_keeps {r : State} (s : State) (c g : Nat) (h : Keeps r s) : Keeps r (noteUncorrectable s c
    g) := by
  rw [show @noteUncorrectable = _ from by delta noteUncorrectable; exact rfl]
  extract_lets +onlyGivenNames -underBinder v0 v1; clear_value v0; clear_value v1
  extract_lets +onlyGivenNames -underBinder v2
  have hv2 : Keeps r v2 := by unfold v2; refine Keeps.mk_iff.mpr ?_; exact h
  clear_value v2; refine Keeps.ite ?_ ?_
  · exact hv2
  · intro k3; apply declareFailed_keeps; exact k3

theorem keepError_keeps {r : State} (s : State) (a : Nat) (errs : List (Nat × Byte)) (h : Keeps r s) : Keeps r
    (keepError s a errs) := by
  rw [show @keepError = _ from by delta keepError; exact rfl]; extract_lets +onlyGivenNames -underBinder v0
  clear_value v0; refine Keeps.ite ?_ ?_
  · refine Keeps.mk_iff.mpr ?_; exact h
  · intro k1; exact h

theorem readCodeword_keeps {r : State} (s : State) (g k : Nat) (errs : List SymErr) (req : Nat) (h : Keeps r s) :
    KeepsP r (readCodeword s g k errs req) := by
  rw [show @readCodeword = _ from by delta readCodeword; exact rfl]
  extract_lets +onlyGivenNames -underBinder v0 v1 v2 v3; clear_value v0; clear_value v1; clear_value v2
  clear_value v3; split
  · refine KeepsP.mk ?_; exact h
  · extract_lets +onlyGivenNames -underBinder v4 v5 v6; clear_value v4
    have hv5 : Keeps r v5 := by
      unfold v5; refine Keeps.ite ?_ ?_
      · apply countCorrected_keeps; exact h
      · intro k7; exact h
    clear_value v5
    have hv6 : Keeps r v6 := by unfold v6; apply memLog_keeps; exact hv5
    clear_value v6; refine KeepsP.mk ?_; apply reportFault_keeps; exact hv6
  · refine KeepsP.mk ?_; apply memLog_keeps; apply bump_keeps; exact h
  · extract_lets +onlyGivenNames -underBinder v8
    have hv8 : Keeps r v8 := by unfold v8; apply keepError_keeps; exact h
    clear_value v8; refine KeepsP.mk ?_; apply noteUncorrectable_keeps; apply memLog_keeps; apply bump_keeps
    exact hv8

theorem readCopy_keeps {r : State} (s : State) (g : Nat) (errs : List SymErr) (req : Nat) (h : Keeps r s) : KeepsP r
    (readCopy s g errs req) := by
  rw [show @readCopy = _ from by delta readCopy; exact rfl]; refine KeepsP.ite ?_ ?_
  · refine KeepsP.ite ?_ ?_
    · extract_lets +onlyGivenNames -underBinder v0
      have hv0 : KeepsP r v0 := by
        unfold v0; refine KeepsP.foldl ?_ ?_
        · intro x1 x2 k3; extract_lets +onlyGivenNames -underBinder v4
          have hv4 : KeepsP r v4 := by unfold v4; apply readCodeword_keeps; refine KeepsP.fst ?_; exact k3
          clear_value v4; refine KeepsP.mk ?_; refine KeepsP.fst ?_; exact hv4
        · refine KeepsP.mk ?_; exact h
      clear_value v0; refine KeepsP.mk ?_; refine KeepsP.fst ?_; exact hv0
    · intro k5; refine KeepsP.mk ?_; exact h
  · intro k6; refine KeepsP.mk ?_; apply memLog_keeps; exact h

theorem diverge_keeps {r : State} (s : State) (g req : Nat) (h : Keeps r s) : Keeps r (diverge s g req) := by
  rw [show @diverge = _ from by delta diverge; exact rfl]; extract_lets +onlyGivenNames -underBinder v0 v1 v2 v3
  clear_value v0
  have hv1 : Keeps r v1 := by unfold v1; refine Keeps.mk_iff.mpr ?_; exact h
  clear_value v1
  have hv2 : Keeps r v2 := by unfold v2; apply bump_keeps; exact hv1
  clear_value v2; clear_value v3; extract_lets +onlyGivenNames -underBinder v4
  have hv4 : Keeps r v4 := by unfold v4; apply memLog_keeps; exact hv2
  clear_value v4; apply reportFault_keeps; exact hv4

theorem repairPrimary_keeps {r : State} (s : State) (g : Nat) (data : List Byte) (req : Nat) (h : Keeps r s) : Keeps
    r (repairPrimary s g data req) := by
  rw [show @repairPrimary = _ from by delta repairPrimary; exact rfl]
  extract_lets +onlyGivenNames -underBinder v0 v1 v2 v3; clear_value v0
  have hv1 : Keeps r v1 := by unfold v1; apply freshGranule_keeps; refine Keeps.store ?_; exact h
  clear_value v1
  have hv2 : Keeps r v2 := by unfold v2; apply bump_keeps; exact hv1
  clear_value v2
  have hv3 : Keeps r v3 := by unfold v3; apply memLog_keeps; exact hv2
  clear_value v3; apply reportFault_keeps; exact hv3

theorem readGranule_keeps {r : State} (s : State) (g : Nat) (errs mErrs : List SymErr) (req : Nat) (h : Keeps r s) :
    KeepsP r (readGranule s g errs mErrs req) := by
  rw [show @readGranule = _ from by delta readGranule; exact rfl]; refine KeepsP.ite ?_ ?_
  · extract_lets +onlyGivenNames -underBinder v0; clear_value v0; refine KeepsP.ite ?_ ?_
    · split; split
      · refine KeepsP.ite ?_ ?_
        · split
          · refine KeepsP.ite ?_ ?_
            · refine KeepsP.mk ?_; apply diverge_keeps; refine Keeps.of_pair ?_ (by assumption)
              apply readCopy_keeps; refine Keeps.of_pair ?_ (by assumption); apply readCopy_keeps; exact h
            · intro k1; refine KeepsP.mk ?_; refine Keeps.of_pair ?_ (by assumption); apply readCopy_keeps
              refine Keeps.of_pair ?_ (by assumption); apply readCopy_keeps; exact h
          · refine KeepsP.mk ?_; refine Keeps.of_pair ?_ (by assumption); apply readCopy_keeps
            refine Keeps.of_pair ?_ (by assumption); apply readCopy_keeps; exact h
        · intro k2; refine KeepsP.mk ?_; refine Keeps.of_pair ?_ (by assumption); apply readCopy_keeps; exact h
      · split
        · refine KeepsP.mk ?_; apply repairPrimary_keeps; refine Keeps.of_pair ?_ (by assumption)
          apply readCopy_keeps; refine Keeps.of_pair ?_ (by assumption); apply readCopy_keeps; exact h
        · refine KeepsP.mk ?_; refine Keeps.of_pair ?_ (by assumption); apply readCopy_keeps
          refine Keeps.of_pair ?_ (by assumption); apply readCopy_keeps; exact h
    · intro k4; apply readCopy_keeps; exact h
  · intro k5; apply readCopy_keeps; exact h

theorem freeSlot_keeps {r : State} (s : State) (l : Core) (i : Nat) (h : Keeps r s) : Keeps r (freeSlot s l i) := by
  rw [show @freeSlot = _ from by delta freeSlot; exact rfl]; extract_lets +onlyGivenNames -underBinder v0
  clear_value v0; apply grant_keeps; apply modCore_keeps; exact h

theorem dropRequests_keeps {r : State} (s : State) (l : Core) (idx : Nat) (h : Keeps r s) : Keeps r (dropRequests s
    l idx) := by
  rw [show @dropRequests = _ from by delta dropRequests; exact rfl]; apply grant_keeps; apply modCore_keeps; exact h

theorem execMemReadResponse_keeps {r : State} (l : Core) (i : Nat) (errs mErrs : List SymErr) (s : State) (h : Keeps
    r s) : KeepsOut r (execMemReadResponse l i errs mErrs s) := by
  rw [show @execMemReadResponse = _ from by delta execMemReadResponse; exact rfl]; split
  · refine KeepsOut.next ?_; exact h
  · split
    · refine KeepsOut.next ?_; exact h
    · extract_lets +onlyGivenNames -underBinder v0
      have hv0 : KeepsP r v0 := by unfold v0; apply readGranule_keeps; exact h
      clear_value v0; split
      · refine KeepsOut.next ?_; apply freeSlot_keeps; refine KeepsP.fst ?_; exact hv0
      · refine KeepsOut.next ?_; apply opFault_keeps; apply dropRequests_keeps; apply freeSlot_keeps
        refine KeepsP.fst ?_; exact hv0

theorem execMemWriteAck_keeps {r : State} (l : Core) (i : Nat) (s : State) (h : Keeps r s) : KeepsOut r
    (execMemWriteAck l i s) := by
  rw [show @execMemWriteAck = _ from by delta execMemWriteAck; exact rfl]; split
  · refine KeepsOut.next ?_; exact h
  · split
    · refine KeepsOut.next ?_; apply freeSlot_keeps; exact h
    · refine KeepsOut.next ?_; exact h

theorem execMemRequestTimeout_keeps {r : State} (l : Core) (i : Nat) (late : Bool) (s : State) (h : Keeps r s) :
    KeepsOut r (execMemRequestTimeout l i late s) := by
  rw [show @execMemRequestTimeout = _ from by delta execMemRequestTimeout; exact rfl]; split
  · refine KeepsOut.next ?_; exact h
  · split
    · refine KeepsOut.next ?_; exact h
    · split
      · extract_lets +onlyGivenNames -underBinder v0
        have hv0 : Keeps r v0 := by unfold v0; apply lateAccept_keeps; exact h
        clear_value v0; split
        · apply execMemWriteAck_keeps; exact hv0
        · apply execMemReadResponse_keeps; exact hv0
      · refine KeepsOut.next ?_; apply opFault_keeps; apply dropRequests_keeps; exact h

theorem addSum_keeps {r : State} (s : State) (step ph origin q : Nat) (h : Keeps r s) : Keeps r (addSum s step ph
    origin q) := by
  rw [show @addSum = _ from by delta addSum; exact rfl]; refine Keeps.mk_iff.mpr ?_; exact h

theorem applyShift_keeps {r : State} (s : State) (step ph n : Nat) (h : Keeps r s) : Keeps r (applyShift s step ph
    n) := by
  rw [show @applyShift = _ from by delta applyShift; exact rfl]; refine Keeps.ite ?_ ?_
  · extract_lets +onlyGivenNames -underBinder v0 v1 v2 v3; clear_value v0; clear_value v1; clear_value v2
    clear_value v3; extract_lets +onlyGivenNames -underBinder v4
    have hv4 : Keeps r v4 := by unfold v4; refine Keeps.mk_iff.mpr ?_; exact h
    clear_value v4; apply bumpIf_keeps; exact hv4
  · intro k5; exact h

theorem registerStretch_keeps {r : State} (s : State) (step ph origin q : Nat) (h : Keeps r s) : Keeps r
    (registerStretch s step ph origin q) := by
  rw [show @registerStretch = _ from by delta registerStretch; exact rfl]; refine Keeps.ite ?_ ?_
  · extract_lets +onlyGivenNames -underBinder v0 v1 v2; clear_value v0
    have hv1 : Keeps r v1 := by unfold v1; apply addSum_keeps; exact h
    clear_value v1; clear_value v2; refine Keeps.ite ?_ ?_
    · extract_lets +onlyGivenNames -underBinder v3
      have hv3 : Keeps r v3 := by unfold v3; apply bump_keeps; apply bump_keeps; exact hv1
      clear_value v3; apply applyShift_keeps; refine Keeps.mk_iff.mpr ?_; exact hv3
    · intro k4; exact hv1
  · intro k5; apply bump_keeps; exact h

theorem sendOne_keeps {r : State} (s : State) (step ph q : Nat) (emerg : Bool) (h : Keeps r s) : Keeps r (sendOne s
    step ph q emerg) := by
  rw [show @sendOne = _ from by delta sendOne; exact rfl]; extract_lets +onlyGivenNames -underBinder v0 v1 v2 v3
  clear_value v0; clear_value v1
  have hv2 : Keeps r v2 := by unfold v2; refine Keeps.mk_iff.mpr ?_; exact h
  clear_value v2
  have hv3 : Keeps r v3 := by unfold v3; apply send_keeps; exact hv2
  clear_value v3; extract_lets +onlyGivenNames -underBinder v4
  have hv4 : Keeps r v4 := by unfold v4; apply bumpIf_keeps; apply bump_keeps; exact hv3
  clear_value v4; apply registerStretch_keeps; exact hv4

theorem sendPieces_keeps {r : State} (step ph : Nat) (emerg : Bool) (a x4 : Nat) (x5 : State) (h : Keeps r x5) :
    Keeps r (sendPieces step ph emerg a x4 x5) := by
  induction a generalizing step ph emerg x4 x5 with
  | zero =>
    unfold sendPieces; exact h
  | succ n ih =>
    unfold sendPieces; refine Keeps.ite ?_ ?_
    · apply ih; apply sendOne_keeps; exact h
    · intro k0; exact h

theorem requestStretch_keeps {r : State} (s : State) (step ph n : Nat) (emerg : Bool) (h : Keeps r s) : Keeps r
    (requestStretch s step ph n emerg) := by
  rw [show @requestStretch = _ from by delta requestStretch; exact rfl]
  extract_lets +onlyGivenNames -underBinder v0; clear_value v0; apply sendPieces_keeps; exact h

theorem projectPhase_keeps {r : State} (s : State) (ph e : Nat) (h : Keeps r s) : Keeps r (projectPhase s ph e) :=
    by
  rw [show @projectPhase = _ from by delta projectPhase; exact rfl]; extract_lets +onlyGivenNames -underBinder v0
  clear_value v0; refine Keeps.ite ?_ ?_
  · extract_lets +onlyGivenNames -underBinder v1; clear_value v1; refine Keeps.ite ?_ ?_
    · apply requestStretch_keeps; exact h
    · intro k2; apply requestStretch_keeps; exact h
  · intro k3; exact h

theorem projectEnd_keeps {r : State} (s : State) (l : Core) (e : Option Nat) (h : Keeps r s) : Keeps r (projectEnd s
    l e) := by
  rw [show @projectEnd = _ from by delta projectEnd; exact rfl]; split
  · apply projectPhase_keeps; exact h
  · exact h

theorem lateRequest_keeps {r : State} (s : State) (ph late : Nat) (h : Keeps r s) : Keeps r (lateRequest s ph late)
    := by
  rw [show @lateRequest = _ from by delta lateRequest; exact rfl]; extract_lets +onlyGivenNames -underBinder v0
  clear_value v0; refine Keeps.ite ?_ ?_
  · refine Keeps.ite ?_ ?_
    · apply requestStretch_keeps; exact h
    · intro k1; exact h
  · intro k2; apply requestStretch_keeps; exact h

theorem beginShifts_keeps {r : State} (s : State) (step : Nat) (h : Keeps r s) : Keeps r (beginShifts s step) := by
  rw [show @beginShifts = _ from by delta beginShifts; exact rfl]; extract_lets +onlyGivenNames -underBinder v0 v1
  clear_value v0; clear_value v1; refine Keeps.mk_iff.mpr ?_; exact h

theorem takeStretch_keeps {r : State} (m : StretchMsg) (s : State) (h : Keeps r s) : Keeps r (takeStretch m s) := by
  rw [show @takeStretch = _ from by delta takeStretch; exact rfl]; refine Keeps.ite ?_ ?_
  · extract_lets +onlyGivenNames -underBinder v0 v1 v2 v3; clear_value v0; clear_value v1; clear_value v2
    have hv3 : Keeps r v3 := by unfold v3; refine Keeps.mk_iff.mpr ?_; exact h
    clear_value v3; extract_lets +onlyGivenNames -underBinder v4; clear_value v4
    extract_lets +onlyGivenNames -underBinder v5
    have hv5 : Keeps r v5 := by
      unfold v5; refine Keeps.ite ?_ ?_
      · exact hv3
      · intro k6; apply send_keeps; exact k6
    clear_value v5; refine Keeps.ite ?_ ?_
    · exact hv5
    · intro k7; apply registerStretch_keeps; exact k7
  · intro k8; exact h

theorem execHeldBoundaryStretch_keeps {r : State} (s : State) (h : Keeps r s) : KeepsOut r (execHeldBoundaryStretch
    s) := by
  rw [show @execHeldBoundaryStretch = _ from by delta execHeldBoundaryStretch; exact rfl]; split
  · refine KeepsOut.next ?_; apply sendOne_keeps; exact h
  · refine KeepsOut.next ?_; exact h

theorem markIssue_keeps {r : State} (s : State) (l : Core) (idx : Nat) (w : BitVec 256) (h : Keeps r s) : Keeps r
    (markIssue s l idx w) := by
  rw [show @markIssue = _ from by delta markIssue; exact rfl]; apply setTokens_keeps; apply issue_keeps; exact h

theorem execPhaseOpen_keeps {r : State} (l : Core) (idx : Nat) (s : State) (h : Keeps r s) : KeepsOut r
    (execPhaseOpen l idx s) := by
  rw [show @execPhaseOpen = _ from by delta execPhaseOpen; exact rfl]; split
  · refine KeepsOut.next ?_; exact h
  · extract_lets +onlyGivenNames -underBinder v0; clear_value v0; split
    · refine KeepsOut.next ?_; exact h
    · extract_lets +onlyGivenNames -underBinder v1 v2 v3 v4; clear_value v1; clear_value v2
      have hv3 : Keeps r v3 := by unfold v3; apply modCore_keeps; apply markIssue_keeps; exact h
      clear_value v3; clear_value v4; extract_lets +onlyGivenNames -underBinder v5
      have hv5 : Keeps r v5 := by unfold v5; refine Keeps.mk_iff.mpr ?_; exact hv3
      clear_value v5; refine KeepsOut.next ?_; refine Keeps.ite ?_ ?_
      · exact hv5
      · intro k6; apply lateRequest_keeps; apply bump_keeps; exact k6

theorem requestBy_keeps {r : State} (s : State) (step ph d next : Nat) (h : Keeps r s) : Keeps r (requestBy s step
    ph d next) := by
  rw [show @requestBy = _ from by delta requestBy; exact rfl]; extract_lets +onlyGivenNames -underBinder v0
  clear_value v0; refine Keeps.ite ?_ ?_
  · refine Keeps.ite ?_ ?_
    · apply requestStretch_keeps; exact h
    · intro k1; apply requestStretch_keeps; exact h
  · intro k2; exact h

theorem stretchFetch_keeps {r : State} (s : State) (ph : Nat) (e : Option Nat) (h : Keeps r s) : Keeps r
    (stretchFetch s ph e) := by
  rw [show @stretchFetch = _ from by delta stretchFetch; exact rfl]; refine Keeps.ite ?_ ?_
  · extract_lets +onlyGivenNames -underBinder v0 v1 v2 v3; clear_value v0; clear_value v1; clear_value v2
    clear_value v3; apply requestBy_keeps; exact h
  · intro k4; apply requestBy_keeps; exact h

theorem execPhaseClose_keeps {r : State} (l : Core) (idx : Nat) (e : Option Nat) (s : State) (h : Keeps r s) :
    KeepsOut r (execPhaseClose l idx e s) := by
  rw [show @execPhaseClose = _ from by delta execPhaseClose; exact rfl]; split
  · refine KeepsOut.next ?_; exact h
  · extract_lets +onlyGivenNames -underBinder v0 v1 v2 v3; clear_value v0; clear_value v1
    have hv2 : Keeps r v2 := by unfold v2; apply modCore_keeps; apply markIssue_keeps; exact h
    clear_value v2; clear_value v3; extract_lets +onlyGivenNames -underBinder v4
    have hv4 : Keeps r v4 := by
      unfold v4; refine Keeps.ite ?_ ?_
      · exact hv2
      · intro k5; refine Keeps.mk_iff.mpr ?_; exact k5
    clear_value v4; split
    · refine KeepsOut.next ?_; apply stretchFetch_keeps; exact hv4
    · refine KeepsOut.next ?_; exact hv4

theorem modSlot_keeps {r : State} (s : State) (i : Nat) (f : VSlot → VSlot) (h : Keeps r s) : Keeps r (modSlot s i
    f) := by
  rw [show @modSlot = _ from by delta modSlot; exact rfl]; refine Keeps.mk_iff.mpr ?_; exact h

theorem markVersionFault_keeps {r : State} (s : State) (l : Core) (idx : Nat) (h : Keeps r s) : Keeps r
    (markVersionFault s l idx) := by
  rw [show @markVersionFault = _ from by delta markVersionFault; exact rfl]; apply opFault_keeps; apply bump_keeps
  exact h

theorem execMicrobatchOpen_keeps {r : State} (l : Core) (idx : Nat) (s : State) (h : Keeps r s) : KeepsOut r
    (execMicrobatchOpen l idx s) := by
  rw [show @execMicrobatchOpen = _ from by delta execMicrobatchOpen; exact rfl]; split
  · refine KeepsOut.next ?_; exact h
  · split
    · refine KeepsOut.next ?_; apply markVersionFault_keeps; exact h
    · refine KeepsOut.next ?_; apply modSlot_keeps; apply markIssue_keeps; exact h

theorem execMicrobatchClose_keeps {r : State} (l : Core) (idx : Nat) (s : State) (h : Keeps r s) : KeepsOut r
    (execMicrobatchClose l idx s) := by
  rw [show @execMicrobatchClose = _ from by delta execMicrobatchClose; exact rfl]; split
  · refine KeepsOut.next ?_; exact h
  · split
    · refine KeepsOut.next ?_; apply markVersionFault_keeps; exact h
    · split
      · refine KeepsOut.next ?_; apply opFault_keeps; apply bump_keeps; exact h
      · refine KeepsOut.next ?_; apply modSlot_keeps; apply markIssue_keeps; exact h

theorem execStepClose_keeps {r : State} (l : Core) (idx : Nat) (s : State) (h : Keeps r s) : KeepsOut r
    (execStepClose l idx s) := by
  rw [show @execStepClose = _ from by delta execStepClose; exact rfl]; split
  · refine KeepsOut.next ?_; exact h
  · refine KeepsOut.next ?_; apply modCore_keeps; apply markIssue_keeps; exact h

theorem productTraffic_keeps {r : State} (s : State) (l : Core) (idx : Nat) (q : Queue) (ds : List SplitDesc) (h :
    Keeps r s) : Keeps r (productTraffic s l idx q ds) := by
  rw [show @productTraffic = _ from by delta productTraffic; exact rfl]; apply traffic_keeps; exact h

theorem storeTile_keeps {r : State} (s : State) (g : TileGeom) (o : TileOut) (h : Keeps r s) : Keeps r (storeTile s
    g o) := by
  rw [show @storeTile = _ from by delta storeTile; exact rfl]; refine Keeps.foldl ?_ ?_
  · intro x0 x1 k2; apply writeBytes_keeps; exact k2
  · exact h

theorem storeTracker_keeps {r : State} (s : State) (c i : Nat) (t : Tracker) (h : Keeps r s) : Keeps r (storeTracker
    s c i t) := by
  rw [show @storeTracker = _ from by delta storeTracker; exact rfl]; split
  · exact h
  · extract_lets +onlyGivenNames -underBinder v0
    have hv0 : Keeps r v0 := by unfold v0; apply writeBytes_keeps; apply writeBytes_keeps; exact h
    clear_value v0; refine Keeps.ite ?_ ?_
    · exact hv0
    · intro k1; apply writeBytes_keeps; exact k1

theorem modTracker_keeps {r : State} (s : State) (c i : Nat) (f : Tracker → Tracker) (h : Keeps r s) : Keeps r
    (modTracker s c i f) := by
  rw [show @modTracker = _ from by delta modTracker; exact rfl]; split
  · exact h
  · apply storeTracker_keeps; refine Keeps.mk_iff.mpr ?_; exact h

theorem mapTrackers_keeps {r : State} (s : State) (f : Nat → Nat → Tracker → Tracker) (h : Keeps r s) : Keeps r
    (mapTrackers s f) := by
  rw [show @mapTrackers = _ from by delta mapTrackers; exact rfl]; refine Keeps.foldl ?_ ?_
  · intro x0 x1 k2; apply modTracker_keeps; exact k2
  · exact h

theorem storeTrackers_keeps {r : State} (s : State) (h : Keeps r s) : Keeps r (storeTrackers s) := by
  rw [show @storeTrackers = _ from by delta storeTrackers; exact rfl]; refine Keeps.foldl ?_ ?_
  · intro x0 x1 k2; split; refine Keeps.foldl ?_ ?_
    · intro x3 x4 k5; split; apply storeTracker_keeps; exact k5
    · exact k2
  · exact h

theorem modLayer_keeps {r : State} (s : State) (i : Nat) (f : Layer → Layer) (h : Keeps r s) : Keeps r (modLayer s i
    f) := by
  rw [show @modLayer = _ from by delta modLayer; exact rfl]; refine Keeps.mk_iff.mpr ?_; exact h

theorem countEvals_keeps {r : State} (s : State) (n : Nat) (h : Keeps r s) : Keeps r (countEvals s n) := by
  rw [show @countEvals = _ from by delta countEvals; exact rfl]; apply bump_keeps; exact h

theorem countFlush_keeps {r : State} (s : State) (l : Core) (n : Nat) (h : Keeps r s) : Keeps r (countFlush s l n)
    := by
  rw [show @countFlush = _ from by delta countFlush; exact rfl]; apply bumpIf_keeps; exact h

theorem countKey_keeps {r : State} (s : State) (h : Keeps r s) : Keeps r (countKey s) := by
  rw [show @countKey = _ from by delta countKey; exact rfl]; apply countEvals_keeps; exact h

theorem scaledPass_keeps {r : State} (s : State) (c : ConvSpec) (t : Tracker) (fm : Format) (out : Desc) (a :
    ConvArea) (measured : Bool) (h : Keeps r s) : KeepsP r (scaledPass s c t fm out a measured) := by
  rw [show @scaledPass = _ from by delta scaledPass; exact rfl]
  extract_lets +onlyGivenNames -underBinder v0 v1 v2 v3 v4 v5 v6 v7 v8 v9 v10 v11 v12 v13 v14 v15 v16 v17 v18 v19 v20 v21 v22 v23 v24 v25 v26 v27 v28 v29
  clear_value v0; clear_value v1; clear_value v2; clear_value v3; clear_value v4; clear_value v5; clear_value v6
  clear_value v7; clear_value v8; clear_value v9; clear_value v10; clear_value v11; clear_value v12; clear_value v13
  clear_value v15; clear_value v16; clear_value v17
  have hv18 : Keeps r v18 := by
    unfold v18; refine Keeps.foldl ?_ ?_
    · intro x30 x31 k32; extract_lets +onlyGivenNames -underBinder v33 v34; clear_value v33; clear_value v34; split
      apply writeBits_keeps; exact k32
    · exact h
  clear_value v18
  have hv19 : Keeps r v19 := by
    unfold v19; refine Keeps.foldl ?_ ?_
    · intro x35 x36 k37; refine Keeps.foldl ?_ ?_
      · intro x38 x39 k40; extract_lets +onlyGivenNames -underBinder v41 v42 v43 v44; clear_value v41
        clear_value v42; clear_value v43
        have hv44 : Keeps r v44 := by unfold v44; apply writeLE_keeps; exact k40
        clear_value v44; refine Keeps.ite ?_ ?_
        · exact hv44
        · intro k45; apply writeLE_keeps; exact k45
      · exact k37
    · exact hv18
  clear_value v19; clear_value v20; clear_value v21
  have hv22 : Keeps r v22 := by
    unfold v22; split
    · exact hv19
    · split; refine Keeps.ite ?_ ?_
      · extract_lets +onlyGivenNames -underBinder v46; clear_value v46; apply writeBytes_keeps; exact hv19
      · intro k47; extract_lets +onlyGivenNames -underBinder v48; clear_value v48; apply writeBytes_keeps
        exact hv19
  clear_value v22
  have hv23 : Keeps r v23 := by
    unfold v23; split
    · refine Keeps.ite ?_ ?_
      · exact hv22
      · intro k49; refine Keeps.foldl ?_ ?_
        · intro x50 x51 k52; extract_lets +onlyGivenNames -underBinder v53; clear_value v53; apply putCode_keeps
          exact k52
        · exact k49
    · exact hv22
  clear_value v23
  have hv24 : Keeps r v24 := by unfold v24; apply bumpIf_keeps; exact hv23
  clear_value v24
  have hv25 : Keeps r v25 := by unfold v25; apply bumpIf_keeps; exact hv24
  clear_value v25
  have hv26 : Keeps r v26 := by unfold v26; apply bumpIf_keeps; exact hv25
  clear_value v26
  have hv27 : Keeps r v27 := by unfold v27; apply bumpIf_keeps; exact hv26
  clear_value v27
  have hv28 : Keeps r v28 := by unfold v28; apply modTracker_keeps; exact hv27
  clear_value v28
  have hv29 : Keeps r v29 := by
    unfold v29; refine Keeps.ite ?_ ?_
    · exact hv28
    · intro k54; apply countEvals_keeps; exact k54
  clear_value v29; refine KeepsP.mk ?_; exact hv29

theorem plainPass_keeps {r : State} (s : State) (c : ConvSpec) (out : Desc) (a : ConvArea) (predicted : Bool) (h :
    Keeps r s) : KeepsP r (plainPass s c out a predicted) := by
  rw [show @plainPass = _ from by delta plainPass; exact rfl]
  extract_lets +onlyGivenNames -underBinder v0 v1 v2 v3 v4 v5 v6 v7 v8 v9 v10 v11; clear_value v0; clear_value v1
  clear_value v2; clear_value v3; clear_value v4
  have hv5 : Keeps r v5 := by
    unfold v5; refine Keeps.foldl ?_ ?_
    · intro x12 x13 k14; extract_lets +onlyGivenNames -underBinder v15 v16; clear_value v15; clear_value v16; split
      apply writeBits_keeps; exact k14
    · exact h
  clear_value v5
  have hv6 : Keeps r v6 := by unfold v6; apply bumpIf_keeps; exact hv5
  clear_value v6
  have hv7 : Keeps r v7 := by unfold v7; apply bumpIf_keeps; exact hv6
  clear_value v7; clear_value v8; clear_value v9
  have hv10 : Keeps r v10 := by
    unfold v10; refine Keeps.ite ?_ ?_
    · exact hv7
    · intro k17; apply modTracker_keeps; exact k17
  clear_value v10
  have hv11 : Keeps r v11 := by
    unfold v11; refine Keeps.ite ?_ ?_
    · exact hv10
    · intro k18; apply countEvals_keeps; exact k18
  clear_value v11; refine KeepsP.mk ?_; exact hv11

theorem putRung_keeps {r : State} (s : State) (r0 : RungCount) (h : Keeps r s) : Keeps r (putRung s r0) := by
  rw [show @putRung = _ from by delta putRung; exact rfl]; refine Keeps.mk_iff.mpr ?_; exact h

theorem climb_keeps {r : State} (s : State) (l : Core) (layer mb lo hi : Nat) (h : Keeps r s) : Keeps r (climb s l
    layer mb lo hi) := by
  rw [show @climb = _ from by delta climb; exact rfl]; extract_lets +onlyGivenNames -underBinder v0 v1 v2 v3 v4 v5
  clear_value v0; clear_value v1; clear_value v2
  have hv3 : Keeps r v3 := by unfold v3; apply putRung_keeps; exact h
  clear_value v3
  have hv4 : Keeps r v4 := by unfold v4; apply bumpIf_keeps; exact hv3
  clear_value v4
  have hv5 : Keeps r v5 := by unfold v5; apply bump_keeps; exact hv4
  clear_value v5; apply modLayer_keeps; exact hv5

theorem escalatedStart_keeps {r : State} (s : State) (l : Core) (layer rung : Nat) (h : Keeps r s) : Keeps r
    (escalatedStart s l layer rung) := by
  rw [show @escalatedStart = _ from by delta escalatedStart; exact rfl]
  extract_lets +onlyGivenNames -underBinder v0
  have hv0 : Keeps r v0 := by unfold v0; apply bump_keeps; exact h
  clear_value v0; apply modLayer_keeps; exact hv0

theorem fired_keeps {r : State} (s : State) (layer mb : Nat) (ovf spill nonfinite : Bool) (h : Keeps r s) : Keeps r
    (fired s layer mb ovf spill nonfinite) := by
  rw [show @fired = _ from by delta fired; exact rfl]; apply modLayer_keeps; exact h

theorem acceptTile_keeps {r : State} (s : State) (base : Nat) (a : ConvArea) (rung : Nat) (fm : Format) (ts : W32)
    (h : Keeps r s) : Keeps r (acceptTile s base a rung fm ts) := by
  rw [show @acceptTile = _ from by delta acceptTile; exact rfl]; refine Keeps.mk_iff.mpr ?_; exact h

theorem tilePass_keeps {r : State} (s : State) (c : ConvSpec) (fm : Format) (out : Desc) (a : ConvArea) (measured :
    Bool) (h : Keeps r s) : KeepsP r (tilePass s c fm out a measured) := by
  rw [show @tilePass = _ from by delta tilePass; exact rfl]; refine KeepsP.ite ?_ ?_
  · extract_lets +onlyGivenNames -underBinder v0 v1; clear_value v0
    have hv1 : Keeps r v1 := by
      unfold v1; refine Keeps.ite ?_ ?_
      · exact h
      · intro k2; apply modTracker_keeps; exact k2
    clear_value v1; apply plainPass_keeps; exact hv1
  · intro k3; split
    · apply scaledPass_keeps; exact h
    · refine KeepsP.mk ?_; exact h

theorem bindCore_keeps {r : State} (s : State) (l : Core) (q : Nat) (h : Keeps r s) : Keeps r (bindCore s l q) := by
  rw [show @bindCore = _ from by delta bindCore; exact rfl]; apply setReg_keeps; apply setReg_keeps; exact h

theorem needStore_keeps {r : State} (s : State) (h : Keeps r s) : Keeps r (needStore s) := by
  rw [show @needStore = _ from by delta needStore; exact rfl]; refine Keeps.mk_iff.mpr ?_; exact h

theorem releaseGuards_keeps {r : State} (s : State) (l : Core) (h : Keeps r s) : Keeps r (releaseGuards s l) := by
  rw [show @releaseGuards = _ from by delta releaseGuards; exact rfl]; apply modCore_keeps; exact h

theorem retireCore_keeps {r : State} (s : State) (l : Core) (h : Keeps r s) : Keeps r (retireCore s l) := by
  rw [show @retireCore = _ from by delta retireCore; exact rfl]
  extract_lets +onlyGivenNames -underBinder v0 v1 v2 v3; clear_value v0; clear_value v1
  have hv2 : Keeps r v2 := by unfold v2; apply needStore_keeps; apply setReg_keeps; exact h
  clear_value v2
  have hv3 : KeepsP r v3 := by
    unfold v3; refine KeepsP.foldl ?_ ?_
    · intro x4 x5 k6; split
      · refine KeepsP.mk ?_; apply releaseGuards_keeps; apply modCore_keeps; apply bindCore_keeps
        refine KeepsP.fst ?_; exact k6
      · refine KeepsP.mk ?_; apply modCore_keeps; refine KeepsP.fst ?_; exact k6
    · refine KeepsP.mk ?_; exact hv2
  clear_value v3; apply reportFault_keeps; refine KeepsP.fst ?_; exact hv3

end Sys2Proof.Machine
end

