-- ==== Sys2Proof/Laws/KeepsEngines.lean ====
section
/-!
SUPPORT. That the arrays, the conversions, the optimizer, the stores, attention and the key-value memory keep what `Keeps` says.
-/
namespace Sys2Proof.Machine

theorem modReed_keeps {r : State} (s : State) (l : Core) (f : TileRun → TileRun) (h : Keeps r s) : Keeps r (modReed
    s l f) := by
  rw [show @modReed = _ from by delta modReed; exact rfl]; apply modCore_keeps; exact h

theorem recordZeros_keeps {r : State} (s : State) (b : ProdBlock) (d : SplitDesc) (g : TileGeom) (h : Keeps r s) :
    Keeps r (recordZeros s b d g) := by
  rw [show @recordZeros = _ from by delta recordZeros; exact rfl]; split
  · exact h
  · refine Keeps.foldl ?_ ?_
    · intro x0 x1 k2; refine Keeps.foldl ?_ ?_
      · intro x3 x4 k5; apply putBit_keeps; exact k5
      · exact k2
    · exact h

theorem loadReedBank_keeps {r : State} (s : State) (l : Core) (b : ProdBlock) (ds : List SplitDesc) (r0 : TileRun)
    (h : Keeps r s) : KeepsP r (loadReedBank s l b ds r0) := by
  rw [show @loadReedBank = _ from by delta loadReedBank; exact rfl]; extract_lets +onlyGivenNames -underBinder v0 v1
  clear_value v0; clear_value v1; refine KeepsP.mk ?_; apply bumpIf_keeps; exact h

theorem reedActivate_keeps {r : State} (s : State) (l : Core) (b : ProdBlock) (ds : List SplitDesc) (r0 : TileRun)
    (h : Keeps r s) : Keeps r (reedActivate s l b ds r0) := by
  rw [show @reedActivate = _ from by delta reedActivate; exact rfl]; extract_lets +onlyGivenNames -underBinder v0 v1
  clear_value v0; clear_value v1; refine Keeps.ite ?_ ?_
  · split
    · refine Keeps.ite ?_ ?_
      · split; apply modCore_keeps; refine Keeps.of_pair ?_ (by assumption); apply loadReedBank_keeps; exact h
      · intro k2; apply modCore_keeps; exact h
    · split; apply modCore_keeps; refine Keeps.of_pair ?_ (by assumption); apply loadReedBank_keeps; exact h
  · intro k3; exact h

theorem reedPreload_keeps {r : State} (s : State) (l : Core) (b : ProdBlock) (ds : List SplitDesc) (r0 : TileRun) (h
    : Keeps r s) : Keeps r (reedPreload s l b ds r0) := by
  rw [show @reedPreload = _ from by delta reedPreload; exact rfl]; refine Keeps.ite ?_ ?_
  · exact h
  · intro k0; split; apply modCore_keeps; refine Keeps.of_pair ?_ (by assumption); apply loadReedBank_keeps
    exact k0

theorem countUnder_keeps {r : State} (s : State) (l : Core) (n : Nat) (h : Keeps r s) : Keeps r (countUnder s l n)
    := by
  rw [show @countUnder = _ from by delta countUnder; exact rfl]; apply bumpIf_keeps; exact h

theorem reedExecute_keeps {r : State} (s0 : State) (l : Core) (b : ProdBlock) (ds : List SplitDesc) (r0 : TileRun)
    (h : Keeps r s0) : Keeps r (reedExecute s0 l b ds r0) := by
  rw [show @reedExecute = _ from by delta reedExecute; exact rfl]; extract_lets +onlyGivenNames -underBinder v0
  have hv0 : Keeps r v0 := by unfold v0; apply reedPreload_keeps; apply reedActivate_keeps; exact h
  clear_value v0; split; extract_lets +onlyGivenNames -underBinder v1; clear_value v1; split
  · apply opFault_keeps; apply modCore_keeps; exact hv0
  · split
    · extract_lets +onlyGivenNames -underBinder v2
      have hv2 : Keeps r v2 := by unfold v2; apply modCore_keeps; exact hv0
      clear_value v2; apply opFault_keeps; exact hv2
    · extract_lets +onlyGivenNames -underBinder v3; clear_value v3; split
      · apply modCore_keeps; exact hv0
      · extract_lets +onlyGivenNames -underBinder v4 v5 v6 v7 v8 v9; clear_value v4; clear_value v5; clear_value v6
        have hv7 : Keeps r v7 := by
          unfold v7; refine Keeps.foldl ?_ ?_
          · intro x10 x11 k12; split; apply storeTile_keeps; exact k12
          · exact hv0
        clear_value v7
        have hv8 : Keeps r v8 := by
          unfold v8; refine Keeps.foldl ?_ ?_
          · intro x13 x14 k15; split; apply recordZeros_keeps; exact k15
          · exact hv7
        clear_value v8
        have hv9 : Keeps r v9 := by
          unfold v9; refine Keeps.foldl ?_ ?_
          · intro x16 x17 k18; split; apply countUnder_keeps; exact k18
          · exact hv8
        clear_value v9; apply modCore_keeps; exact hv9

theorem handToSlate_keeps {r : State} (s : State) (l : Core) (r0 : TileRun) (h : Keeps r s) : Keeps r
    (handToSlate s l r0) := by
  rw [show @handToSlate = _ from by delta handToSlate; exact rfl]; apply modCore_keeps; exact h

theorem stageRows_keeps {r : State} (s : State) (l : Core) (b : ProdBlock) (r0 : TileRun) (ds : List SplitDesc)
    (rung : Nat) (h : Keeps r s) : Keeps r (stageRows s l b r0 ds rung) := by
  rw [show @stageRows = _ from by delta stageRows; exact rfl]; split; extract_lets +onlyGivenNames -underBinder v0
  clear_value v0; refine Keeps.foldl ?_ ?_
  · intro x1 x2 k3; split; split
    · exact k3
    · extract_lets +onlyGivenNames -underBinder v4; clear_value v4; refine KeepsP.fst ?_; apply tilePass_keeps
      exact k3
  · exact h

theorem reedBegin_keeps {r : State} (s : State) (l : Core) (b : ProdBlock) (ds : List SplitDesc) (r0 : TileRun) (h :
    Keeps r s) : Keeps r (reedBegin s l b ds r0) := by
  rw [show @reedBegin = _ from by delta reedBegin; exact rfl]; split
  · split; extract_lets +onlyGivenNames -underBinder v0 v1 v2 v3; clear_value v0; clear_value v1; clear_value v2
    have hv3 : Keeps r v3 := by unfold v3; apply modLayer_keeps; exact h
    clear_value v3; refine Keeps.ite ?_ ?_
    · refine Keeps.ite ?_ ?_
      · apply reedExecute_keeps; exact hv3
      · intro k4; apply handToSlate_keeps; exact hv3
    · intro k5; extract_lets +onlyGivenNames -underBinder v6 v7
      have hv6 : Keeps r v6 := by unfold v6; apply escalatedStart_keeps; apply stageRows_keeps; exact hv3
      clear_value v6; clear_value v7; refine Keeps.ite ?_ ?_
      · apply reedExecute_keeps; exact hv6
      · intro k8; apply handToSlate_keeps; exact hv6
  · apply reedExecute_keeps; exact h

theorem reedNext_keeps {r : State} (s : State) (l : Core) (r0 : TileRun) (t : Nat) (h : Keeps r s) : Keeps r
    (reedNext s l r0 t) := by
  rw [show @reedNext = _ from by delta reedNext; exact rfl]; extract_lets +onlyGivenNames -underBinder v0
  clear_value v0; split
  · apply descFault_keeps; apply modCore_keeps; exact h
  · refine Keeps.ite ?_ ?_
    · apply reedBegin_keeps; exact h
    · intro k1; extract_lets +onlyGivenNames -underBinder v2; clear_value v2; apply markDone_keeps
      apply modCore_keeps; exact h

theorem fwdIssue_keeps {r : State} (s : State) (l : Core) (idx : Nat) (w : BitVec 256) (b : ProdBlock) (ds : List
    SplitDesc) (h : Keeps r s) : Keeps r (fwdIssue s l idx w b ds) := by
  rw [show @fwdIssue = _ from by delta fwdIssue; exact rfl]; split
  · apply opFault_keeps; exact h
  · apply reedNext_keeps; apply productTraffic_keeps; apply issue_keeps; exact h

theorem execFwd_keeps {r : State} (l : Core) (idx : Nat) (s : State) (h : Keeps r s) : KeepsOut r (execFwd l idx s)
    := by
  rw [show @execFwd = _ from by delta execFwd; exact rfl]; split
  · refine KeepsOut.next ?_; exact h
  · split
    · refine KeepsOut.next ?_; exact h
    · extract_lets +onlyGivenNames -underBinder v0; clear_value v0; split
      · refine KeepsOut.next ?_; apply descFault_keeps; exact h
      · refine KeepsOut.next ?_; apply fwdIssue_keeps; exact h

theorem execSkipMiss_keeps {r : State} (l : Core) (e : Option Nat) (s : State) (h : Keeps r s) : KeepsOut r
    (execSkipMiss l e s) := by
  rw [show @execSkipMiss = _ from by delta execSkipMiss; exact rfl]; split
  · refine KeepsOut.next ?_; exact h
  · split
    · refine KeepsOut.next ?_; exact h
    · extract_lets +onlyGivenNames -underBinder v0 v1
      have hv0 : Keeps r v0 := by unfold v0; apply bump_keeps; apply bump_keeps; exact h
      clear_value v0; clear_value v1; split
      · refine KeepsOut.next ?_; apply descFault_keeps; apply modCore_keeps; exact hv0
      · refine KeepsOut.next ?_; apply projectEnd_keeps; apply reedExecute_keeps; exact hv0

theorem execReedVerdict_keeps {r : State} (l : Core) (row : Nat) (ok : Bool) (e : Option Nat) (s : State) (h : Keeps
    r s) : KeepsOut r (execReedVerdict l row ok e s) := by
  rw [show @execReedVerdict = _ from by delta execReedVerdict; exact rfl]; split
  · refine KeepsOut.next ?_; exact h
  · split
    · refine KeepsOut.next ?_; exact h
    · split
      · refine KeepsOut.next ?_; refine Keeps.ite ?_ ?_
        · exact h
        · intro k0; apply modReed_keeps; exact k0
      · extract_lets +onlyGivenNames -underBinder v1
        have hv1 : Keeps r v1 := by unfold v1; apply bump_keeps; exact h
        clear_value v1; split
        · refine KeepsOut.next ?_; apply projectEnd_keeps; apply retireCore_keeps; exact hv1
        · extract_lets +onlyGivenNames -underBinder v2 v3 v4
          have hv2 : Keeps r v2 := by unfold v2; apply bump_keeps; exact hv1
          clear_value v2
          have hv3 : Keeps r v3 := by unfold v3; apply reportFault_keeps; exact hv2
          clear_value v3; clear_value v4; split
          · refine KeepsOut.next ?_; apply descFault_keeps; apply modCore_keeps; exact hv3
          · refine KeepsOut.next ?_; apply projectEnd_keeps; apply reedExecute_keeps; exact hv3

theorem writeStatus_keeps {r : State} (s : State) (l : Core) (b : ProdBlock) (r0 : TileRun) (slate : Bool) (h :
    Keeps r s) : Keeps r (writeStatus s l b r0 slate) := by
  rw [show @writeStatus = _ from by delta writeStatus; exact rfl]; split
  · refine Keeps.foldl ?_ ?_
    · intro x0 x1 k2; split; apply writeLE_keeps; exact k2
    · exact h
  · exact h

theorem captureNarrow_keeps {r : State} (s : State) (l : Core) (b : ProdBlock) (r0 : TileRun) (ds : List SplitDesc)
    (h : Keeps r s) : Keeps r (captureNarrow s l b r0 ds) := by
  rw [show @captureNarrow = _ from by delta captureNarrow; exact rfl]; split; refine Keeps.ite ?_ ?_
  · refine Keeps.foldl ?_ ?_
    · intro x0 x1 k2; split; split
      · exact k2
      · extract_lets +onlyGivenNames -underBinder v3 v4; clear_value v3; clear_value v4; refine Keeps.foldl ?_ ?_
        · intro x5 x6 k7; split; refine Keeps.ite ?_ ?_
          · exact k7
          · intro k8; extract_lets +onlyGivenNames -underBinder v9 v10; clear_value v9
            have hv10 : Keeps r v10 := by
              unfold v10; split
              · apply writeBytes_keeps; exact k8
              · exact k8
            clear_value v10; refine Keeps.mk_iff.mpr ?_; exact hv10
        · exact k2
    · exact h
  · intro k11; exact h

theorem reedFinish_keeps {r : State} (s : State) (l : Core) (r0 : TileRun) (slate : Bool) (h : Keeps r s) : Keeps r
    (reedFinish s l r0 slate) := by
  rw [show @reedFinish = _ from by delta reedFinish; exact rfl]; extract_lets +onlyGivenNames -underBinder v0
  clear_value v0; split
  · apply descFault_keeps; apply modCore_keeps; exact h
  · extract_lets +onlyGivenNames -underBinder v1 v2 v3
    have hv1 : Keeps r v1 := by unfold v1; apply writeStatus_keeps; exact h
    clear_value v1
    have hv2 : Keeps r v2 := by
      unfold v2; refine Keeps.ite ?_ ?_
      · apply bump_keeps; exact hv1
      · intro k4; exact hv1
    clear_value v2
    have hv3 : Keeps r v3 := by unfold v3; apply bumpIf_keeps; exact hv2
    clear_value v3; split
    · refine Keeps.ite ?_ ?_
      · extract_lets +onlyGivenNames -underBinder v5
        have hv5 : Keeps r v5 := by
          unfold v5; refine Keeps.ite ?_ ?_
          · exact hv3
          · intro k6; apply bump_keeps; apply fired_keeps; exact k6
        clear_value v5; apply reedNext_keeps; apply captureNarrow_keeps; exact hv5
      · intro k7; extract_lets +onlyGivenNames -underBinder v8 v9 v10 v11 v12 v13; clear_value v8
        have hv9 : Keeps r v9 := by unfold v9; apply fired_keeps; exact hv3
        clear_value v9
        have hv10 : Keeps r v10 := by unfold v10; apply climb_keeps; exact hv9
        clear_value v10
        have hv11 : Keeps r v11 := by unfold v11; apply bump_keeps; exact hv10
        clear_value v11
        have hv12 : Keeps r v12 := by unfold v12; apply stageRows_keeps; exact hv11
        clear_value v12; clear_value v13; refine Keeps.ite ?_ ?_
        · apply reedExecute_keeps; exact hv12
        · intro k14; apply handToSlate_keeps; exact hv12
    · apply reedNext_keeps; exact hv3

theorem sparDelay_keeps {r : State} (s : State) (l : Core) (e : Option Nat) (h : Keeps r s) : Keeps r (sparDelay s l
    e) := by
  rw [show @sparDelay = _ from by delta sparDelay; exact rfl]; extract_lets +onlyGivenNames -underBinder v0 v1
  have hv0 : Keeps r v0 := by unfold v0; apply projectEnd_keeps; exact h
  clear_value v0; clear_value v1; apply bumpIf_keeps; exact hv0

theorem execReedBankSwap_keeps {r : State} (l : Foreseen Core) (held : Nat) (s : State) (h : Keeps r s) :
    KeepsOut r (execReedBankSwap l held s) := by
  rw [show @execReedBankSwap = _ from by delta execReedBankSwap; exact rfl]; split
  · refine KeepsOut.next ?_; exact h
  · split
    · extract_lets +onlyGivenNames -underBinder v0
      have hv0 : Keeps r v0 := by unfold v0; apply reedFinish_keeps; apply bumpIf_keeps; exact h
      clear_value v0; refine KeepsOut.next ?_; refine Keeps.ite ?_ ?_
      · apply projectEnd_keeps; exact hv0
      · intro k1; apply sparDelay_keeps; exact hv0
    · refine KeepsOut.next ?_; exact h

theorem modSlate_keeps {r : State} (s : State) (l : Core) (f : TileRun → TileRun) (h : Keeps r s) : Keeps r
    (modSlate s l f) := by
  rw [show @modSlate = _ from by delta modSlate; exact rfl]; apply modCore_keeps; exact h

theorem slateBanks_keeps {r : State} (s : State) (l : Core) (b : ProdBlock) (ds : List SplitDesc) (idx t n : Nat) (h
    : Keeps r s) : Keeps r (slateBanks s l b ds idx t n) := by
  rw [show @slateBanks = _ from by delta slateBanks; exact rfl]; extract_lets +onlyGivenNames -underBinder v0 v1
  clear_value v0; clear_value v1; refine Keeps.ite ?_ ?_
  · extract_lets +onlyGivenNames -underBinder v2; clear_value v2; apply modCore_keeps; exact h
  · intro k3; exact h

theorem slateExecute_keeps {r : State} (s0 : State) (l : Core) (b : ProdBlock) (ds : List SplitDesc) (r0 : TileRun)
    (h : Keeps r s0) : Keeps r (slateExecute s0 l b ds r0) := by
  rw [show @slateExecute = _ from by delta slateExecute; exact rfl]
  extract_lets +onlyGivenNames -underBinder v0 v1 v2 v3 v4 v5 v6 v7
  have hv0 : Keeps r v0 := by unfold v0; apply slateBanks_keeps; exact h
  clear_value v0; clear_value v1; clear_value v2
  have hv3 : Keeps r v3 := by
    unfold v3; refine Keeps.foldl ?_ ?_
    · intro x8 x9 k10; split; apply storeTile_keeps; exact k10
    · exact hv0
  clear_value v3
  have hv4 : Keeps r v4 := by
    unfold v4; refine Keeps.foldl ?_ ?_
    · intro x11 x12 k13; split; apply countUnder_keeps; exact k13
    · exact hv3
  clear_value v4; clear_value v5
  have hv6 : Keeps r v6 := by unfold v6; apply bumpIf_keeps; exact hv4
  clear_value v6; clear_value v7; apply modCore_keeps; exact hv6

theorem slateNext_keeps {r : State} (s : State) (l : Core) (r0 : TileRun) (t0 : Nat) (h : Keeps r s) : Keeps r
    (slateNext s l r0 t0) := by
  rw [show @slateNext = _ from by delta slateNext; exact rfl]; extract_lets +onlyGivenNames -underBinder v0
  clear_value v0; split
  · apply descFault_keeps; apply modCore_keeps; exact h
  · extract_lets +onlyGivenNames -underBinder v1; clear_value v1; refine Keeps.ite ?_ ?_
    · extract_lets +onlyGivenNames -underBinder v2 v3; clear_value v2; clear_value v3; refine Keeps.ite ?_ ?_
      · apply slateExecute_keeps; exact h
      · intro k4; apply modCore_keeps; exact h
    · intro k5; apply markDone_keeps; apply modCore_keeps; exact h

theorem slateBegin_keeps {r : State} (s : State) (op : Opcode) (l : Core) (idx : Nat) (w : BitVec 256) (b :
    ProdBlock) (ds : List SplitDesc) (h : Keeps r s) : Keeps r (slateBegin s op l idx w b ds) := by
  rw [show @slateBegin = _ from by delta slateBegin; exact rfl]; split
  · apply opFault_keeps; exact h
  · extract_lets +onlyGivenNames -underBinder v0; clear_value v0; split
    · apply opFault_keeps; exact h
    · apply slateNext_keeps; apply productTraffic_keeps; apply issue_keeps; exact h

theorem slateIssue_keeps {r : State} (op : Opcode) (l : Core) (idx : Nat) (s : State) (h : Keeps r s) : Keeps r
    (slateIssue op l idx s) := by
  rw [show @slateIssue = _ from by delta slateIssue; exact rfl]; split
  · exact h
  · refine Keeps.ite ?_ ?_
    · extract_lets +onlyGivenNames -underBinder v0; clear_value v0; split
      · apply descFault_keeps; exact h
      · apply slateBegin_keeps; exact h
    · intro k1; exact h

theorem execBwd_keeps {r : State} (l : Core) (idx : Nat) (s : State) (h : Keeps r s) : KeepsOut r (execBwd l idx s)
    := by
  rw [show @execBwd = _ from by delta execBwd; exact rfl]; refine KeepsOut.next ?_; apply slateIssue_keeps; exact h

theorem execBpair_keeps {r : State} (l : Core) (idx : Nat) (s : State) (h : Keeps r s) : KeepsOut r (execBpair l idx
    s) := by
  rw [show @execBpair = _ from by delta execBpair; exact rfl]; refine KeepsOut.next ?_; apply slateIssue_keeps
  exact h

theorem execTiedsum_keeps {r : State} (l : Foreseen Core) (idx : Nat) (s : State) (h : Keeps r s) : KeepsOut
    r (execTiedsum l idx s) := by
  rw [show @execTiedsum = _ from by delta execTiedsum; exact rfl]; split
  · refine KeepsOut.next ?_; exact h
  · split
    · refine KeepsOut.next ?_; exact h
    · refine KeepsOut.next ?_; apply orFault_keeps
      · exact h
      · refine KeepsExc.bind ?_; intro x0; split; extract_lets +onlyGivenNames -underBinder v1 v2; clear_value v1
        have hv2 : Keeps r v2 := by
          unfold v2; refine Keeps.foldl ?_ ?_
          · intro x3 x4 k5; extract_lets +onlyGivenNames -underBinder v6; clear_value v6; apply writeBytes_keeps
            exact k5
          · apply traffic_keeps; apply issue_keeps; exact h
        clear_value v2; refine KeepsExc.ok ?_; apply projectEnd_keeps; apply markDone_keeps; exact hv2

theorem modSample_keeps {r : State} (s : State) (i : Nat) (f : Sample → Sample) (h : Keeps r s) : Keeps r (modSample
    s i f) := by
  rw [show @modSample = _ from by delta modSample; exact rfl]; refine Keeps.mk_iff.mpr ?_; exact h

theorem countConv_keeps {r : State} (s : State) (l : Core) (n : Nat × Nat) (h : Keeps r s) : Keeps r (countConv s l
    n) := by
  rw [show @countConv = _ from by delta countConv; exact rfl]; apply bumpIf_keeps; apply bumpIf_keeps; exact h

theorem shadowExecute_keeps {r : State} (s : State) (l : Core) (r0 : TileRun) (h : Keeps r s) : Keeps r
    (shadowExecute s l r0) := by
  rw [show @shadowExecute = _ from by delta shadowExecute; exact rfl]; split
  · apply modCore_keeps; exact h
  · split
    · apply modCore_keeps; exact h
    · split
      · apply modCore_keeps; exact h
      · extract_lets +onlyGivenNames -underBinder v0 v1 v2 v3 v4 v5; clear_value v0; clear_value v1
        have hv2 : Keeps r v2 := by unfold v2; apply countConv_keeps; exact h
        clear_value v2
        have hv3 : Keeps r v3 := by unfold v3; apply countUnder_keeps; exact hv2
        clear_value v3; clear_value v4
        have hv5 : Keeps r v5 := by unfold v5; apply modCore_keeps; exact hv3
        clear_value v5; refine Keeps.ite ?_ ?_
        · exact hv5
        · intro k6; apply modSample_keeps; exact k6

theorem repeatExecute_keeps {r : State} (s : State) (l : Core) (r0 : TileRun) (h : Keeps r s) : Keeps r
    (repeatExecute s l r0) := by
  rw [show @repeatExecute = _ from by delta repeatExecute; exact rfl]; extract_lets +onlyGivenNames -underBinder v0
  clear_value v0; split
  · apply descFault_keeps; apply modCore_keeps; exact h
  · extract_lets +onlyGivenNames -underBinder v1 v2 v3 v4 v5 v6; clear_value v1; clear_value v2
    have hv3 : Keeps r v3 := by
      unfold v3; refine Keeps.foldl ?_ ?_
      · intro x7 x8 k9; apply countConv_keeps; exact k9
      · exact h
    clear_value v3
    have hv4 : Keeps r v4 := by
      unfold v4; refine Keeps.foldl ?_ ?_
      · intro x10 x11 k12; split; apply storeTile_keeps; exact k12
      · exact hv3
    clear_value v4
    have hv5 : Keeps r v5 := by
      unfold v5; refine Keeps.foldl ?_ ?_
      · intro x13 x14 k15; split; apply countUnder_keeps; exact k15
      · exact hv4
    clear_value v5; clear_value v6; apply modCore_keeps; exact hv5

theorem countBorrow_keeps {r : State} (s : State) (l : Core) (r0 : TileRun) (failedRow : Option Nat) (h : Keeps r s)
    : Keeps r (countBorrow s l r0 failedRow) := by
  rw [show @countBorrow = _ from by delta countBorrow; exact rfl]; apply bumpIf_keeps; exact h

theorem execSlateBorrowIssue_keeps {r : State} (l : Foreseen Core) (loaded : Bool) (s : State) (h : Keeps r
    s) : KeepsOut r (execSlateBorrowIssue l loaded s) := by
  rw [show @execSlateBorrowIssue = _ from by delta execSlateBorrowIssue; exact rfl]
  extract_lets +onlyGivenNames -underBinder v0; clear_value v0; split
  · refine KeepsOut.next ?_; exact h
  · split
    · extract_lets +onlyGivenNames -underBinder v1
      have hv1 : Keeps r v1 := by unfold v1; apply bumpIf_keeps; exact h
      clear_value v1; refine KeepsOut.next ?_; apply sparDelay_keeps; apply repeatExecute_keeps; apply modCore_keeps
      exact hv1
    · split
      · refine KeepsOut.next ?_; exact h
      · split
        · refine KeepsOut.next ?_; exact h
        · extract_lets +onlyGivenNames -underBinder v2
          have hv2 : Keeps r v2 := by unfold v2; apply bumpIf_keeps; exact h
          clear_value v2; refine KeepsOut.next ?_; apply projectEnd_keeps; apply shadowExecute_keeps; exact hv2

theorem slateRepeat_keeps {r : State} (s : State) (l : Core) (r0 : TileRun) (h : Keeps r s) : Keeps r (slateRepeat s
    l r0) := by
  rw [show @slateRepeat = _ from by delta slateRepeat; exact rfl]; split
  · apply repeatExecute_keeps; exact h
  · apply shadowExecute_keeps; exact h
  · extract_lets +onlyGivenNames -underBinder v0; clear_value v0; split
    · apply descFault_keeps; apply modCore_keeps; exact h
    · apply slateExecute_keeps; exact h

theorem execSlateVerdict_keeps {r : State} (l : Core) (row : Nat) (ok : Bool) (e : Option Nat) (s : State) (h :
    Keeps r s) : KeepsOut r (execSlateVerdict l row ok e s) := by
  rw [show @execSlateVerdict = _ from by delta execSlateVerdict; exact rfl]; split
  · refine KeepsOut.next ?_; exact h
  · split
    · refine KeepsOut.next ?_; exact h
    · split
      · refine KeepsOut.next ?_; refine Keeps.ite ?_ ?_
        · exact h
        · intro k0; apply modSlate_keeps; exact k0
      · extract_lets +onlyGivenNames -underBinder v1
        have hv1 : Keeps r v1 := by unfold v1; apply countBorrow_keeps; apply bump_keeps; exact h
        clear_value v1; split
        · refine KeepsOut.next ?_; apply projectEnd_keeps; apply retireCore_keeps; exact hv1
        · extract_lets +onlyGivenNames -underBinder v2 v3
          have hv2 : Keeps r v2 := by unfold v2; apply bump_keeps; exact hv1
          clear_value v2
          have hv3 : Keeps r v3 := by unfold v3; apply reportFault_keeps; exact hv2
          clear_value v3; refine KeepsOut.next ?_; apply projectEnd_keeps; apply slateRepeat_keeps; exact hv3

theorem slateStatus_keeps {r : State} (s : State) (l : Core) (b : ProdBlock) (r0 : TileRun) (h : Keeps r s) : Keeps
    r (slateStatus s l b r0) := by
  rw [show @slateStatus = _ from by delta slateStatus; exact rfl]; extract_lets +onlyGivenNames -underBinder v0
  have hv0 : Keeps r v0 := by
    unfold v0; split
    · refine Keeps.foldl ?_ ?_
      · intro x1 x2 k3; split; apply writeLE_keeps; exact k3
      · exact h
    · exact h
  clear_value v0; exact hv0

theorem slateFlagCounts_keeps {r : State} (s : State) (l : Core) (r0 : TileRun) (h : Keeps r s) : Keeps r
    (slateFlagCounts s l r0) := by
  rw [show @slateFlagCounts = _ from by delta slateFlagCounts; exact rfl]
  extract_lets +onlyGivenNames -underBinder v0 v1 v2 v3; clear_value v0; clear_value v1
  have hv2 : Keeps r v2 := by unfold v2; apply bumpIf_keeps; exact h
  clear_value v2
  have hv3 : Keeps r v3 := by unfold v3; apply bumpIf_keeps; exact hv2
  clear_value v3; split
  · refine Keeps.ite ?_ ?_
    · apply modLayer_keeps; exact hv3
    · intro k4; exact hv3
  · exact hv3

theorem slateFinish_keeps {r : State} (s : State) (l : Core) (r0 : TileRun) (h : Keeps r s) : Keeps r (slateFinish s
    l r0) := by
  rw [show @slateFinish = _ from by delta slateFinish; exact rfl]; extract_lets +onlyGivenNames -underBinder v0
  have hv0 : Keeps r v0 := by unfold v0; apply countBorrow_keeps; apply bump_keeps; exact h
  clear_value v0; split
  · extract_lets +onlyGivenNames -underBinder v1 v2
    have hv1 : Keeps r v1 := by unfold v1; apply slateFlagCounts_keeps; exact hv0
    clear_value v1
    have hv2 : Keeps r v2 := by unfold v2; apply modCore_keeps; exact hv1
    clear_value v2; apply reedFinish_keeps; exact hv2
  · extract_lets +onlyGivenNames -underBinder v3
    have hv3 : Keeps r v3 := by unfold v3; apply modCore_keeps; exact hv0
    clear_value v3; split
    · exact hv3
    · split
      · exact hv3
      · apply modSample_keeps; exact hv3
  · extract_lets +onlyGivenNames -underBinder v4 v5; clear_value v4
    have hv5 : Keeps r v5 := by unfold v5; apply slateFlagCounts_keeps; apply slateStatus_keeps; exact hv0
    clear_value v5; apply slateNext_keeps; exact hv5

theorem execSlateBankSwap_keeps {r : State} (l : Foreseen Core) (s : State) (h : Keeps r s) : KeepsOut r
    (execSlateBankSwap l s) := by
  rw [show @execSlateBankSwap = _ from by delta execSlateBankSwap; exact rfl]; split
  · refine KeepsOut.next ?_; exact h
  · split
    · refine KeepsOut.next ?_; apply projectEnd_keeps; apply slateFinish_keeps; exact h
    · refine KeepsOut.next ?_; exact h

theorem execCoreMoveDone.slateMoved_keeps {r : State} (l : Core) (s : State) (r0 : TileRun) (h : Keeps r s) :
    KeepsOut r (execCoreMoveDone.slateMoved l s r0) := by
  rw [show @execCoreMoveDone.slateMoved = _ from by delta execCoreMoveDone.slateMoved; exact rfl]
  refine KeepsOut.next ?_; apply Machine.slateRepeat_keeps; apply Machine.modCore_keeps; exact h

theorem execCoreMoveDone_keeps {r : State} (l : Core) (s : State) (h : Keeps r s) : KeepsOut r (execCoreMoveDone l
    s) := by
  rw [show @execCoreMoveDone = _ from by delta execCoreMoveDone; exact rfl]
  extract_lets +onlyGivenNames -underBinder v0; clear_value v0; split
  · refine KeepsOut.next ?_; exact h
  · extract_lets +onlyGivenNames -underBinder v1 v2 v3 v4
    have hv1 : Keeps r v1 := by unfold v1; apply copyMem_keeps; exact h
    clear_value v1; clear_value v2
    have hv3 : Keeps r v3 := by unfold v3; apply modCore_keeps; exact hv1
    clear_value v3
    have hv4 : Keeps r v4 := by
      unfold v4; split
      · refine Keeps.ite ?_ ?_
        · exact hv3
        · intro k5; extract_lets +onlyGivenNames -underBinder v6 v7
          have hv6 : Keeps r v6 := by unfold v6; apply bump_keeps; exact k5
          clear_value v6; clear_value v7; split
          · apply descFault_keeps; apply modCore_keeps; exact hv6
          · extract_lets +onlyGivenNames -underBinder v8
            have hv8 : Keeps r v8 := by unfold v8; apply modCore_keeps; exact hv6
            clear_value v8; apply reedExecute_keeps; exact hv8
      · exact hv3
    clear_value v4; split
    · split
      · apply execCoreMoveDone.slateMoved_keeps; apply bump_keeps; exact hv4
      · refine KeepsOut.next ?_; exact hv4
    · refine KeepsOut.next ?_; exact hv4

theorem execNop_keeps {r : State} (l : Core) (idx : Nat) (s : State) (h : Keeps r s) : KeepsOut r (execNop l idx s)
    := by
  rw [show @execNop = _ from by delta execNop; exact rfl]; split
  · refine KeepsOut.next ?_; exact h
  · split
    · refine KeepsOut.next ?_; apply setTokens_keeps; apply issue_keeps; exact h
    · refine KeepsOut.next ?_; exact h

theorem execWait_keeps {r : State} (l : Core) (idx : Nat) (s : State) (h : Keeps r s) : KeepsOut r (execWait l idx
    s) := by
  rw [show @execWait = _ from by delta execWait; exact rfl]; split
  · refine KeepsOut.next ?_; exact h
  · split
    · refine KeepsOut.next ?_; apply setTokens_keeps; apply issue_keeps; exact h
    · refine KeepsOut.next ?_; exact h

theorem execSignal_keeps {r : State} (l : Core) (idx : Nat) (s : State) (h : Keeps r s) : KeepsOut r (execSignal l
    idx s) := by
  rw [show @execSignal = _ from by delta execSignal; exact rfl]; split
  · refine KeepsOut.next ?_; exact h
  · split
    · extract_lets +onlyGivenNames -underBinder v0
      have hv0 : Keeps r v0 := by unfold v0; apply setTokens_keeps; apply issue_keeps; exact h
      clear_value v0; refine KeepsOut.next ?_; refine Keeps.mk_iff.mpr ?_; exact hv0
    · refine KeepsOut.next ?_; exact h

theorem execSignalArrival_keeps {r : State} (l : Foreseen Core) (s : State) (h : Keeps r s) : KeepsOut r
    (execSignalArrival l s) := by
  rw [show @execSignalArrival = _ from by delta execSignalArrival; exact rfl]; split
  · refine KeepsOut.next ?_; exact h
  · refine KeepsOut.next ?_; apply projectEnd_keeps; apply setToken_keeps; refine Keeps.mk_iff.mpr ?_; exact h

theorem execFence_keeps {r : State} (l : Core) (idx : Nat) (s : State) (h : Keeps r s) : KeepsOut r (execFence l idx
    s) := by
  rw [show @execFence = _ from by delta execFence; exact rfl]; split
  · refine KeepsOut.next ?_; exact h
  · split
    · extract_lets +onlyGivenNames -underBinder v0 v1
      have hv0 : Keeps r v0 := by unfold v0; apply issue_keeps; exact h
      clear_value v0
      have hv1 : Keeps r v1 := by
        unfold v1; refine Keeps.ite ?_ ?_
        · exact hv0
        · intro k2; apply invalidateCache_keeps; exact k2
      clear_value v1; refine KeepsOut.next ?_; apply setTokens_keeps; exact hv1
    · refine KeepsOut.next ?_; exact h

theorem execTokenTimeout_keeps {r : State} (l : Core) (late : Option (Fin 256)) (s : State) (h : Keeps r s) :
    KeepsOut r (execTokenTimeout l late s) := by
  rw [show @execTokenTimeout = _ from by delta execTokenTimeout; exact rfl]
  extract_lets +onlyGivenNames -underBinder v0; clear_value v0; split
  · refine KeepsOut.next ?_; exact h
  · split
    · refine KeepsOut.next ?_; exact h
    · split
      · refine KeepsOut.next ?_; apply setToken_keeps; apply lateAccept_keeps; exact h
      · extract_lets +onlyGivenNames -underBinder v1; clear_value v1; refine KeepsOut.next ?_; apply opFault_keeps
        exact h

theorem modAct_keeps {r : State} (s : State) (u : ArrayUnit) (f : Activity → Activity) (h : Keeps r s) : Keeps r
    (modAct s u f) := by
  rw [show @modAct = _ from by delta modAct; exact rfl]; split
  · apply modCore_keeps; exact h
  · apply modCore_keeps; exact h
  · refine Keeps.mk_iff.mpr ?_; exact h

theorem execActivityWindow_keeps {r : State} (u : Foreseen ArrayUnit) (real straw : Nat) (s : State) (h :
    Keeps r s) : KeepsOut r (execActivityWindow u real straw s) := by
  rw [show @execActivityWindow = _ from by delta execActivityWindow; exact rfl]
  extract_lets +onlyGivenNames -underBinder v0; clear_value v0; split
  · refine KeepsOut.next ?_; exact h
  · extract_lets +onlyGivenNames -underBinder v1 v2 v3 v4 v5 v6; clear_value v1; clear_value v2; clear_value v3
    have hv4 : Keeps r v4 := by unfold v4; apply modAct_keeps; exact h
    clear_value v4; clear_value v5
    have hv6 : Keeps r v6 := by unfold v6; apply bumpIf_keeps; exact hv4
    clear_value v6; refine KeepsOut.next ?_; split
    · refine Keeps.ite ?_ ?_
      · exact hv6
      · intro k7; apply projectEnd_keeps; exact k7
    · exact hv6

theorem restCore_keeps {r : State} (s : State) (l : Core) (h : Keeps r s) : Keeps r (restCore s l) := by
  rw [show @restCore = _ from by delta restCore; exact rfl]; extract_lets +onlyGivenNames -underBinder v0
  clear_value v0; refine Keeps.ite ?_ ?_
  · exact h
  · intro k1; apply modCore_keeps; exact k1

theorem execArrayRampDown_keeps {r : State} (u : ArrayUnit) (s : State) (h : Keeps r s) : KeepsOut r
    (execArrayRampDown u s) := by
  rw [show @execArrayRampDown = _ from by delta execArrayRampDown; exact rfl]
  extract_lets +onlyGivenNames -underBinder v0; clear_value v0; split
  · refine KeepsOut.next ?_; exact h
  · refine KeepsOut.next ?_; apply modAct_keeps; exact h

theorem wakePipes_keeps {r : State} (s : State) (l : Core) (h : Keeps r s) : Keeps r (wakePipes s l) := by
  rw [show @wakePipes = _ from by delta wakePipes; exact rfl]; refine Keeps.ite ?_ ?_
  · exact h
  · intro k0; refine Keeps.foldl ?_ ?_
    · intro x1 x2 k3; apply modAct_keeps; exact k3
    · exact k0

theorem execWakeTimer_keeps {r : State} (l : Foreseen Core) (s : State) (h : Keeps r s) : KeepsOut r
    (execWakeTimer l s) := by
  rw [show @execWakeTimer = _ from by delta execWakeTimer; exact rfl]
  extract_lets +onlyGivenNames -underBinder v0 v1; clear_value v0; clear_value v1; split
  · refine KeepsOut.next ?_; exact h
  · refine KeepsOut.next ?_; apply projectEnd_keeps; apply wakePipes_keeps; apply modCore_keeps; exact h

theorem execTsSwitch_keeps {r : State} (l : Foreseen Core) (s : State) (h : Keeps r s) : KeepsOut r
    (execTsSwitch l s) := by
  rw [show @execTsSwitch = _ from by delta execTsSwitch; exact rfl]; split
  · refine KeepsOut.next ?_; exact h
  · extract_lets +onlyGivenNames -underBinder v0; clear_value v0; split
    · refine KeepsOut.next ?_; exact h
    · extract_lets +onlyGivenNames -underBinder v1 v2 v3 v4 v5
      have hv1 : Keeps r v1 := by unfold v1; apply copyMem_keeps; exact h
      clear_value v1
      have hv2 : Keeps r v2 := by unfold v2; apply copyMem_keeps; exact hv1
      clear_value v2
      have hv3 : Keeps r v3 := by unfold v3; apply invalidateCache_keeps; apply invalidateCache_keeps; exact hv2
      clear_value v3
      have hv4 : Keeps r v4 := by unfold v4; apply modCore_keeps; exact hv3
      clear_value v4
      have hv5 : Keeps r v5 := by unfold v5; apply modCore_keeps; exact hv4
      clear_value v5; refine KeepsOut.next ?_; apply projectEnd_keeps; apply bump_keeps; exact hv5

theorem putRowBytes_keeps {r : State} (s : State) (d : Desc) (b : List Byte) (h : Keeps r s) : Keeps r (putRowBytes
    s d b) := by
  rw [show @putRowBytes = _ from by delta putRowBytes; exact rfl]; refine Keeps.ite ?_ ?_
  · refine Keeps.foldl ?_ ?_
    · intro x0 x1 k2; apply writeBytes_keeps; exact k2
    · exact h
  · intro k3; apply writeBytes_keeps; exact h

theorem copyPlane_keeps {r : State} (s : State) (src dst : Desc) (transpose : Bool) (h : Keeps r s) : Keeps r
    (copyPlane s src dst transpose) := by
  rw [show @copyPlane = _ from by delta copyPlane; exact rfl]; refine Keeps.ite ?_ ?_
  · refine Keeps.ite ?_ ?_
    · extract_lets +onlyGivenNames -underBinder v0 v1; clear_value v0; clear_value v1; apply writeBytes_keeps
      exact h
    · intro k2; apply writeBytes_keeps; exact h
  · intro k3; exact h

theorem copyData_keeps {r : State} (s : State) (src dst : Desc) (transpose planes : Bool) (h : Keeps r s) : Keeps r
    (copyData s src dst transpose planes) := by
  rw [show @copyData = _ from by delta copyData; exact rfl]; extract_lets +onlyGivenNames -underBinder v0
  have hv0 : Keeps r v0 := by
    unfold v0; refine Keeps.ite ?_ ?_
    · apply putRowBytes_keeps; exact h
    · intro k1; refine Keeps.foldl ?_ ?_
      · intro x2 x3 k4; extract_lets +onlyGivenNames -underBinder v5; clear_value v5; apply writeBits_keeps
        exact k4
      · exact h
  clear_value v0; refine Keeps.ite ?_ ?_
  · exact hv0
  · intro k6; extract_lets +onlyGivenNames -underBinder v7
    have hv7 : Keeps r v7 := by unfold v7; apply copyPlane_keeps; exact h
    clear_value v7; refine Keeps.ite ?_ ?_
    · apply writeBytes_keeps; exact k6
    · intro k8; exact k6

theorem execCopy_keeps {r : State} (l : Core) (idx : Nat) (s : State) (h : Keeps r s) : KeepsOut r (execCopy l idx
    s) := by
  rw [show @execCopy = _ from by delta execCopy; exact rfl]; split
  · refine KeepsOut.next ?_; exact h
  · split
    · refine KeepsOut.next ?_; exact h
    · refine KeepsOut.next ?_; apply orFault_keeps
      · exact h
      · refine KeepsExc.bind ?_; intro x0; refine KeepsExc.bind ?_; intro x1
        extract_lets +onlyGivenNames -underBinder v2 v3 v4 v5 v6; clear_value v2; clear_value v3; clear_value v4
        have hv5 : Keeps r v5 := by unfold v5; apply readRuns_keeps; apply issue_keeps; exact h
        clear_value v5
        have hv6 : Keeps r v6 := by unfold v6; apply copyData_keeps; apply askRuns_keeps; exact hv5
        clear_value v6; refine KeepsExc.ok ?_; refine Keeps.ite ?_ ?_
        · apply markDone_keeps; exact hv6
        · intro k7; apply modCore_keeps; exact hv6

theorem execCopyRowPublish_keeps {r : State} (l : Foreseen Core) (idx : Nat) (s : State) (h : Keeps r s) :
    KeepsOut r (execCopyRowPublish l idx s) := by
  rw [show @execCopyRowPublish = _ from by delta execCopyRowPublish; exact rfl]; split
  · refine KeepsOut.next ?_; exact h
  · split
    · extract_lets +onlyGivenNames -underBinder v0 v1 v2 v3; clear_value v0; clear_value v1
      have hv2 : Keeps r v2 := by unfold v2; apply modCore_keeps; exact h
      clear_value v2
      have hv3 : Keeps r v3 := by
        unfold v3; refine Keeps.ite ?_ ?_
        · exact hv2
        · intro k4; apply markDone_keeps; exact k4
      clear_value v3; split
      · split
        · refine KeepsOut.next ?_; apply projectEnd_keeps; apply slateNext_keeps; exact hv3
        · refine KeepsOut.next ?_; exact hv3
      · refine KeepsOut.next ?_; exact hv3
    · refine KeepsOut.next ?_; exact h

theorem execPrefetch_keeps {r : State} (l : Core) (idx : Nat) (s : State) (h : Keeps r s) : KeepsOut r (execPrefetch
    l idx s) := by
  rw [show @execPrefetch = _ from by delta execPrefetch; exact rfl]; split
  · refine KeepsOut.next ?_; exact h
  · split
    · refine KeepsOut.next ?_; exact h
    · refine KeepsOut.next ?_; apply orFault_keeps
      · exact h
      · refine KeepsExc.bind ?_; intro x0; refine KeepsExc.bind ?_; intro x1
        extract_lets +onlyGivenNames -underBinder v2 v3 v4 v5
        have hv2 : Keeps r v2 := by unfold v2; apply issue_keeps; exact h
        clear_value v2; clear_value v3
        have hv4 : Keeps r v4 := by unfold v4; apply modCore_keeps; exact hv2
        clear_value v4
        have hv5 : Keeps r v5 := by unfold v5; apply askRuns_keeps; exact hv4
        clear_value v5; refine KeepsExc.ok ?_; apply markDone_keeps; apply putRowBytes_keeps; exact hv5

theorem refetch_keeps {r : State} (s : State) (l : Core) (g : Guard) (w : BitVec 256) (h : Keeps r s) : Keeps r
    (refetch s l g w) := by
  rw [show @refetch = _ from by delta refetch; exact rfl]; split
  · extract_lets +onlyGivenNames -underBinder v0 v1
    have hv0 : Keeps r v0 := by unfold v0; apply modCore_keeps; exact h
    clear_value v0
    have hv1 : Keeps r v1 := by unfold v1; apply putRowBytes_keeps; exact hv0
    clear_value v1; apply askRuns_keeps; apply bump_keeps; exact hv1
  · exact h

theorem execPrefetchRefetch_keeps {r : State} (l : Core) (idx : Nat) (e : Option Nat) (s : State) (h : Keeps r s) :
    KeepsOut r (execPrefetchRefetch l idx e s) := by
  rw [show @execPrefetchRefetch = _ from by delta execPrefetchRefetch; exact rfl]
  extract_lets +onlyGivenNames -underBinder v0; clear_value v0; split
  · split
    · refine KeepsOut.next ?_; exact h
    · split
      · extract_lets +onlyGivenNames -underBinder v1; clear_value v1; refine KeepsOut.next ?_; apply opFault_keeps
        exact h
      · split
        · refine KeepsOut.next ?_; apply projectEnd_keeps; apply refetch_keeps; exact h
        · refine KeepsOut.next ?_; exact h
  · refine KeepsOut.next ?_; exact h

theorem captureRows_keeps {r : State} (s : State) (l : Core) (idx : Nat) (c : ConvSpec) (h : Keeps r s) : Keeps r
    (captureRows s l idx c) := by
  rw [show @captureRows = _ from by delta captureRows; exact rfl]; refine Keeps.foldl ?_ ?_
  · intro x0 x1 k2; split; refine Keeps.ite ?_ ?_
    · exact k2
    · intro k3; extract_lets +onlyGivenNames -underBinder v4 v5; clear_value v4
      have hv5 : Keeps r v5 := by
        unfold v5; split
        · apply writeBytes_keeps; exact k3
        · exact k3
      clear_value v5; apply countConv_keeps; apply modSample_keeps; exact hv5
  · exact h

theorem passTraffic_keeps {r : State} (s : State) (l : Core) (idx : Nat) (c : ConvSpec) (a : ConvArea) (measured
    again : Bool) (h : Keeps r s) : Keeps r (passTraffic s l idx c a measured again) := by
  rw [show @passTraffic = _ from by delta passTraffic; exact rfl]; extract_lets +onlyGivenNames -underBinder v0 v1
  have hv0 : Keeps r v0 := by
    unfold v0; refine Keeps.ite ?_ ?_
    · exact h
    · intro k2; apply askRuns_keeps; exact k2
  clear_value v0
  have hv1 : Keeps r v1 := by
    unfold v1; refine Keeps.ite ?_ ?_
    · exact hv0
    · intro k3; apply askRuns_keeps; exact k3
  clear_value v1; refine Keeps.ite ?_ ?_
  · exact hv1
  · intro k4; apply askRuns_keeps; exact k4

theorem plainAreas_keeps {r : State} (s : State) (l : Core) (idx : Nat) (c : ConvSpec) (areas : List ConvArea)
    (measured again : Bool) (h : Keeps r s) : KeepsP r (plainAreas s l idx c areas measured again) := by
  rw [show @plainAreas = _ from by delta plainAreas; exact rfl]; refine KeepsP.foldl ?_ ?_
  · intro x0 x1 k2; extract_lets +onlyGivenNames -underBinder v3 v4
    have hv3 : Keeps r v3 := by unfold v3; apply passTraffic_keeps; refine KeepsP.fst ?_; exact k2
    clear_value v3
    have hv4 : KeepsP r v4 := by
      unfold v4; refine KeepsP.ite ?_ ?_
      · apply plainPass_keeps; exact hv3
      · intro k5; apply tilePass_keeps; exact hv3
    clear_value v4; refine KeepsP.mk ?_; refine KeepsP.fst ?_; exact hv4
  · refine KeepsP.mk ?_; exact h

theorem convertPlain_keeps {r : State} (s : State) (l : Core) (idx : Nat) (e : Option Nat) (c : ConvSpec) (h : Keeps
    r s) : Keeps r (convertPlain s l idx e c) := by
  rw [show @convertPlain = _ from by delta convertPlain; exact rfl]
  extract_lets +onlyGivenNames -underBinder v0 v1 v2 v3 v4 v5 v6 v7 v8; clear_value v0; clear_value v1
  clear_value v2; clear_value v3; clear_value v4
  have hv5 : KeepsP r v5 := by unfold v5; apply plainAreas_keeps; exact h
  clear_value v5; clear_value v6
  have hv7 : Keeps r v7 := by
    unfold v7; refine Keeps.ite ?_ ?_
    · refine KeepsP.fst ?_; exact hv5
    · intro k9; refine KeepsP.fst ?_; apply plainAreas_keeps; apply bump_keeps; exact k9
  clear_value v7
  have hv8 : Keeps r v8 := by unfold v8; apply markDone_keeps; exact hv7
  clear_value v8; refine Keeps.ite ?_ ?_
  · exact hv8
  · intro k10; apply sparDelay_keeps; exact k10

theorem modTile_keeps {r : State} (s : State) (t : ConvTile) (f : ConvTile → ConvTile) (h : Keeps r s) : Keeps r
    (modTile s t f) := by
  rw [show @modTile = _ from by delta modTile; exact rfl]; refine Keeps.mk_iff.mpr ?_; exact h

theorem startTile_keeps {r : State} (s : State) (l : Core) (c : ConvSpec) (t : ConvTile) (layer mb : Nat) (h : Keeps
    r s) : Keeps r (startTile s l c t layer mb) := by
  rw [show @startTile = _ from by delta startTile; exact rfl]
  extract_lets +onlyGivenNames -underBinder v0 v1 v2 v3 v4 v5 v6 v7 v8 v9; clear_value v0; clear_value v1
  clear_value v2; clear_value v3; clear_value v4; clear_value v5; clear_value v6
  have hv7 : Keeps r v7 := by
    unfold v7; refine Keeps.ite ?_ ?_
    · apply modLayer_keeps; exact h
    · intro k10; apply escalatedStart_keeps; exact h
  clear_value v7
  have hv8 : Keeps r v8 := by unfold v8; apply passTraffic_keeps; exact hv7
  clear_value v8
  have hv9 : KeepsP r v9 := by unfold v9; apply tilePass_keeps; exact hv8
  clear_value v9; apply modTile_keeps; refine KeepsP.fst ?_; exact hv9

theorem startNext_keeps {r : State} (s : State) (l : Core) (idx : Nat) (e : Option Nat) (c : ConvSpec) (h : Keeps r
    s) : Keeps r (startNext s l idx e c) := by
  rw [show @startNext = _ from by delta startNext; exact rfl]; split
  · split
    · extract_lets +onlyGivenNames -underBinder v0 v1
      have hv0 : Keeps r v0 := by unfold v0; apply startTile_keeps; exact h
      clear_value v0; clear_value v1; refine Keeps.ite ?_ ?_
      · exact hv0
      · intro k2; apply sparDelay_keeps; exact k2
    · exact h
  · exact h

theorem convertLadder_keeps {r : State} (s : State) (l : Core) (idx : Nat) (e : Option Nat) (w : BitVec 256) (c :
    ConvSpec) (t : Tracker) (layer mb : Nat) (h : Keeps r s) : Keeps r (convertLadder s l idx e w c t layer mb) :=
    by
  rw [show @convertLadder = _ from by delta convertLadder; exact rfl]
  extract_lets +onlyGivenNames -underBinder v0 v1; clear_value v0
  have hv1 : Keeps r v1 := by unfold v1; apply modFlight_keeps; exact h
  clear_value v1; apply startNext_keeps; refine Keeps.mk_iff.mpr ?_; exact hv1

theorem markFilling_keeps {r : State} (s : State) (h : Keeps r s) : Keeps r (markFilling s) := by
  rw [show @markFilling = _ from by delta markFilling; exact rfl]; refine Keeps.ite ?_ ?_
  · split
    · apply modSlot_keeps; exact h
    · exact h
  · intro k0; exact h

theorem stageTen_keeps {r : State} (s : State) (kind : Nat) (h : Keeps r s) : Keeps r (stageTen s kind) := by
  rw [show @stageTen = _ from by delta stageTen; exact rfl]; refine Keeps.ite ?_ ?_
  · exact h
  · intro k0; apply markFilling_keeps; exact k0

theorem startFilling_keeps {r : State} (s : State) (c : ConvSpec) (h : Keeps r s) : Keeps r (startFilling s c) := by
  rw [show @startFilling = _ from by delta startFilling; exact rfl]; refine Keeps.ite ?_ ?_
  · exact h
  · intro k0; apply markFilling_keeps; exact k0

theorem execConvert_keeps {r : State} (l : Foreseen Core) (idx : Nat) (s : State) (h : Keeps r s) : KeepsOut
    r (execConvert l idx s) := by
  rw [show @execConvert = _ from by delta execConvert; exact rfl]; split
  · refine KeepsOut.next ?_; exact h
  · split
    · refine KeepsOut.next ?_; exact h
    · refine KeepsOut.next ?_; apply orFault_keeps
      · exact h
      · refine KeepsExc.bind ?_; intro x0; split
        · exact KeepsExc.error
        · extract_lets +onlyGivenNames -underBinder v1 v2 v3 v4 v5
          have hv1 : Keeps r v1 := by unfold v1; apply issue_keeps; exact h
          clear_value v1
          have hv2 : Keeps r v2 := by unfold v2; apply startFilling_keeps; apply captureRows_keeps; exact hv1
          clear_value v2; clear_value v3
          have hv4 : Keeps r v4 := by unfold v4; apply traffic_keeps; exact hv2
          clear_value v4
          have hv5 : Keeps r v5 := by
            unfold v5; refine Keeps.ite ?_ ?_
            · exact hv4
            · intro k6; apply countKey_keeps; exact k6
          clear_value v5; split
          · split
            · refine KeepsExc.ok ?_; apply convertLadder_keeps; exact hv5
            · refine KeepsExc.ok ?_; apply convertPlain_keeps; exact hv5
          · refine KeepsExc.ok ?_; apply convertPlain_keeps; exact hv5

theorem sparAccept_keeps {r : State} (s : State) (l : Core) (c : ConvSpec) (base : Format) (t : ConvTile) (h : Keeps
    r s) : Keeps r (sparAccept s l c base t) := by
  rw [show @sparAccept = _ from by delta sparAccept; exact rfl]; extract_lets +onlyGivenNames -underBinder v0 v1
  clear_value v0
  have hv1 : Keeps r v1 := by unfold v1; refine Keeps.mk_iff.mpr ?_; exact h
  clear_value v1; extract_lets +onlyGivenNames -underBinder v2
  have hv2 : Keeps r v2 := by unfold v2; apply acceptTile_keeps; exact hv1
  clear_value v2; apply modFlight_keeps; exact hv2

theorem sparRepeat_keeps {r : State} (s : State) (l : Core) (c : ConvSpec) (base : Format) (t : ConvTile) (x :
    SparTest) (layer mb : Nat) (h : Keeps r s) : Keeps r (sparRepeat s l c base t x layer mb) := by
  rw [show @sparRepeat = _ from by delta sparRepeat; exact rfl]
  extract_lets +onlyGivenNames -underBinder v0 v1 v2 v3
  have hv0 : Keeps r v0 := by unfold v0; apply fired_keeps; exact h
  clear_value v0
  have hv1 : Keeps r v1 := by unfold v1; apply climb_keeps; exact hv0
  clear_value v1
  have hv2 : Keeps r v2 := by unfold v2; apply passTraffic_keeps; exact hv1
  clear_value v2
  have hv3 : KeepsP r v3 := by unfold v3; apply tilePass_keeps; exact hv2
  clear_value v3; apply modTile_keeps; refine KeepsP.fst ?_; exact hv3

theorem execSparPassTest_keeps {r : State} (l : Core) (idx k : Nat) (e : Option Nat) (s : State) (h : Keeps r s) :
    KeepsOut r (execSparPassTest l idx k e s) := by
  rw [show @execSparPassTest = _ from by delta execSparPassTest; exact rfl]; split
  · refine KeepsOut.next ?_; exact h
  · split
    · refine KeepsOut.next ?_; exact h
    · split
      · extract_lets +onlyGivenNames -underBinder v0 v1; clear_value v0; clear_value v1; split
        · refine KeepsOut.next ?_; apply startNext_keeps; apply sparAccept_keeps; exact h
        · refine KeepsOut.next ?_; apply sparDelay_keeps; apply sparRepeat_keeps; exact h
      · refine KeepsOut.next ?_; apply descFault_keeps; exact h
      · refine KeepsOut.next ?_; apply sparAccept_keeps; exact h

theorem execShadowCompare_keeps {r : State} (i : Nat) (s : State) (h : Keeps r s) : KeepsOut r (execShadowCompare i
    s) := by
  rw [show @execShadowCompare = _ from by delta execShadowCompare; exact rfl]; split
  · refine KeepsOut.next ?_; exact h
  · split
    · split
      · refine KeepsOut.next ?_; exact h
      · extract_lets +onlyGivenNames -underBinder v0 v1 v2; clear_value v0
        have hv1 : Keeps r v1 := by unfold v1; apply bumpIf_keeps; apply bump_keeps; exact h
        clear_value v1
        have hv2 : Keeps r v2 := by unfold v2; apply modLayer_keeps; exact hv1
        clear_value v2; refine KeepsOut.next ?_; apply modSample_keeps; exact hv2
    · refine KeepsOut.next ?_; exact h

theorem execEngineCheck_keeps {r : State} (d : Die) (k : EngineKind) (ok : Bool) (s : State) (h : Keeps r s) :
    KeepsOut r (execEngineCheck d k ok s) := by
  rw [show @execEngineCheck = _ from by delta execEngineCheck; exact rfl]
  extract_lets +onlyGivenNames -underBinder v0 v1; clear_value v0; clear_value v1
  extract_lets +onlyGivenNames -underBinder v2
  have hv2 : Keeps r v2 := by unfold v2; refine Keeps.mk_iff.mpr ?_; exact h
  clear_value v2; split
  · refine KeepsOut.next ?_; exact hv2
  · extract_lets +onlyGivenNames -underBinder v3 v4; clear_value v3
    have hv4 : Keeps r v4 := by unfold v4; apply bump_keeps; exact h
    clear_value v4; split
    · refine KeepsOut.next ?_; apply reportFault_keeps; refine Keeps.mk_iff.mpr ?_; exact hv4
    · extract_lets +onlyGivenNames -underBinder v5
      have hv5 : Keeps r v5 := by unfold v5; refine Keeps.mk_iff.mpr ?_; exact hv4
      clear_value v5; split
      · extract_lets +onlyGivenNames -underBinder v6
        have hv6 : Keeps r v6 := by unfold v6; apply setReg_keeps; exact hv5
        clear_value v6; refine KeepsOut.next ?_; apply reportFault_keeps; exact hv6
      · refine KeepsOut.next ?_; refine setDev_keeps _ _ ?_ fun _ _ => modesAgree_faulted _; apply reportFault_keeps
        exact hv5

theorem countAdapt_keeps {r : State} (s : State) (c : Nat) (a : AdaptOut) (h : Keeps r s) : Keeps r (countAdapt s c
    a) := by
  rw [show @countAdapt = _ from by delta countAdapt; exact rfl]; extract_lets +onlyGivenNames -underBinder v0 v1
  have hv0 : Keeps r v0 := by unfold v0; apply bumpIf_keeps; exact h
  clear_value v0
  have hv1 : Keeps r v1 := by unfold v1; apply bumpIf_keeps; exact hv0
  clear_value v1; apply bumpIf_keeps; exact hv1

theorem updateTrackers_keeps {r : State} (s : State) (scale outlier : Option (List Byte)) (h : Keeps r s) : Keeps r
    (updateTrackers s scale outlier) := by
  rw [show @updateTrackers = _ from by delta updateTrackers; exact rfl]
  extract_lets +onlyGivenNames -underBinder v0 v1 v2 v3 v4; clear_value v0; clear_value v1
  have hv2 : Keeps r v2 := by
    unfold v2; refine Keeps.ite ?_ ?_
    · refine Keeps.foldl ?_ ?_
      · intro x5 x6 k7; split; refine Keeps.ite ?_ ?_
        · exact k7
        · intro k8; apply countAdapt_keeps; exact k8
      · exact h
    · intro k9; exact h
  clear_value v2; clear_value v3; clear_value v4; apply mapTrackers_keeps; exact hv2

theorem updateLayers_keeps {r : State} (s : State) (h : Keeps r s) : Keeps r (updateLayers s) := by
  rw [show @updateLayers = _ from by delta updateLayers; exact rfl]; extract_lets +onlyGivenNames -underBinder v0 v1
  clear_value v0; clear_value v1; refine Keeps.foldl ?_ ?_
  · intro x2 x3 k4; split; extract_lets +onlyGivenNames -underBinder v5; clear_value v5; split; split
    extract_lets +onlyGivenNames -underBinder v6
    have hv6 : Keeps r v6 := by unfold v6; apply setReg_keeps; apply setReg_keeps; exact k4
    clear_value v6; apply modLayer_keeps; exact hv6
  · exact h

theorem beginLayers_keeps {r : State} (s : State) (h : Keeps r s) : Keeps r (beginLayers s) := by
  rw [show @beginLayers = _ from by delta beginLayers; exact rfl]; refine Keeps.mk_iff.mpr ?_; exact h

theorem drawSamples_keeps {r : State} (s : State) (step : Nat) (h : Keeps r s) : Keeps r (drawSamples s step) := by
  rw [show @drawSamples = _ from by delta drawSamples; exact rfl]
  extract_lets +onlyGivenNames -underBinder v0 v1 v2 v3; clear_value v0; clear_value v1; clear_value v2
  have hv3 : Keeps r v3 := by
    unfold v3; refine Keeps.ite ?_ ?_
    · apply countEvals_keeps; apply countKey_keeps; exact h
    · intro k4; exact h
  clear_value v3; refine Keeps.mk_iff.mpr ?_; exact hv3

theorem execNormSquares_keeps {r : State} (l : Core) (idx : Nat) (s : State) (h : Keeps r s) : KeepsOut r
    (execNormSquares l idx s) := by
  rw [show @execNormSquares = _ from by delta execNormSquares; exact rfl]; split
  · refine KeepsOut.next ?_; exact h
  · split
    · refine KeepsOut.next ?_; exact h
    · refine KeepsOut.next ?_; apply orFault_keeps
      · exact h
      · refine KeepsExc.bind ?_; intro x0; refine KeepsExc.bind ?_; intro x1
        extract_lets +onlyGivenNames -underBinder v2 v3; clear_value v2
        have hv3 : Keeps r v3 := by unfold v3; apply traffic_keeps; apply issue_keeps; exact h
        clear_value v3; refine KeepsExc.ok ?_; apply markDone_keeps; apply writeBytes_keeps; exact hv3

theorem execNormAdd_keeps {r : State} (l : Core) (idx : Nat) (s : State) (h : Keeps r s) : KeepsOut r (execNormAdd l
    idx s) := by
  rw [show @execNormAdd = _ from by delta execNormAdd; exact rfl]; split
  · refine KeepsOut.next ?_; exact h
  · split
    · refine KeepsOut.next ?_; exact h
    · refine KeepsOut.next ?_; apply orFault_keeps
      · exact h
      · refine KeepsExc.bind ?_; intro x0; refine KeepsExc.bind ?_; intro x1
        extract_lets +onlyGivenNames -underBinder v2 v3; clear_value v2
        have hv3 : Keeps r v3 := by unfold v3; apply traffic_keeps; apply issue_keeps; exact h
        clear_value v3; refine KeepsExc.ok ?_; apply markDone_keeps; apply writeBytes_keeps; exact hv3

theorem addLayerSums_keeps {r : State} (s : State) (base i : Nat) (y : Layer) (h : Keeps r s) : Keeps r
    (addLayerSums s base i y) := by
  rw [show @addLayerSums = _ from by delta addLayerSums; exact rfl]
  extract_lets +onlyGivenNames -underBinder v0 v1 v2; clear_value v0; clear_value v1; clear_value v2
  apply writeBytes_keeps; exact h

theorem execNormLayerSums_keeps {r : State} (l : Core) (idx : Nat) (s : State) (h : Keeps r s) : KeepsOut r
    (execNormLayerSums l idx s) := by
  rw [show @execNormLayerSums = _ from by delta execNormLayerSums; exact rfl]; split
  · refine KeepsOut.next ?_; exact h
  · split
    · refine KeepsOut.next ?_; exact h
    · refine KeepsOut.next ?_; apply orFault_keeps
      · exact h
      · refine KeepsExc.bind ?_; intro x0; refine KeepsExc.bind ?_; intro x1
        extract_lets +onlyGivenNames -underBinder v2 v3 v4
        have hv2 : Keeps r v2 := by unfold v2; apply traffic_keeps; apply issue_keeps; exact h
        clear_value v2; clear_value v3
        have hv4 : Keeps r v4 := by
          unfold v4; refine Keeps.foldl ?_ ?_
          · intro x5 x6 k7; split; apply addLayerSums_keeps; exact k7
          · exact hv2
        clear_value v4; refine KeepsExc.ok ?_; apply markDone_keeps; exact hv4

theorem setNorm_keeps {r : State} (s : State) (x : NormAcc) (h : Keeps r s) : Keeps r (setNorm s x) := by
  rw [show @setNorm = _ from by delta setNorm; exact rfl]; extract_lets +onlyGivenNames -underBinder v0 v1 v2 v3 v4
  clear_value v0; clear_value v1; clear_value v2; clear_value v3
  have hv4 : Keeps r v4 := by unfold v4; apply setReg_keeps; apply setReg_keeps; apply setReg_keeps; exact h
  clear_value v4; refine Keeps.mk_iff.mpr ?_; exact hv4

theorem startPowers_keeps {r : State} (s : State) (h : Keeps r s) : Keeps r (startPowers s) := by
  rw [show @startPowers = _ from by delta startPowers; exact rfl]; refine Keeps.foldl ?_ ?_
  · intro x0 x1 k2; apply writeLE_keeps; apply writeLE_keeps; exact k2
  · exact h

theorem advanceHyper_keeps {r : State} (s : State) (a : Nat) (h0 : Hyper) (h : Keeps r s) : KeepsP r
    (advanceHyper s a h0) := by
  rw [show @advanceHyper = _ from by delta advanceHyper; exact rfl]; refine KeepsP.ite ?_ ?_
  · extract_lets +onlyGivenNames -underBinder v0; clear_value v0; extract_lets +onlyGivenNames -underBinder v1
    have hv1 : Keeps r v1 := by unfold v1; refine Keeps.mk_iff.mpr ?_; exact h
    clear_value v1; refine KeepsP.ite ?_ ?_
    · extract_lets +onlyGivenNames -underBinder v2; clear_value v2; refine KeepsP.mk ?_; apply writeLE_keeps
      apply writeLE_keeps; exact hv1
    · intro k3; refine KeepsP.mk ?_; exact hv1
  · intro k4; refine KeepsP.mk ?_; exact h

theorem storeMoments_keeps {r : State} (s : State) (d : Desc) (t : W32) (i : Nat) (xs : List W32) (seen :
    MomentSeen) (h : Keeps r s) : KeepsP r (storeMoments s d t i xs seen) := by
  rw [show @storeMoments = _ from by delta storeMoments; exact rfl]; refine KeepsP.foldl ?_ ?_
  · intro x0 x1 k2; split; extract_lets +onlyGivenNames -underBinder v3 v4
    have hv3 : Keeps r v3 := by unfold v3; apply writeBytes_keeps; refine KeepsP.fst ?_; exact k2
    clear_value v3
    have hv4 : Keeps r v4 := by unfold v4; apply writeLE_keeps; exact hv3
    clear_value v4; refine KeepsP.mk ?_; exact hv4
  · refine KeepsP.mk ?_; exact h

theorem noteMoment_keeps {r : State} (s : State) (a : Nat) (x : MomentSeen) (h : Keeps r s) : Keeps r (noteMoment s
    a x) := by
  rw [show @noteMoment = _ from by delta noteMoment; exact rfl]; extract_lets +onlyGivenNames -underBinder v0 v1
  clear_value v0; clear_value v1; refine Keeps.mk_iff.mpr ?_; exact h

theorem updateMoment_keeps {r : State} (s : State) (u : MomentUse) (h : Keeps r s) : Keeps r (updateMoment s u) :=
    by
  rw [show @updateMoment = _ from by delta updateMoment; exact rfl]
  extract_lets +onlyGivenNames -underBinder v0 v1 v2 v3; clear_value v0; clear_value v1; clear_value v2
  clear_value v3; apply writeBytes_keeps; exact h

theorem momentComplete_keeps {r : State} (s : State) (a : Nat) (h : Keeps r s) : Keeps r (momentComplete s a) := by
  rw [show @momentComplete = _ from by delta momentComplete; exact rfl]; split
  · exact h
  · extract_lets +onlyGivenNames -underBinder v0 v1; clear_value v1; extract_lets +onlyGivenNames -underBinder v2
    have hv2 : Keeps r v2 := by unfold v2; refine Keeps.mk_iff.mpr ?_; exact h
    clear_value v2; refine Keeps.ite ?_ ?_
    · exact hv2
    · intro k3; apply updateMoment_keeps; exact k3

theorem updateRow_keeps {r : State} (a : OptArgs) (h0 : Hyper) (x : Scalars) (c : W32) (acc : State × OptSum)
    (i : Nat) (h : KeepsP r acc) : KeepsP r (updateRow a h0 x c acc i) := by
  rw [show @updateRow = _ from by delta updateRow; exact rfl]
  extract_lets +onlyGivenNames -underBinder v0 v1 v2 v3 v4 v5 v6 v7 v8
  have hv0 : Keeps r v0 := by unfold v0; refine KeepsP.fst ?_; exact h
  clear_value v0; clear_value v1; clear_value v2; clear_value v3; clear_value v4; clear_value v5; clear_value v6
  have hv7 : Keeps r v7 := by unfold v7; apply writeBytes_keeps; exact hv0
  clear_value v7
  have hv8 : Keeps r v8 := by unfold v8; apply writeBytes_keeps; exact hv7
  clear_value v8; split; split; extract_lets +onlyGivenNames -underBinder v9; clear_value v9; refine KeepsP.mk ?_
  refine Keeps.of_pair ?_ (by assumption); split
  · apply storeMoments_keeps; refine Keeps.of_pair ?_ (by assumption); apply storeMoments_keeps; exact hv8
  · refine KeepsP.mk ?_; refine Keeps.of_pair ?_ (by assumption); apply storeMoments_keeps; exact hv8

theorem skipUpdate_keeps {r : State} (s : State) (a : OptArgs) (layer : Nat) (h : Keeps r s) : Keeps r (skipUpdate s
    a layer) := by
  rw [show @skipUpdate = _ from by delta skipUpdate; exact rfl]; extract_lets +onlyGivenNames -underBinder v0 v1
  clear_value v0
  have hv1 : Keeps r v1 := by unfold v1; apply modLayer_keeps; exact h
  clear_value v1; refine Keeps.ite ?_ ?_
  · extract_lets +onlyGivenNames -underBinder v2 v3; clear_value v2; clear_value v3
    extract_lets +onlyGivenNames -underBinder v4 v5
    have hv4 : Keeps r v4 := by unfold v4; refine Keeps.mk_iff.mpr ?_; exact hv1
    clear_value v4; clear_value v5; apply raiseEvent_keeps; apply bump_keeps; exact hv4
  · intro k6; exact hv1

theorem applyUpdate_keeps {r : State} (s : State) (l : Core) (a : OptArgs) (h0 : Hyper) (lr : W32) (layer : Nat) (h
    : Keeps r s) : Keeps r (applyUpdate s l a h0 lr layer) := by
  rw [show @applyUpdate = _ from by delta applyUpdate; exact rfl]; extract_lets +onlyGivenNames -underBinder v0
  clear_value v0; split; extract_lets +onlyGivenNames -underBinder v1 v2 v3 v4 v5 v6; clear_value v1
  have hv2 : Keeps r v2 := by
    unfold v2; apply bumpIf_keeps; refine Keeps.of_pair ?_ (by assumption); refine KeepsP.foldl ?_ ?_
    · intro x7 x8 k9; apply updateRow_keeps; exact k9
    · refine KeepsP.mk ?_; exact h
  clear_value v2
  have hv3 : Keeps r v3 := by unfold v3; apply bumpIf_keeps; exact hv2
  clear_value v3
  have hv4 : Keeps r v4 := by unfold v4; apply countFlush_keeps; exact hv3
  clear_value v4
  have hv5 : Keeps r v5 := by unfold v5; apply modLayer_keeps; exact hv4
  clear_value v5
  have hv6 : Keeps r v6 := by unfold v6; apply noteMoment_keeps; exact hv5
  clear_value v6; split
  · refine Keeps.ite ?_ ?_
    · apply noteMoment_keeps; exact hv6
    · intro k10; exact hv6
  · exact hv6

theorem execOptstep_keeps {r : State} (l : Core) (idx : Nat) (s : State) (h : Keeps r s) : KeepsOut r (execOptstep l
    idx s) := by
  rw [show @execOptstep = _ from by delta execOptstep; exact rfl]; split
  · refine KeepsOut.next ?_; exact h
  · split
    · refine KeepsOut.next ?_; exact h
    · extract_lets +onlyGivenNames -underBinder v0 v1 v2; clear_value v0; clear_value v1; clear_value v2; split
      · refine KeepsOut.next ?_; apply descFault_keeps; exact h
      · split
        · refine KeepsOut.next ?_; apply opFault_keeps; exact h
        · extract_lets +onlyGivenNames -underBinder v3 v4 v5; clear_value v3; clear_value v4
          have hv5 : Keeps r v5 := by unfold v5; apply traffic_keeps; apply issue_keeps; exact h
          clear_value v5; split; extract_lets +onlyGivenNames -underBinder v6
          have hv6 : Keeps r v6 := by
            unfold v6; refine Keeps.ite ?_ ?_
            · apply applyUpdate_keeps; refine Keeps.of_pair ?_ (by assumption); apply advanceHyper_keeps; exact hv5
            · intro k7; apply skipUpdate_keeps; refine Keeps.of_pair ?_ (by assumption); apply advanceHyper_keeps
              exact hv5
          clear_value v6; refine KeepsOut.next ?_; apply markDone_keeps; exact hv6

theorem execSave_keeps {r : State} (l : Core) (idx : Nat) (s : State) (h : Keeps r s) : KeepsOut r (execSave l idx
    s) := by
  rw [show @execSave = _ from by delta execSave; exact rfl]; split
  · refine KeepsOut.next ?_; exact h
  · split
    · refine KeepsOut.next ?_; exact h
    · refine KeepsOut.next ?_; apply orFault_keeps
      · exact h
      · refine KeepsExc.bind ?_; intro x0; refine KeepsExc.bind ?_; intro x1; refine KeepsExc.bind ?_; intro x2
        split
        · exact KeepsExc.error
        · extract_lets +onlyGivenNames -underBinder v3 v4 v5 v6 v7 v8 v9 v10 v11 v12 v13 v14 v15; clear_value v3
          clear_value v4; clear_value v5; clear_value v6; clear_value v7; clear_value v8
          have hv9 : Keeps r v9 := by unfold v9; apply traffic_keeps; apply issue_keeps; exact h
          clear_value v9
          have hv10 : Keeps r v10 := by unfold v10; apply askRuns_keeps; exact hv9
          clear_value v10
          have hv11 : Keeps r v11 := by
            unfold v11; refine Keeps.foldl ?_ ?_
            · intro x16 x17 k18; split; apply writeBytes_keeps; exact k18
            · exact hv10
          clear_value v11
          have hv12 : Keeps r v12 := by
            unfold v12; refine Keeps.foldl ?_ ?_
            · intro x19 x20 k21; apply writeBytes_keeps; exact k21
            · exact hv11
          clear_value v12
          have hv13 : Keeps r v13 := by unfold v13; apply bump_keeps; exact hv12
          clear_value v13
          have hv14 : Keeps r v14 := by unfold v14; apply bump_keeps; exact hv13
          clear_value v14
          have hv15 : Keeps r v15 := by unfold v15; apply bumpIf_keeps; exact hv14
          clear_value v15; refine KeepsExc.ok ?_; apply markDone_keeps; apply countFlush_keeps; exact hv15

theorem loadSegment_keeps {r : State} (s : State) (segs dst : Desc) (plane i : Nat) (blocks : List (Nat × Nat)) (h :
    Keeps r s) : KeepsP r (loadSegment s segs dst plane i blocks) := by
  rw [show @loadSegment = _ from by delta loadSegment; exact rfl]
  extract_lets +onlyGivenNames -underBinder v0 v1 v2 v3 v4 v5 v6 v7 v8 v9; clear_value v0; clear_value v1
  clear_value v2; clear_value v3; clear_value v4; clear_value v5; clear_value v6
  have hv7 : Keeps r v7 := by
    unfold v7; refine Keeps.ite ?_ ?_
    · refine Keeps.foldl ?_ ?_
      · intro x10 x11 k12; apply writeBytes_keeps; exact k12
      · exact h
    · intro k13; exact h
  clear_value v7; clear_value v8; clear_value v9; refine KeepsP.foldl ?_ ?_
  · intro x14 x15 k16; split; extract_lets +onlyGivenNames -underBinder v17 v18; clear_value v17; clear_value v18
    split; refine KeepsP.mk ?_; apply writeBits_keeps; refine KeepsP.fst ?_; exact k16
  · refine KeepsP.mk ?_; exact hv7

theorem execLoad_keeps {r : State} (l : Core) (idx : Nat) (s : State) (h : Keeps r s) : KeepsOut r (execLoad l idx
    s) := by
  rw [show @execLoad = _ from by delta execLoad; exact rfl]; split
  · refine KeepsOut.next ?_; exact h
  · split
    · refine KeepsOut.next ?_; exact h
    · refine KeepsOut.next ?_; apply orFault_keeps
      · exact h
      · refine KeepsExc.bind ?_; intro x0; refine KeepsExc.bind ?_; intro x1; refine KeepsExc.bind ?_; intro x2
        split
        · exact KeepsExc.error
        · extract_lets +onlyGivenNames -underBinder v3 v4 v5 v6 v7 v8 v9; clear_value v3; clear_value v4
          have hv5 : Keeps r v5 := by unfold v5; apply issue_keeps; exact h
          clear_value v5
          have hv6 : Keeps r v6 := by unfold v6; apply askRuns_keeps; exact hv5
          clear_value v6
          have hv7 : Keeps r v7 := by unfold v7; apply traffic_keeps; exact hv6
          clear_value v7
          have hv8 : KeepsP r v8 := by
            unfold v8; refine KeepsP.foldl ?_ ?_
            · intro x10 x11 k12; split; extract_lets +onlyGivenNames -underBinder v13
              have hv13 : KeepsP r v13 := by unfold v13; apply loadSegment_keeps; refine KeepsP.fst ?_; exact k12
              clear_value v13; refine KeepsP.mk ?_; refine KeepsP.fst ?_; exact hv13
            · refine KeepsP.mk ?_; exact hv7
          clear_value v8
          have hv9 : Keeps r v9 := by unfold v9; apply bumpIf_keeps; refine KeepsP.fst ?_; exact hv8
          clear_value v9; refine KeepsExc.ok ?_; apply markDone_keeps; apply countFlush_keeps; exact hv9

theorem execFillDropout_keeps {r : State} (l : Core) (idx : Nat) (s : State) (h : Keeps r s) : KeepsOut r
    (execFillDropout l idx s) := by
  rw [show @execFillDropout = _ from by delta execFillDropout; exact rfl]; split
  · refine KeepsOut.next ?_; exact h
  · split
    · refine KeepsOut.next ?_; exact h
    · refine KeepsOut.next ?_; apply orFault_keeps
      · exact h
      · refine KeepsExc.bind ?_; intro x0; extract_lets +onlyGivenNames -underBinder v1 v2 v3 v4; clear_value v1
        clear_value v2
        have hv3 : Keeps r v3 := by unfold v3; apply traffic_keeps; apply issue_keeps; exact h
        clear_value v3; clear_value v4; refine KeepsExc.ok ?_; apply markDone_keeps; apply countEvals_keeps
        apply countKey_keeps; apply writeBytes_keeps; exact hv3

theorem putFill_keeps {r : State} (d : Desc) (acc : State × Nat) (i : Nat) (y : W32) (h : KeepsP r acc) : KeepsP r
    (putFill d acc i y) := by
  rw [show @putFill = _ from by delta putFill; exact rfl]; extract_lets +onlyGivenNames -underBinder v0 v1 v2
  clear_value v0; clear_value v1; clear_value v2; refine KeepsP.ite ?_ ?_
  · split
    · refine KeepsP.mk ?_; apply putCode_keeps; refine KeepsP.fst ?_; exact h
    · refine KeepsP.mk ?_; apply putCode_keeps; refine KeepsP.fst ?_; exact h
    · refine KeepsP.mk ?_; apply writeLE_keeps; refine KeepsP.fst ?_; exact h
  · intro k3; refine KeepsP.mk ?_; apply writeLE_keeps; refine KeepsP.fst ?_; exact h

theorem fillValues_keeps {r : State} (purpose : Nat) (l : Core) (idx : Nat) (s : State) (h : Keeps r s) : Keeps r
    (fillValues purpose l idx s) := by
  rw [show @fillValues = _ from by delta fillValues; exact rfl]; split
  · exact h
  · refine Keeps.ite ?_ ?_
    · apply orFault_keeps
      · exact h
      · refine KeepsExc.bind ?_; intro x0; refine KeepsExc.bind ?_; intro x1
        extract_lets +onlyGivenNames -underBinder v2 v3; clear_value v2; clear_value v3; split
        · exact KeepsExc.error
        · split
          · exact KeepsExc.error
          · extract_lets +onlyGivenNames -underBinder v4 v5 v6 v7 v8; clear_value v4; clear_value v5
            have hv6 : Keeps r v6 := by unfold v6; apply traffic_keeps; apply issue_keeps; exact h
            clear_value v6
            have hv7 : KeepsP r v7 := by
              unfold v7; refine KeepsP.foldl ?_ ?_
              · intro x9 x10 k11; apply putFill_keeps; exact k11
              · refine KeepsP.mk ?_; exact hv6
            clear_value v7
            have hv8 : Keeps r v8 := by unfold v8; apply bumpIf_keeps; refine KeepsP.fst ?_; exact hv7
            clear_value v8; refine KeepsExc.ok ?_; apply markDone_keeps; apply countEvals_keeps
            apply countKey_keeps; exact hv8
    · intro k12; exact h

theorem execFillInit_keeps {r : State} (l : Core) (idx : Nat) (s : State) (h : Keeps r s) : KeepsOut r (execFillInit
    l idx s) := by
  rw [show @execFillInit = _ from by delta execFillInit; exact rfl]; refine KeepsOut.next ?_; apply fillValues_keeps
  exact h

theorem execFillNoise_keeps {r : State} (l : Core) (idx : Nat) (s : State) (h : Keeps r s) : KeepsOut r
    (execFillNoise l idx s) := by
  rw [show @execFillNoise = _ from by delta execFillNoise; exact rfl]; refine KeepsOut.next ?_
  apply fillValues_keeps; exact h

theorem removeLane_keeps {r : State} (s : State) (d : Die) (lane : Nat) (h : Keeps r s) : Keeps r (removeLane s d
    lane) := by
  rw [show @removeLane = _ from by delta removeLane; exact rfl]; extract_lets +onlyGivenNames -underBinder v0
  clear_value v0; refine Keeps.ite ?_ ?_
  · apply needStore_keeps; apply setReg_keeps; apply setReg_keeps; exact h
  · intro k1; exact h

theorem execSloeEvaluation_keeps {r : State} (d : Die) (lane : Fin 1024) (ok : Bool) (s : State) (h : Keeps r s) :
    KeepsOut r (execSloeEvaluation d lane ok s) := by
  rw [show @execSloeEvaluation = _ from by delta execSloeEvaluation; exact rfl]
  extract_lets +onlyGivenNames -underBinder v0 v1; clear_value v0; clear_value v1
  extract_lets +onlyGivenNames -underBinder v2
  have hv2 : Keeps r v2 := by unfold v2; refine Keeps.mk_iff.mpr ?_; exact h
  clear_value v2; split
  · refine KeepsOut.next ?_; exact h
  · split
    · refine KeepsOut.next ?_; exact hv2
    · extract_lets +onlyGivenNames -underBinder v3
      have hv3 : Keeps r v3 := by unfold v3; apply bump_keeps; exact h
      clear_value v3; split
      · refine KeepsOut.next ?_; extract_lets +onlyGivenNames -underBinder v4
        have hv4 : Keeps r v4 := by unfold v4; apply removeLane_keeps; refine Keeps.mk_iff.mpr ?_; exact hv3
        clear_value v4; apply reportFault_keeps; exact hv4
      · refine KeepsOut.next ?_; refine Keeps.mk_iff.mpr ?_; exact hv3

theorem putCopies_keeps {r : State} (s : State) (i : Nat) (b : List Byte) (h : Keeps r s) : Keeps r (putCopies s i
    b) := by
  rw [show @putCopies = _ from by delta putCopies; exact rfl]; split
  · exact h
  · refine Keeps.foldl ?_ ?_
    · intro x0 x1 k2; apply writeBytes_keeps; exact k2
    · exact h

theorem putSeq_keeps {r : State} (s : State) (i : Nat) (x : Seq) (h : Keeps r s) : Keeps r (putSeq s i x) := by
  rw [show @putSeq = _ from by delta putSeq; exact rfl]; apply putCopies_keeps; apply setRegBytes_keeps; exact h

theorem putRow_keeps {r : State} (s : State) (r0 : Desc) (d row : Nat) (x : RowState) (h : Keeps r s) : Keeps r
    (putRow s r0 d row x) := by
  rw [show @putRow = _ from by delta putRow; exact rfl]; apply writeBytes_keeps; exact h

theorem modRun_keeps {r : State} (s : State) (q : Nat) (f : QRun → QRun) (h : Keeps r s) : Keeps r (modRun s q f) :=
    by
  rw [show @modRun = _ from by delta modRun; exact rfl]; refine Keeps.mk_iff.mpr ?_; exact h

theorem AttnOp.load_keeps {r : State} (s : State) (l : Core) (idx : Nat) (a : AttnOp) (vals : Bool) (js : List Nat)
    (h : Keeps r s) : Keeps r (AttnOp.load s l idx a vals js) := by
  rw [show @AttnOp.load = _ from by delta AttnOp.load; exact rfl]; extract_lets +onlyGivenNames -underBinder v0
  clear_value v0; split
  · apply Machine.readRuns_keeps; exact h
  · apply Machine.askRuns_keeps; exact h

theorem AttnOp.stateTraffic_keeps {r : State} (s : State) (l : Core) (idx : Nat) (a : AttnOp) (i : Nat) (h : Keeps r
    s) : Keeps r (AttnOp.stateTraffic s l idx a i) := by
  rw [show @AttnOp.stateTraffic = _ from by delta AttnOp.stateTraffic; exact rfl]
  extract_lets +onlyGivenNames -underBinder v0 v1; clear_value v0
  have hv1 : Keeps r v1 := by
    unfold v1; refine Keeps.ite ?_ ?_
    · apply Machine.askRuns_keeps; exact h
    · intro k2; exact h
  clear_value v1; apply Machine.askRuns_keeps; exact hv1

theorem AttnOp.traffic_keeps {r : State} (s : State) (l : Core) (idx : Nat) (a : AttnOp) (fed : List Nat) (h : Keeps
    r s) : Keeps r (AttnOp.traffic s l idx a fed) := by
  rw [show @AttnOp.traffic = _ from by delta AttnOp.traffic; exact rfl]
  extract_lets +onlyGivenNames -underBinder v0 v1 v2 v3; clear_value v0
  have hv1 : Keeps r v1 := by
    unfold v1; split
    · apply Machine.askRuns_keeps; exact h
    · exact h
  clear_value v1
  have hv2 : Keeps r v2 := by unfold v2; apply Machine.traffic_keeps; exact hv1
  clear_value v2
  have hv3 : Keeps r v3 := by
    unfold v3; refine Keeps.foldl ?_ ?_
    · intro x4 x5 k6; split; extract_lets +onlyGivenNames -underBinder v7; clear_value v7
      apply Machine.AttnOp.stateTraffic_keeps; apply Machine.AttnOp.load_keeps; apply Machine.AttnOp.load_keeps
      exact k6
    · exact hv2
  clear_value v3; apply Machine.traffic_keeps; exact hv3

theorem addMass_keeps {r : State} (s : State) (d : Die) (m : List (Nat × Nat)) (h : Keeps r s) : Keeps r (addMass s
    d m) := by
  rw [show @addMass = _ from by delta addMass; exact rfl]; refine Keeps.foldl ?_ ?_
  · intro x0 x1 k2; split; extract_lets +onlyGivenNames -underBinder v3; clear_value v3; apply writeLE_keeps
    exact k2
  · exact h

theorem finishAttn_keeps {r : State} (s : State) (l : Core) (a : AttnOp) (r0 : QRun) (h : Keeps r s) : Keeps r
    (finishAttn s l a r0) := by
  rw [show @finishAttn = _ from by delta finishAttn; exact rfl]
  extract_lets +onlyGivenNames -underBinder v0 v1 v2 v3 v4 v5 v6 v7 v8 v9 v10 v11; clear_value v0; clear_value v1
  clear_value v2; clear_value v3; clear_value v4
  have hv5 : Keeps r v5 := by unfold v5; apply writeBytes_keeps; exact h
  clear_value v5
  have hv6 : Keeps r v6 := by unfold v6; apply writeBytes_keeps; exact hv5
  clear_value v6; clear_value v7; clear_value v8
  have hv9 : Keeps r v9 := by unfold v9; apply writeLE_keeps; exact hv6
  clear_value v9
  have hv10 : Keeps r v10 := by unfold v10; apply bumpIf_keeps; exact hv9
  clear_value v10
  have hv11 : Keeps r v11 := by unfold v11; apply addMass_keeps; exact hv10
  clear_value v11; apply markDone_keeps; exact hv11

theorem execAttn_keeps {r : State} (l : Core) (idx : Nat) (s : State) (h : Keeps r s) : KeepsOut r (execAttn l idx
    s) := by
  rw [show @execAttn = _ from by delta execAttn; exact rfl]; split
  · split
    · refine KeepsOut.next ?_; exact h
    · refine KeepsOut.next ?_; apply orFault_keeps
      · exact h
      · refine KeepsExc.bind ?_; intro x0; extract_lets +onlyGivenNames -underBinder v1; clear_value v1; split
        · exact KeepsExc.error
        · split; extract_lets +onlyGivenNames -underBinder v2 v3 v4 v5
          have hv2 : Keeps r v2 := by unfold v2; apply AttnOp.traffic_keeps; apply issue_keeps; exact h
          clear_value v2
          have hv3 : Keeps r v3 := by unfold v3; apply bumpIf_keeps; exact hv2
          clear_value v3; clear_value v4; clear_value v5; extract_lets +onlyGivenNames -underBinder v6
          have hv6 : Keeps r v6 := by unfold v6; refine Keeps.mk_iff.mpr ?_; exact hv3
          clear_value v6; refine KeepsExc.ok ?_; refine Keeps.ite ?_ ?_
          · exact hv6
          · intro k7; apply finishAttn_keeps; exact k7
  · refine KeepsOut.next ?_; exact h

theorem execQuinceBankSwap_keeps {r : State} (q : Pipe) (waits : Nat) (s : State) (h : Keeps r s) : KeepsOut r
    (execQuinceBankSwap q waits s) := by
  rw [show @execQuinceBankSwap = _ from by delta execQuinceBankSwap; exact rfl]; split
  · refine KeepsOut.next ?_; exact h
  · split
    · refine KeepsOut.next ?_; exact h
    · refine KeepsOut.next ?_; apply bumpIf_keeps; apply modRun_keeps; exact h

theorem commitBlock_keeps {r : State} (s : State) (a : AttnOp) (r0 : QRun) (h : Keeps r s) : KeepsP r (commitBlock s
    a r0) := by
  rw [show @commitBlock = _ from by delta commitBlock; exact rfl]
  extract_lets +onlyGivenNames -underBinder v0 v1 v2 v3 v4 v5 v6 v7 v8; clear_value v0; clear_value v1
  clear_value v2; clear_value v3; clear_value v4; clear_value v5
  have hv6 : Keeps r v6 := by
    unfold v6; refine Keeps.foldl ?_ ?_
    · intro x9 x10 k11; apply putRow_keeps; exact k11
    · exact h
  clear_value v6; clear_value v7
  have hv8 : Keeps r v8 := by unfold v8; apply bumpIf_keeps; apply bump_keeps; exact hv6
  clear_value v8; refine KeepsP.mk ?_; exact hv8

theorem rehome_keeps {r : State} (s : State) (l : Core) (r0 : QRun) (h : Keeps r s) : Keeps r (rehome s l r0) := by
  rw [show @rehome = _ from by delta rehome; exact rfl]; extract_lets +onlyGivenNames -underBinder v0
  clear_value v0; split
  · refine Keeps.mk_iff.mpr ?_; exact h
  · refine Keeps.mk_iff.mpr ?_; exact h

theorem quinceFail_keeps {r : State} (s : State) (q : Pipe) (l : Core) (r0 : QRun) (h : Keeps r s) : Keeps r
    (quinceFail s q l r0) := by
  rw [show @quinceFail = _ from by delta quinceFail; exact rfl]; extract_lets +onlyGivenNames -underBinder v0
  have hv0 : Keeps r v0 := by unfold v0; apply bump_keeps; exact h
  clear_value v0; refine Keeps.ite ?_ ?_
  · extract_lets +onlyGivenNames -underBinder v1 v2 v3
    have hv1 : Keeps r v1 := by unfold v1; apply needStore_keeps; apply setReg_keeps; exact hv0
    clear_value v1; clear_value v2
    have hv3 : Keeps r v3 := by unfold v3; refine Keeps.mk_iff.mpr ?_; exact hv1
    clear_value v3; extract_lets +onlyGivenNames -underBinder v4
    have hv4 : Keeps r v4 := by unfold v4; apply rehome_keeps; exact hv3
    clear_value v4; apply reportFault_keeps; exact hv4
  · intro k5; extract_lets +onlyGivenNames -underBinder v6 v7
    have hv6 : Keeps r v6 := by unfold v6; apply bump_keeps; exact hv0
    clear_value v6
    have hv7 : Keeps r v7 := by unfold v7; apply modRun_keeps; exact hv6
    clear_value v7; apply reportFault_keeps; exact hv7

theorem execQuinceVerdict_keeps {r : State} (q : Pipe) (ok : Bool) (e : Option Nat) (s : State) (h : Keeps r s) :
    KeepsOut r (execQuinceVerdict q ok e s) := by
  rw [show @execQuinceVerdict = _ from by delta execQuinceVerdict; exact rfl]; split
  · refine KeepsOut.next ?_; exact h
  · split
    · extract_lets +onlyGivenNames -underBinder v0; clear_value v0; split
      · refine KeepsOut.next ?_; exact h
      · split
        · refine KeepsOut.next ?_; apply projectEnd_keeps; apply quinceFail_keeps; exact h
        · split
          · refine KeepsOut.next ?_; apply descFault_keeps; exact h
          · split; extract_lets +onlyGivenNames -underBinder v1
            have hv1 : Keeps r v1 := by
              unfold v1; apply modRun_keeps; refine Keeps.of_pair ?_ (by assumption); apply commitBlock_keeps
              exact h
            clear_value v1; refine KeepsOut.next ?_; refine Keeps.ite ?_ ?_
            · exact hv1
            · intro k2; apply finishAttn_keeps; exact k2
    · refine KeepsOut.next ?_; exact h

theorem leavePipe_keeps {r : State} (s : State) (l : Core) (idx : Nat) (h : Keeps r s) : Keeps r (leavePipe s l idx)
    := by
  rw [show @leavePipe = _ from by delta leavePipe; exact rfl]; split
  · exact h
  · extract_lets +onlyGivenNames -underBinder v0 v1 v2; clear_value v0
    have hv1 : Keeps r v1 := by unfold v1; apply bump_keeps; refine Keeps.mk_iff.mpr ?_; exact h
    clear_value v1; clear_value v2; extract_lets +onlyGivenNames -underBinder v3; clear_value v3
    extract_lets +onlyGivenNames -underBinder v4
    have hv4 : Keeps r v4 := by
      unfold v4; refine Keeps.ite ?_ ?_
      · exact hv1
      · intro k5; apply putSeq_keeps; exact k5
    clear_value v4; split
    · exact hv4
    · refine Keeps.mk_iff.mpr ?_; exact hv4

theorem appendHead_keeps {r : State} (s : State) (src dst : Desc) (zp hd row : Nat) (h : Keeps r s) : KeepsP r
    (appendHead s src dst zp hd row) := by
  rw [show @appendHead = _ from by delta appendHead; exact rfl]; extract_lets +onlyGivenNames -underBinder v0
  clear_value v0; refine KeepsP.foldl ?_ ?_
  · intro x1 x2 k3; extract_lets +onlyGivenNames -underBinder v4 v5 v6 v7 v8; clear_value v4; clear_value v5
    clear_value v6
    have hv7 : Keeps r v7 := by
      unfold v7; refine Keeps.foldl ?_ ?_
      · intro x9 x10 k11; split; apply putCode_keeps; exact k11
      · refine KeepsP.fst ?_; exact k3
    clear_value v7
    have hv8 : Keeps r v8 := by unfold v8; apply writeLE_keeps; exact hv7
    clear_value v8; refine KeepsP.mk ?_; exact hv8
  · refine KeepsP.mk ?_; exact h

theorem execAppend_keeps {r : State} (l : Core) (idx : Nat) (s : State) (h : Keeps r s) : KeepsOut r (execAppend l
    idx s) := by
  rw [show @execAppend = _ from by delta execAppend; exact rfl]; split
  · refine KeepsOut.next ?_; exact h
  · split
    · refine KeepsOut.next ?_; exact h
    · refine KeepsOut.next ?_; apply orFault_keeps
      · exact h
      · refine KeepsExc.bind ?_; intro x0; extract_lets +onlyGivenNames -underBinder v1 v2 v3; clear_value v1
        clear_value v2; clear_value v3; split
        · exact KeepsExc.error
        · extract_lets +onlyGivenNames -underBinder v4 v5 v6 v7 v8 v9 v10 v11; clear_value v4; clear_value v5
          clear_value v6; clear_value v7
          have hv8 : Keeps r v8 := by unfold v8; apply traffic_keeps; apply issue_keeps; exact h
          clear_value v8
          have hv9 : KeepsP r v9 := by
            unfold v9; refine KeepsP.foldl ?_ ?_
            · intro x12 x13 k14; extract_lets +onlyGivenNames -underBinder v15
              have hv15 : KeepsP r v15 := by unfold v15; apply appendHead_keeps; refine KeepsP.fst ?_; exact k14
              clear_value v15; refine KeepsP.mk ?_; refine KeepsP.fst ?_; exact hv15
            · refine KeepsP.mk ?_; exact hv8
          clear_value v9
          have hv10 : Keeps r v10 := by unfold v10; apply bumpIf_keeps; refine KeepsP.fst ?_; exact hv9
          clear_value v10
          have hv11 : Keeps r v11 := by unfold v11; apply bumpIf_keeps; exact hv10
          clear_value v11; refine KeepsExc.ok ?_; apply markDone_keeps; apply countFlush_keeps; exact hv11

theorem execSample_keeps {r : State} (l : Core) (idx : Nat) (s : State) (h : Keeps r s) : KeepsOut r (execSample l
    idx s) := by
  rw [show @execSample = _ from by delta execSample; exact rfl]; split
  · split
    · refine KeepsOut.next ?_; exact h
    · refine KeepsOut.next ?_; apply orFault_keeps
      · exact h
      · refine KeepsExc.bind ?_; intro x0; refine KeepsExc.bind ?_; intro x1
        extract_lets +onlyGivenNames -underBinder v2 v3 v4 v5 v6 v7; clear_value v2; clear_value v3; clear_value v4
        clear_value v5; clear_value v6; clear_value v7; split
        · exact KeepsExc.error
        · extract_lets +onlyGivenNames -underBinder v8 v9 v10
          have hv8 : Keeps r v8 := by unfold v8; apply traffic_keeps; apply issue_keeps; exact h
          clear_value v8; clear_value v9; clear_value v10; split
          extract_lets +onlyGivenNames -underBinder v11 v12 v13
          have hv11 : Keeps r v11 := by
            unfold v11; apply countEvals_keeps; apply countKey_keeps; apply bumpIf_keeps; apply writeLE_keeps
            exact hv8
          clear_value v11; clear_value v12; clear_value v13; extract_lets +onlyGivenNames -underBinder v14
          have hv14 : Keeps r v14 := by unfold v14; refine Keeps.mk_iff.mpr ?_; exact hv11
          clear_value v14; refine KeepsExc.ok ?_; apply markDone_keeps; exact hv14
  · refine KeepsOut.next ?_; exact h

theorem putPage_keeps {r : State} (s : State) (p refs score : Nat) (h : Keeps r s) : Keeps r (putPage s p refs
    score) := by
  rw [show @putPage = _ from by delta putPage; exact rfl]; apply writeLE_keeps; exact h

theorem popPage_keeps {r : State} (s : State) (h : Keeps r s) : KeepsOpt r (popPage s) := by
  rw [show @popPage = _ from by delta popPage; exact rfl]; extract_lets +onlyGivenNames -underBinder v0
  clear_value v0; split
  · exact KeepsOpt.none
  · refine KeepsOpt.some ?_; apply setReg_keeps; exact h

theorem pushPage_keeps {r : State} (s : State) (p : Nat) (h : Keeps r s) : Keeps r (pushPage s p) := by
  rw [show @pushPage = _ from by delta pushPage; exact rfl]; extract_lets +onlyGivenNames -underBinder v0
  clear_value v0; apply setReg_keeps; apply writeLE_keeps; exact h

theorem pushPages_keeps {r : State} (s : State) (ps : List Nat) (h : Keeps r s) : Keeps r (pushPages s ps) := by
  rw [show @pushPages = _ from by delta pushPages; exact rfl]; refine Keeps.foldl ?_ ?_
  · intro x0 x1 k2; apply pushPage_keeps; exact k2
  · exact h

theorem releaseRef_keeps {r : State} (s : State) (p : Nat) (h : Keeps r s) : KeepsP r (releaseRef s p) := by
  rw [show @releaseRef = _ from by delta releaseRef; exact rfl]; extract_lets +onlyGivenNames -underBinder v0
  clear_value v0; refine KeepsP.mk ?_; apply putPage_keeps; exact h

theorem countSeqs_keeps {r : State} (s : State) (h : Keeps r s) : Keeps r (countSeqs s) := by
  rw [show @countSeqs = _ from by delta countSeqs; exact rfl]; apply setReg_keeps; exact h

theorem editSeq_keeps {r : State} (s : State) (i : Nat) (x : Seq) (h : Keeps r s) : Keeps r (editSeq s i x) := by
  rw [show @editSeq = _ from by delta editSeq; exact rfl]; apply putSeq_keeps; exact h

theorem sharePages_keeps {r : State} (s : State) (x y : Seq) (n : Nat) (h : Keeps r s) : KeepsP r (sharePages s x y
    n) := by
  rw [show @sharePages = _ from by delta sharePages; exact rfl]; refine KeepsP.foldl ?_ ?_
  · intro x0 x1 k2; extract_lets +onlyGivenNames -underBinder v3 v4; clear_value v3
    have hv4 : Keeps r v4 := by unfold v4; apply writeLE_keeps; refine KeepsP.fst ?_; exact k2
    clear_value v4; refine KeepsP.ite ?_ ?_
    · refine KeepsP.mk ?_; apply putPage_keeps; exact hv4
    · intro k5; refine KeepsP.mk ?_; exact hv4
  · refine KeepsP.mk ?_; exact h

theorem evictPage_keeps {r : State} (s : State) (i : Nat) (x : Seq) (p : Nat) (h : Keeps r s) : KeepsP r (evictPage
    s i x p) := by
  rw [show @evictPage = _ from by delta evictPage; exact rfl]; extract_lets +onlyGivenNames -underBinder v0
  clear_value v0; split; refine KeepsP.mk ?_; apply bump_keeps; apply editSeq_keeps
  refine Keeps.of_pair ?_ (by assumption); apply releaseRef_keeps; apply writeLE_keeps; exact h

theorem retireSeq_keeps {r : State} (s : State) (i : Nat) (x : Seq) (h : Keeps r s) : KeepsP r (retireSeq s i x) :=
    by
  rw [show @retireSeq = _ from by delta retireSeq; exact rfl]; split; refine KeepsP.mk ?_; apply editSeq_keeps
  refine Keeps.of_pair ?_ (by assumption); refine KeepsP.foldl ?_ ?_
  · intro x0 x1 k2; extract_lets +onlyGivenNames -underBinder v3; clear_value v3; refine KeepsP.ite ?_ ?_
    · extract_lets +onlyGivenNames -underBinder v4
      have hv4 : KeepsP r v4 := by unfold v4; apply releaseRef_keeps; refine KeepsP.fst ?_; exact k2
      clear_value v4; refine KeepsP.mk ?_; refine KeepsP.fst ?_; exact hv4
    · intro k5; exact k2
  · refine KeepsP.mk ?_; exact h

theorem applyEdit_keeps {r : State} (s : State) (e : KvEdit) (h : Keeps r s) : KeepsExcP r (applyEdit s e) := by
  rw [show @applyEdit = _ from by delta applyEdit; exact rfl]; split
  · refine KeepsExcP.bind ?_; intro x0; split; refine KeepsExcP.ok ?_; refine KeepsP.mk ?_; apply countSeqs_keeps
    apply editSeq_keeps; exact h
  · split
    · exact KeepsExcP.error
    · refine KeepsExcP.bind ?_; intro x1; split; split
      · exact KeepsExcP.error
      · split; refine KeepsExcP.ok ?_; refine KeepsP.mk ?_; apply countSeqs_keeps; apply editSeq_keeps
        refine Keeps.of_pair ?_ (by assumption); apply sharePages_keeps; exact h
  · split
    · exact KeepsExcP.error
    · split
      · exact KeepsExcP.error
      · split
        · exact KeepsExcP.error
        · refine KeepsExcP.ok ?_; apply evictPage_keeps; exact h
  · split
    · exact KeepsExcP.error
    · extract_lets +onlyGivenNames -underBinder v2
      have hv2 : KeepsP r v2 := by unfold v2; apply retireSeq_keeps; exact h
      clear_value v2; refine KeepsExcP.ok ?_; refine KeepsP.mk ?_; apply countSeqs_keeps; refine KeepsP.fst ?_
      exact hv2

theorem applyEdits_keeps {r : State} (a : State) (x1 : List KvEdit) (x2 : List Nat) (h : Keeps r a) : KeepsExc r
    (applyEdits a x1 x2) := by
  induction x1 generalizing a x2 with
  | nil =>
    unfold applyEdits; refine KeepsExc.ok ?_; apply pushPages_keeps; exact h
  | cons e es ih =>
    unfold applyEdits; split
    · exact KeepsExc.error
    · apply ih; refine Keeps.of_excP ?_ (by assumption); apply applyEdit_keeps; exact h

theorem growSeqs_keeps {r : State} (s : State) (h : Keeps r s) : Keeps r (growSeqs s) := by
  rw [show @growSeqs = _ from by delta growSeqs; exact rfl]; refine Keeps.foldl ?_ ?_
  · intro x0 x1 k2; extract_lets +onlyGivenNames -underBinder v3; clear_value v3; apply putSeq_keeps; exact k2
  · exact h

theorem updateScores_keeps {r : State} (s : State) (h : Keeps r s) : Keeps r (updateScores s) := by
  rw [show @updateScores = _ from by delta updateScores; exact rfl]
  extract_lets +onlyGivenNames -underBinder v0 v1 v2; clear_value v0
  have hv1 : Keeps r v1 := by
    unfold v1; refine Keeps.foldl ?_ ?_
    · intro x3 x4 k5; apply putPage_keeps; exact k5
    · exact h
  clear_value v1; clear_value v2; refine Keeps.foldl ?_ ?_
  · intro x6 x7 k8; apply clearMem_keeps; exact k8
  · exact hv1

theorem setAppends_keeps {r : State} (s : State) (plan : List (Nat × Nat)) (h : Keeps r s) : Keeps r (setAppends s
    plan) := by
  rw [show @setAppends = _ from by delta setAppends; exact rfl]; refine Keeps.foldl ?_ ?_
  · intro x0 x1 k2; split; extract_lets +onlyGivenNames -underBinder v3; clear_value v3; refine Keeps.ite ?_ ?_
    · apply putSeq_keeps; exact k2
    · intro k4; exact k2
  · exact h

theorem evictAll_keeps {r : State} (s : State) (l : List (Nat × Nat)) (h : Keeps r s) : Keeps r (evictAll s l) := by
  rw [show @evictAll = _ from by delta evictAll; exact rfl]; extract_lets +onlyGivenNames -underBinder v0
  have hv0 : KeepsP r v0 := by
    unfold v0; refine KeepsP.foldl ?_ ?_
    · intro x1 x2 k3; extract_lets +onlyGivenNames -underBinder v4; clear_value v4; refine KeepsP.ite ?_ ?_
      · exact k3
      · intro k5; extract_lets +onlyGivenNames -underBinder v6
        have hv6 : KeepsP r v6 := by unfold v6; apply evictPage_keeps; refine KeepsP.fst ?_; exact k5
        clear_value v6; refine KeepsP.mk ?_; refine KeepsP.fst ?_; exact hv6
    · refine KeepsP.mk ?_; exact h
  clear_value v0; apply pushPages_keeps; refine KeepsP.fst ?_; exact hv0

theorem allocPages_keeps {r : State} (a : Nat) (x1 : State) (x2 : Nat) (x3 : Seq) (h : Keeps r x1) : KeepsP r
    (allocPages a x1 x2 x3) := by
  induction a generalizing x1 x2 x3 with
  | zero =>
    unfold allocPages; refine KeepsP.mk ?_; exact h
  | succ n ih =>
    unfold allocPages; split
    · refine KeepsP.mk ?_; exact h
    · apply ih; apply putPage_keeps; apply writeLE_keeps; refine Keeps.of_opt ?_ (by assumption); apply popPage_keeps
      exact h

theorem allocSeq_keeps {r : State} (s : State) (i : Nat) (h : Keeps r s) : Keeps r (allocSeq s i) := by
  rw [show @allocSeq = _ from by delta allocSeq; exact rfl]; extract_lets +onlyGivenNames -underBinder v0 v1
  clear_value v0; clear_value v1; refine Keeps.ite ?_ ?_
  · refine Keeps.ite ?_ ?_
    · refine Keeps.ite ?_ ?_
      · split; apply editSeq_keeps; refine Keeps.of_pair ?_ (by assumption); apply allocPages_keeps; exact h
      · intro k2; apply bump_keeps; apply putSeq_keeps; exact h
    · intro k3; refine Keeps.ite ?_ ?_
      · exact h
      · intro k4; apply editSeq_keeps; exact k4
  · intro k5; exact h

theorem allocAll_keeps {r : State} (s : State) (plan : List (Nat × Nat)) (h : Keeps r s) : Keeps r (allocAll s plan)
    := by
  rw [show @allocAll = _ from by delta allocAll; exact rfl]; extract_lets +onlyGivenNames -underBinder v0 v1 v2 v3
  clear_value v0
  have hv1 : Keeps r v1 := by
    unfold v1; refine Keeps.foldl ?_ ?_
    · intro x4 x5 k6; apply allocSeq_keeps; exact k6
    · exact h
  clear_value v1; clear_value v2
  have hv3 : Keeps r v3 := by
    unfold v3; refine Keeps.foldl ?_ ?_
    · intro x7 x8 k9; apply putSeq_keeps; exact k9
    · exact hv1
  clear_value v3; refine Keeps.mk_iff.mpr ?_; exact hv3

end Sys2Proof.Machine
end

