-- ==== Sys2Proof/Laws/KeepsNet.lean ====
section
/-!
SUPPORT. That the port, collectives, securing, pauses and serving keep what `Keeps` says.
-/
namespace Sys2Proof.Machine

theorem modNet_keeps {r : State} (s : State) (f : NetState → NetState) (h : Keeps r s) : Keeps r (modNet s f) := by
  rw [show @modNet = _ from by delta modNet; exact rfl]; refine Keeps.mk_iff.mpr ?_; exact h

theorem modCtx_keeps {r : State} (s : State) (n : Nat) (f : Ctx → Ctx) (h : Keeps r s) : Keeps r (modCtx s n f) :=
    by
  rw [show @modCtx = _ from by delta modCtx; exact rfl]; apply modNet_keeps; exact h

theorem countCtxs_keeps {r : State} (s : State) (h : Keeps r s) : Keeps r (countCtxs s) := by
  rw [show @countCtxs = _ from by delta countCtxs; exact rfl]; apply setReg_keeps; exact h

theorem pump_keeps {r : State} (a : Nat) (x1 : State) (x2 : Nat) (h : Keeps r x1) : Keeps r (pump a x1 x2) := by
  induction a generalizing x1 x2 with
  | zero =>
    unfold pump; exact h
  | succ n ih =>
    unfold pump; split
    · exact h
    · split
      · exact h
      · extract_lets +onlyGivenNames -underBinder v0; clear_value v0; refine Keeps.ite ?_ ?_
        · extract_lets +onlyGivenNames -underBinder v1
          have hv1 : Keeps r v1 := by unfold v1; apply modCtx_keeps; exact h
          clear_value v1; apply ih; apply send_keeps; exact hv1
        · intro k2; exact h

theorem pumpAll_keeps {r : State} (s : State) (n : Nat) (h : Keeps r s) : Keeps r (pumpAll s n) := by
  rw [show @pumpAll = _ from by delta pumpAll; exact rfl]; split
  · exact h
  · apply pump_keeps; exact h

theorem sendMessage_keeps {r : State} (s : State) (n kind plan : Nat) (b : List Byte) (h : Keeps r s) : Keeps r
    (sendMessage s n kind plan b) := by
  rw [show @sendMessage = _ from by delta sendMessage; exact rfl]; split
  · exact h
  · extract_lets +onlyGivenNames -underBinder v0; clear_value v0; refine Keeps.ite ?_ ?_
    · apply pumpAll_keeps; apply modCtx_keeps; exact h
    · intro k1; exact h

theorem sendAck_keeps {r : State} (s : State) (n : Nat) (h : Keeps r s) : Keeps r (sendAck s n) := by
  rw [show @sendAck = _ from by delta sendAck; exact rfl]; split
  · exact h
  · apply send_keeps; apply modCtx_keeps; exact h

theorem ackIfDue_keeps {r : State} (s : State) (n : Nat) (h : Keeps r s) : Keeps r (ackIfDue s n) := by
  rw [show @ackIfDue = _ from by delta ackIfDue; exact rfl]; split
  · exact h
  · refine Keeps.ite ?_ ?_
    · exact h
    · intro k0; apply sendAck_keeps; exact k0

theorem returnUnits_keeps {r : State} (s : State) (n u : Nat) (h : Keeps r s) : Keeps r (returnUnits s n u) := by
  rw [show @returnUnits = _ from by delta returnUnits; exact rfl]; apply modCtx_keeps; exact h

theorem closeCtx_keeps {r : State} (s : State) (n : Nat) (h : Keeps r s) : Keeps r (closeCtx s n) := by
  rw [show @closeCtx = _ from by delta closeCtx; exact rfl]; split
  · exact h
  · extract_lets +onlyGivenNames -underBinder v0
    have hv0 : Keeps r v0 := by
      unfold v0; refine Keeps.ite ?_ ?_
      · apply modNet_keeps; exact h
      · intro k1; apply modCtx_keeps; exact h
    clear_value v0; apply countCtxs_keeps; exact hv0

theorem drop_keeps {r : State} (s : State) (k : Nat) (h : Keeps r s) : Keeps r (drop s k) := by
  rw [show @drop = _ from by delta drop; exact rfl]; apply bump_keeps; exact h

theorem answerUnknown_keeps {r : State} (s : State) (h0 : TbkHdr) (h : Keeps r s) : Keeps r (answerUnknown s h0) := by
  rw [show @answerUnknown = _ from by delta answerUnknown; exact rfl]; extract_lets +onlyGivenNames -underBinder v0
  have hv0 : Keeps r v0 := by
    unfold v0; refine Keeps.ite ?_ ?_
    · exact h
    · intro k1; apply modNet_keeps; exact h
  clear_value v0; refine Keeps.ite ?_ ?_
  · apply send_keeps; apply modNet_keeps; exact hv0
  · intro k2; apply bump_keeps; exact hv0

theorem tbkCheck_keeps {r : State} (s : State) (t : TbkType) (h0 : TbkHdr) (kindOk : Bool) (h : Keeps r s) :
    KeepsErr r (tbkCheck s t h0 kindOk) := by
  rw [show @tbkCheck = _ from by delta tbkCheck; exact rfl]; split
  · refine KeepsErr.error ?_; apply drop_keeps; exact h
  · split
    · refine KeepsErr.error ?_; apply drop_keeps; exact h
    · split
      · refine KeepsErr.error ?_; apply drop_keeps; exact h
      · split
        · refine KeepsErr.error ?_; apply answerUnknown_keeps; apply violation_keeps; apply drop_keeps; exact h
        · split
          · refine KeepsErr.error ?_; split
            · apply send_keeps; apply drop_keeps; exact h
            · apply send_keeps; apply drop_keeps; exact h
            · apply drop_keeps; exact h
          · split
            · refine KeepsErr.error ?_; apply send_keeps; apply drop_keeps; exact h
            · exact KeepsErr.ok

theorem accepted_keeps {r : State} (s : State) (t : TbkType) (h0 : TbkHdr) (kindOk : Bool) (f : State → State)
    (h : Keeps r s) (hf : ∀ t, Keeps r t → Keeps r (f t)) : Keeps r (accepted s t h0 kindOk f) := by
  rw [show @accepted = _ from by delta accepted; exact rfl]; refine Keeps.ite ?_ ?_
  · split
    · refine Keeps.of_err ?_ (by assumption); apply tbkCheck_keeps; exact h
    · apply hf; exact h
  · intro k0; exact h

theorem execFrameRx_keeps {r : State} (f : Frame) (s : State) (h : Keeps r s) : KeepsOut r (execFrameRx f s) := by
  rw [show @execFrameRx = _ from by delta execFrameRx; exact rfl]; refine KeepsOut.next ?_; refine Keeps.ite ?_ ?_
  · extract_lets +onlyGivenNames -underBinder v0
    have hv0 : Keeps r v0 := by unfold v0; apply bump_keeps; exact h
    clear_value v0; refine Keeps.ite ?_ ?_
    · refine Keeps.ite ?_ ?_
      · refine Keeps.ite ?_ ?_
        · refine Keeps.ite ?_ ?_
          · refine Keeps.ite ?_ ?_
            · split
              · exact hv0
              · refine Keeps.ite ?_ ?_
                · refine Keeps.ite ?_ ?_
                  · exact hv0
                  · intro k1; apply drop_keeps; exact k1
                · intro k2; extract_lets +onlyGivenNames -underBinder v3
                  have hv3 : Keeps r v3 := by unfold v3; apply drop_keeps; exact hv0
                  clear_value v3; refine Keeps.ite ?_ ?_
                  · exact hv3
                  · intro k4; apply send_keeps; apply modNet_keeps; exact k4
            · intro k5; apply drop_keeps; exact hv0
          · intro k6; apply drop_keeps; exact hv0
        · intro k7; apply drop_keeps; exact hv0
      · intro k8; apply bump_keeps; exact hv0
    · intro k9; apply bump_keeps; exact hv0
  · intro k10; exact h

theorem writeFetched_keeps {r : State} (s : State) (got : List Byte) (o : Nat) (h : Keeps r s) : Keeps r
    (writeFetched s got o) := by
  rw [show @writeFetched = _ from by delta writeFetched; exact rfl]; refine Keeps.ite ?_ ?_
  · split
    · exact h
    · extract_lets +onlyGivenNames -underBinder v0 v1 v2 v3 v4; clear_value v0; clear_value v1; clear_value v2
      clear_value v3; clear_value v4; apply writeBytes_keeps; exact h
  · intro k5; exact h

theorem deliverMessage_keeps {r : State} (s : State) (c : Ctx) (e : DataExt) (h : Keeps r s) : Keeps r
    (deliverMessage s c e) := by
  rw [show @deliverMessage = _ from by delta deliverMessage; exact rfl]
  extract_lets +onlyGivenNames -underBinder m0 v0 v1
  clear_value m0
  have hv0 : Keeps r v0 := by unfold v0; apply modNet_keeps; exact h
  clear_value v0
  have hv1 : Keeps r v1 := by unfold v1; apply modNet_keeps; exact hv0
  clear_value v1; split
  · exact hv1
  · exact hv1
  · refine Keeps.ite ?_ ?_
    · exact hv0
    · intro k2; apply drop_keeps; exact hv1
  · refine Keeps.ite ?_ ?_
    · exact hv0
    · intro k3; apply modNet_keeps; exact hv1
  · exact hv0

theorem takePayload_keeps {r : State} (s : State) (c : Ctx) (e : DataExt) (h : Keeps r s) : Keeps r (takePayload s c
    e) := by
  rw [show @takePayload = _ from by delta takePayload; exact rfl]; refine Keeps.ite ?_ ?_
  · extract_lets +onlyGivenNames -underBinder v0 v1 v2; clear_value v0
    have hv1 : Keeps r v1 := by unfold v1; apply returnUnits_keeps; exact h
    clear_value v1
    have hv2 : Keeps r v2 := by
      unfold v2; refine Keeps.ite ?_ ?_
      · exact hv1
      · intro k3; apply writeFetched_keeps; exact k3
    clear_value v2; refine Keeps.ite ?_ ?_
    · apply modCtx_keeps; exact hv2
    · intro k4; apply deliverMessage_keeps; apply modCtx_keeps; exact hv2
  · intro k5; apply modCtx_keeps; exact h

theorem takeData_keeps {r : State} (s : State) (h0 : TbkHdr) (e : DataExt) (h : Keeps r s) : KeepsP r
    (takeData s h0 e) := by
  rw [show @takeData = _ from by delta takeData; exact rfl]; split
  · refine KeepsP.mk ?_; exact h
  · refine KeepsP.ite ?_ ?_
    · refine KeepsP.ite ?_ ?_
      · extract_lets +onlyGivenNames -underBinder v0
        have hv0 : Keeps r v0 := by unfold v0; apply modCtx_keeps; exact h
        clear_value v0; refine KeepsP.mk ?_; apply takePayload_keeps; exact hv0
      · intro k1; refine KeepsP.mk ?_; apply drop_keeps; exact h
    · intro k2; refine KeepsP.ite ?_ ?_
      · extract_lets +onlyGivenNames -underBinder v3 v4
        have hv3 : Keeps r v3 := by unfold v3; apply drop_keeps; exact h
        clear_value v3; clear_value v4; refine KeepsP.mk ?_; refine Keeps.ite ?_ ?_
        · exact hv3
        · intro k5; apply send_keeps; apply modCtx_keeps; exact hv3
      · intro k6; refine KeepsP.mk ?_; apply sendAck_keeps; apply drop_keeps; exact h

theorem resend_keeps {r : State} (s : State) (n : Nat) (h : Keeps r s) : Keeps r (resend s n) := by
  rw [show @resend = _ from by delta resend; exact rfl]; split
  · exact h
  · extract_lets +onlyGivenNames -underBinder v0
    have hv0 : Keeps r v0 := by
      unfold v0; refine Keeps.foldl ?_ ?_
      · intro x1 x2 k3; apply send_keeps; exact k3
      · exact h
    clear_value v0; apply bump_keeps; exact hv0

theorem movePath_keeps {r : State} (s : State) (n : Nat) (h : Keeps r s) : Keeps r (movePath s n) := by
  rw [show @movePath = _ from by delta movePath; exact rfl]; apply bump_keeps; apply modCtx_keeps; exact h

theorem takeAck_keeps {r : State} (s : State) (n : Nat) (e : AckExt) (h : Keeps r s) : Keeps r (takeAck s n e) := by
  rw [show @takeAck = _ from by delta takeAck; exact rfl]; split
  · exact h
  · extract_lets +onlyGivenNames -underBinder v0 v1 v2; clear_value v0; clear_value v1
    have hv2 : Keeps r v2 := by unfold v2; apply modCtx_keeps; exact h
    clear_value v2; apply pumpAll_keeps; exact hv2

theorem sendHeartbeat_keeps {r : State} (s : State) (h : Keeps r s) : Keeps r (sendHeartbeat s) := by
  rw [show @sendHeartbeat = _ from by delta sendHeartbeat; exact rfl]; extract_lets +onlyGivenNames -underBinder v0
  clear_value v0; refine Keeps.ite ?_ ?_
  · apply send_keeps; apply modNet_keeps; exact h
  · intro k1; exact h

theorem putStatus_keeps {r : State} (s : State) (rank path bit : Nat) (v : Bool) (h : Keeps r s) : Keeps r
    (putStatus s rank path bit v) := by
  rw [show @putStatus = _ from by delta putStatus; exact rfl]; extract_lets +onlyGivenNames -underBinder v0 v1 v2
  clear_value v0; clear_value v1; clear_value v2; apply setReg_keeps; exact h

theorem markPathDown_keeps {r : State} (s : State) (rank path : Nat) (h : Keeps r s) : Keeps r (markPathDown s rank
    path) := by
  rw [show @markPathDown = _ from by delta markPathDown; exact rfl]; extract_lets +onlyGivenNames -underBinder v0
  have hv0 : Keeps r v0 := by unfold v0; apply putStatus_keeps; exact h
  clear_value v0; refine Keeps.foldl ?_ ?_
  · intro x1 x2 k3; apply movePath_keeps; exact k3
  · exact hv0

theorem modWatch_keeps {r : State} (s : State) (rank : Nat) (f : Watch → Watch) (h : Keeps r s) : Keeps r (modWatch
    s rank f) := by
  rw [show @modWatch = _ from by delta modWatch; exact rfl]; apply modNet_keeps; exact h

theorem takeHeartbeat_keeps {r : State} (s : State) (rank path : Nat) (e : HeartbeatExt) (h : Keeps r s) : Keeps r
    (takeHeartbeat s rank path e) := by
  rw [show @takeHeartbeat = _ from by delta takeHeartbeat; exact rfl]; extract_lets +onlyGivenNames -underBinder v0
  have hv0 : Keeps r v0 := by
    unfold v0; split
    · apply setReg_keeps; exact h
    · exact h
  clear_value v0; refine Keeps.ite ?_ ?_
  · extract_lets +onlyGivenNames -underBinder v1 v2
    have hv1 : Keeps r v1 := by
      unfold v1; refine Keeps.ite ?_ ?_
      · refine Keeps.ite ?_ ?_
        · apply modNet_keeps; exact hv0
        · intro k3; exact hv0
      · intro k4; exact hv0
    clear_value v1
    have hv2 : Keeps r v2 := by unfold v2; apply modWatch_keeps; exact hv1
    clear_value v2; apply putStatus_keeps; exact hv2
  · intro k5; apply modNet_keeps; exact hv0

theorem newEpoch_keeps {r : State} (s : State) (e : Nat) (h : Keeps r s) : Keeps r (newEpoch s e) := by
  rw [show @newEpoch = _ from by delta newEpoch; exact rfl]; extract_lets +onlyGivenNames -underBinder v0 v1 v2 v3
  have hv0 : Keeps r v0 := by unfold v0; apply setReg_keeps; exact h
  clear_value v0
  have hv1 : Keeps r v1 := by unfold v1; apply modNet_keeps; exact hv0
  clear_value v1; clear_value v2
  have hv3 : Keeps r v3 := by unfold v3; refine Keeps.mk_iff.mpr ?_; exact hv1
  clear_value v3; extract_lets +onlyGivenNames -underBinder v4; clear_value v4; apply countCtxs_keeps
  refine Keeps.foldl ?_ ?_
  · intro x5 x6 k7; extract_lets +onlyGivenNames -underBinder v8; clear_value v8; apply putStatus_keeps
    apply putStatus_keeps; exact k7
  · exact hv3

theorem execAckTimer_keeps {r : State} (n : Nat) (s : State) (h : Keeps r s) : KeepsOut r (execAckTimer n s) := by
  rw [show @execAckTimer = _ from by delta execAckTimer; exact rfl]; split
  · refine KeepsOut.next ?_; exact h
  · refine KeepsOut.next ?_; refine Keeps.ite ?_ ?_
    · exact h
    · intro k0; apply sendAck_keeps; exact k0

theorem sendOpen_keeps {r : State} (s : State) (c : Ctx) (h : Keeps r s) : Keeps r (sendOpen s c) := by
  rw [show @sendOpen = _ from by delta sendOpen; exact rfl]; apply send_keeps; exact h

theorem execTbkRtoExpiry_keeps {r : State} (n : Nat) (late : Bool) (s : State) (h : Keeps r s) : KeepsOut r
    (execTbkRtoExpiry n late s) := by
  rw [show @execTbkRtoExpiry = _ from by delta execTbkRtoExpiry; exact rfl]; split
  · refine KeepsOut.next ?_; exact h
  · split
    · refine KeepsOut.next ?_; exact h
    · split
      · refine KeepsOut.next ?_; apply lateAccept_keeps; exact h
      · split
        · split
          · refine KeepsOut.next ?_; apply closeCtx_keeps; exact h
          · refine KeepsOut.next ?_; apply sendOpen_keeps; apply modCtx_keeps; exact h
        · extract_lets +onlyGivenNames -underBinder v0
          have hv0 : Keeps r v0 := by unfold v0; apply modCtx_keeps; exact h
          clear_value v0; refine KeepsOut.next ?_; apply resend_keeps; refine Keeps.ite ?_ ?_
          · exact hv0
          · intro k1; apply movePath_keeps; exact k1

theorem addCtx_keeps {r : State} (s : State) (c : Ctx) (h : Keeps r s) : Keeps r (addCtx s c) := by
  rw [show @addCtx = _ from by delta addCtx; exact rfl]; apply countCtxs_keeps; apply modNet_keeps; exact h

theorem execOpen_keeps {r : State} (h0 : TbkHdr) (e : OpenExt) (s : State) (h : Keeps r s) : KeepsOut r
    (execOpen h0 e s) := by
  rw [show @execOpen = _ from by delta execOpen; exact rfl]; refine KeepsOut.next ?_; apply accepted_keeps
  · exact h
  · intro x0 k1; extract_lets +onlyGivenNames -underBinder v2 v3 v4 v5 v6; clear_value v2; clear_value v3
    clear_value v4
    have hv5 : ∀ a7 a8, Keeps r a7 → Keeps r (v5 a7 a8) := by intro x9 x10 k11; unfold v5; apply send_keeps; exact k11
    clear_value v5; clear_value v6; split
    · apply hv5; exact k1
    · refine Keeps.ite ?_ ?_
      · extract_lets +onlyGivenNames -underBinder v12; clear_value v12; split
        · apply hv5; exact k1
        · refine Keeps.ite ?_ ?_
          · apply hv5; apply addCtx_keeps; exact takeFree_keeps x0 k1
          · intro k13; apply hv5; exact k1
      · intro k14; apply hv5; exact k1

theorem execOpenAck_keeps {r : State} (h0 : TbkHdr) (e : OpenExt) (s : State) (h : Keeps r s) : KeepsOut r
    (execOpenAck h0 e s) := by
  rw [show @execOpenAck = _ from by delta execOpenAck; exact rfl]; refine KeepsOut.next ?_; apply accepted_keeps
  · exact h
  · intro x0 k1; split
    · exact k1
    · refine Keeps.ite ?_ ?_
      · refine Keeps.ite ?_ ?_
        · apply pumpAll_keeps; apply modCtx_keeps; exact k1
        · intro k2; apply closeCtx_keeps; exact k1
      · intro k3; exact k1

theorem execTbkClose_keeps {r : State} (h0 : TbkHdr) (_e : OpenExt) (s : State) (h : Keeps r s) : KeepsOut r
    (execTbkClose h0 _e s) := by
  rw [show @execTbkClose = _ from by delta execTbkClose; exact rfl]; refine KeepsOut.next ?_; apply accepted_keeps
  · exact h
  · intro x0 k1; apply closeCtx_keeps; exact k1

theorem execHeartbeat_keeps {r : State} (h0 : TbkHdr) (e : HeartbeatExt) (s : State) (h : Keeps r s) : KeepsOut r
    (execHeartbeat h0 e s) := by
  rw [show @execHeartbeat = _ from by delta execHeartbeat; exact rfl]; refine KeepsOut.next ?_; apply accepted_keeps
  · exact h
  · intro x0 k1; apply takeHeartbeat_keeps; exact k1

theorem execStretch_keeps {r : State} (h0 : TbkHdr) (m : StretchMsg) (s : State) (h : Keeps r s) : KeepsOut r
    (execStretch h0 m s) := by
  rw [show @execStretch = _ from by delta execStretch; exact rfl]; refine KeepsOut.next ?_; apply accepted_keeps
  · exact h
  · intro x0 k1; apply takeStretch_keeps; exact k1

theorem execHeartbeatTimer_keeps {r : State} (s : State) (h : Keeps r s) : KeepsOut r (execHeartbeatTimer s) := by
  rw [show @execHeartbeatTimer = _ from by delta execHeartbeatTimer; exact rfl]; refine KeepsOut.next ?_
  refine Keeps.ite ?_ ?_
  · exact h
  · intro k0; apply sendHeartbeat_keeps; exact k0

theorem execHeartbeatLoss_keeps {r : State} (rank : Nat) (late : Bool) (s : State) (h : Keeps r s) : KeepsOut r
    (execHeartbeatLoss rank late s) := by
  rw [show @execHeartbeatLoss = _ from by delta execHeartbeatLoss; exact rfl]; split
  · refine KeepsOut.next ?_; exact h
  · extract_lets +onlyGivenNames -underBinder v0 v1; clear_value v0; clear_value v1; split
    · refine KeepsOut.next ?_; exact h
    · split
      · refine KeepsOut.next ?_; refine Keeps.ite ?_ ?_
        · exact h
        · intro k2; apply lateAccept_keeps; exact k2
      · split
        · extract_lets +onlyGivenNames -underBinder v3 v4
          have hv3 : Keeps r v3 := by unfold v3; apply modNet_keeps; exact h
          clear_value v3
          have hv4 : Keeps r v4 := by
            unfold v4; apply bump_keeps; apply putStatus_keeps; apply putStatus_keeps; exact hv3
          clear_value v4; refine KeepsOut.next ?_; apply reportFault_keeps; exact hv4
        · extract_lets +onlyGivenNames -underBinder v5
          have hv5 : ∀ a0 a1, Keeps r a0 → Keeps r (v5 a0 a1) := by
            unfold v5; intro x6 x7 k8; refine Keeps.ite ?_ ?_
            · exact k8
            · intro k9; apply markPathDown_keeps; exact k9
          clear_value v5; refine KeepsOut.next ?_; apply hv5; apply hv5; exact h

theorem execLinkLoss_keeps {r : State} (s : State) (h : Keeps r s) : KeepsOut r (execLinkLoss s) := by
  rw [show @execLinkLoss = _ from by delta execLinkLoss; exact rfl]; refine KeepsOut.next ?_; refine Keeps.ite ?_ ?_
  · apply modNet_keeps; apply setReg_keeps; exact h
  · intro k0; exact h

theorem resolveGateways_keeps {r : State} (s : State) (h : Keeps r s) : Keeps r (resolveGateways s) := by
  rw [show @resolveGateways = _ from by delta resolveGateways; exact rfl]
  extract_lets +onlyGivenNames -underBinder v0; clear_value v0; refine Keeps.foldl ?_ ?_
  · intro x1 x2 k3; apply send_keeps; exact k3
  · apply modNet_keeps; exact h

theorem execLinkUp_keeps {r : State} (s : State) (h : Keeps r s) : KeepsOut r (execLinkUp s) := by
  rw [show @execLinkUp = _ from by delta execLinkUp; exact rfl]; refine KeepsOut.next ?_; refine Keeps.ite ?_ ?_
  · exact h
  · intro k0; apply resolveGateways_keeps; apply setReg_keeps; exact k0

theorem leavePath_keeps {r : State} (s : State) (path : Nat) (h : Keeps r s) : Keeps r (leavePath s path) := by
  rw [show @leavePath = _ from by delta leavePath; exact rfl]; refine Keeps.foldl ?_ ?_
  · intro x0 x1 k2; apply movePath_keeps; exact k2
  · exact h

theorem execGatewayResolve_keeps {r : State} (failed : List (Fin 2)) (s : State) (h : Keeps r s) : KeepsOut r
    (execGatewayResolve failed s) := by
  rw [show @execGatewayResolve = _ from by delta execGatewayResolve; exact rfl]; split
  · refine KeepsOut.next ?_; exact h
  · extract_lets +onlyGivenNames -underBinder v0 v1
    have hv0 : Keeps r v0 := by unfold v0; apply resolveGateways_keeps; exact h
    clear_value v0; clear_value v1; refine KeepsOut.next ?_; refine Keeps.foldl ?_ ?_
    · intro x2 x3 k4; apply leavePath_keeps; refine Keeps.foldl ?_ ?_
      · intro x5 x6 k7; apply markPathDown_keeps; exact k7
      · exact k4
    · exact hv0

theorem execNeighbourResolution_keeps {r : State} (p : Fin 2) (requester target : Nat) (s : State) (h : Keeps r s) :
    KeepsOut r (execNeighbourResolution p requester target s) := by
  rw [show @execNeighbourResolution = _ from by delta execNeighbourResolution; exact rfl]; refine KeepsOut.next ?_
  refine Keeps.ite ?_ ?_
  · exact h
  · intro k0; apply send_keeps; exact k0

theorem execIcmpEcho_keeps {r : State} (src : Nat) (payload : List Byte) (s : State) (h : Keeps r s) : KeepsOut r
    (execIcmpEcho src payload s) := by
  rw [show @execIcmpEcho = _ from by delta execIcmpEcho; exact rfl]; split
  · refine KeepsOut.next ?_; exact h
  · extract_lets +onlyGivenNames -underBinder v0
    have hv0 : Keeps r v0 := by
      unfold v0; refine Keeps.ite ?_ ?_
      · exact h
      · intro k1; apply modNet_keeps; exact k1
    clear_value v0; refine KeepsOut.next ?_; refine Keeps.ite ?_ ?_
    · apply send_keeps; apply modNet_keeps; exact hv0
    · intro k2; exact hv0

theorem ptpUnlock_keeps {r : State} (s : State) (h : Keeps r s) : Keeps r (ptpUnlock s) := by
  rw [show @ptpUnlock = _ from by delta ptpUnlock; exact rfl]; apply raiseEvent_keeps; apply setReg_keeps; exact h

theorem takeSync_keeps {r : State} (s : State) (offset : Int) (h : Keeps r s) : Keeps r (takeSync s offset) := by
  rw [show @takeSync = _ from by delta takeSync; exact rfl]; extract_lets +onlyGivenNames -underBinder v0 v1 v2 v3
  clear_value v0
  have hv1 : Keeps r v1 := by unfold v1; apply setReg_keeps; exact h
  clear_value v1; clear_value v2
  have hv3 : Keeps r v3 := by unfold v3; apply modNet_keeps; exact hv1
  clear_value v3; refine Keeps.ite ?_ ?_
  · refine Keeps.ite ?_ ?_
    · exact hv3
    · intro k4; apply setReg_keeps; exact k4
  · intro k5; apply ptpUnlock_keeps; exact hv3

theorem execPtpMessage_keeps {r : State} (src domain : Nat) (k : PtpKind) (s : State) (h : Keeps r s) : KeepsOut r
    (execPtpMessage src domain k s) := by
  rw [show @execPtpMessage = _ from by delta execPtpMessage; exact rfl]
  extract_lets +onlyGivenNames -underBinder v0; clear_value v0; split
  · refine KeepsOut.next ?_; exact h
  · split
    · split
      · refine KeepsOut.next ?_; exact h
      · extract_lets +onlyGivenNames -underBinder v1
        have hv1 : Keeps r v1 := by unfold v1; apply modNet_keeps; exact h
        clear_value v1; refine KeepsOut.next ?_; refine Keeps.ite ?_ ?_
        · exact hv1
        · intro k2; apply setReg_keeps; exact k2
    · refine KeepsOut.next ?_; refine Keeps.ite ?_ ?_
      · exact h
      · intro k3; apply takeSync_keeps; apply send_keeps; exact k3

theorem execPtpAnnounceTimeout_keeps {r : State} (s : State) (h : Keeps r s) : KeepsOut r (execPtpAnnounceTimeout s)
    := by
  rw [show @execPtpAnnounceTimeout = _ from by delta execPtpAnnounceTimeout; exact rfl]
  extract_lets +onlyGivenNames -underBinder v0; clear_value v0; refine KeepsOut.next ?_; refine Keeps.ite ?_ ?_
  · exact h
  · intro k1; apply modNet_keeps; apply setReg_keeps; exact k1

theorem execPtpHoldoverExpiry_keeps {r : State} (s : State) (h : Keeps r s) : KeepsOut r (execPtpHoldoverExpiry s)
    := by
  rw [show @execPtpHoldoverExpiry = _ from by delta execPtpHoldoverExpiry; exact rfl]; refine KeepsOut.next ?_
  refine Keeps.ite ?_ ?_
  · exact h
  · intro k0; apply ptpUnlock_keeps; exact k0

theorem sendChunks_keeps {r : State} (s : State) (r0 : CollRun) (st : CollStep) (h : Keeps r s) : Keeps r
    (sendChunks s r0 st) := by
  rw [show @sendChunks = _ from by delta sendChunks; exact rfl]; extract_lets +onlyGivenNames -underBinder v0 v1
  clear_value v0; clear_value v1; refine Keeps.foldl ?_ ?_
  · intro x2 x3 k4; apply sendMessage_keeps; exact k4
  · exact h

theorem drawHeld_keeps {r : State} (a : Nat) (x1 : State) (x2 x3 x4 : Nat) (x5 : List Byte) (h : Keeps r x1) :
    KeepsP r (drawHeld a x1 x2 x3 x4 x5) := by
  induction a generalizing x1 x2 x3 x4 x5 with
  | zero =>
    unfold drawHeld; refine KeepsP.mk ?_; exact h
  | succ n ih =>
    unfold drawHeld; refine KeepsP.ite ?_ ?_
    · split
      · refine KeepsP.mk ?_; exact h
      · split
        · refine KeepsP.mk ?_; exact h
        · refine KeepsP.ite ?_ ?_
          · apply ih; apply ackIfDue_keeps; apply returnUnits_keeps; apply modCtx_keeps; exact h
          · intro k0; refine KeepsP.mk ?_; exact h
    · intro k1; refine KeepsP.mk ?_; exact h

theorem takeRatios_keeps {r : State} (s : State) (b : List Byte) (h : Keeps r s) : Keeps r (takeRatios s b) := by
  rw [show @takeRatios = _ from by delta takeRatios; exact rfl]; refine Keeps.mk_iff.mpr ?_; exact h

theorem writeResult_keeps {r : State} (s : State) (r0 : CollRun) (h : Keeps r s) : Keeps r (writeResult s r0) := by
  rw [show @writeResult = _ from by delta writeResult; exact rfl]
  extract_lets +onlyGivenNames -underBinder v0 v1 v2 v3; clear_value v0
  have hv1 : Keeps r v1 := by
    unfold v1; split
    · refine Keeps.ite ?_ ?_
      · apply putRowBytes_keeps; exact h
      · intro k4; exact h
    · exact h
  clear_value v1
  have hv2 : Keeps r v2 := by
    unfold v2; split
    · apply writeBytes_keeps; exact hv1
    · exact hv1
  clear_value v2
  have hv3 : Keeps r v3 := by
    unfold v3; refine Keeps.ite ?_ ?_
    · exact hv2
    · intro k5; apply setNorm_keeps; exact k5
  clear_value v3; refine Keeps.ite ?_ ?_
  · exact hv3
  · intro k6; apply takeRatios_keeps; exact k6

theorem collProgress_keeps {r : State} (a : Nat) (x1 : State) (x2 : CollRun) (h : Keeps r x1) : KeepsP r
    (collProgress a x1 x2) := by
  induction a generalizing x1 x2 with
  | zero =>
    unfold collProgress; refine KeepsP.mk ?_; exact h
  | succ n ih =>
    unfold collProgress; split
    · refine KeepsP.ite ?_ ?_
      · refine KeepsP.mk ?_; apply writeResult_keeps; exact h
      · intro k0; refine KeepsP.mk ?_; exact h
    · split; split; extract_lets +onlyGivenNames -underBinder v1; clear_value v1; refine KeepsP.ite ?_ ?_
      · apply ih; refine Keeps.of_pair ?_ (by assumption); apply drawHeld_keeps
        refine Keeps.of_pair ?_ (by assumption); refine KeepsP.ite ?_ ?_
        · refine KeepsP.mk ?_; apply sendChunks_keeps; exact h
        · intro k2; refine KeepsP.mk ?_; exact h
      · intro k3; refine KeepsP.mk ?_; refine Keeps.of_pair ?_ (by assumption); apply drawHeld_keeps
        refine Keeps.of_pair ?_ (by assumption); refine KeepsP.ite ?_ ?_
        · refine KeepsP.mk ?_; apply sendChunks_keeps; exact h
        · intro k4; refine KeepsP.mk ?_; exact h

theorem collTry_keeps {r : State} (s : State) (r0 : CollRun) (h : Keeps r s) : Keeps r (collTry s r0) := by
  rw [show @collTry = _ from by delta collTry; exact rfl]; extract_lets +onlyGivenNames -underBinder v0
  clear_value v0; split; refine Keeps.ite ?_ ?_
  · apply modNet_keeps; refine Keeps.of_pair ?_ (by assumption); apply collProgress_keeps; exact h
  · intro k1; extract_lets +onlyGivenNames -underBinder v2
    have hv2 : Keeps r v2 := by
      unfold v2; apply modNet_keeps; refine Keeps.of_pair ?_ (by assumption); apply collProgress_keeps; exact h
    clear_value v2; split
    · apply stageTen_keeps; apply markDone_keeps; exact hv2
    · exact hv2

theorem collAll_keeps {r : State} (s : State) (h : Keeps r s) : Keeps r (collAll s) := by
  rw [show @collAll = _ from by delta collAll; exact rfl]; refine Keeps.foldl ?_ ?_
  · intro x0 x1 k2; apply collTry_keeps; exact k2
  · exact h

theorem presend_keeps {r : State} (s : State) (r0 : CollRun) (h : Keeps r s) : KeepsP r (presend s r0) := by
  rw [show @presend = _ from by delta presend; exact rfl]; refine KeepsP.mk ?_; refine Keeps.foldl ?_ ?_
  · intro x0 x1 k2; apply sendChunks_keeps; exact k2
  · exact h

theorem execColl_keeps {r : State} (l : Core) (idx : Nat) (s : State) (h : Keeps r s) : KeepsOut r (execColl l idx
    s) := by
  rw [show @execColl = _ from by delta execColl; exact rfl]; split
  · refine KeepsOut.next ?_; exact h
  · split
    · refine KeepsOut.next ?_; exact h
    · extract_lets +onlyGivenNames -underBinder v0 v1 v2; clear_value v0; clear_value v1; clear_value v2; split
      · refine KeepsOut.next ?_; apply opFault_keeps; exact h
      · refine KeepsOut.next ?_; apply orFault_keeps
        · exact h
        · refine KeepsExc.bind ?_; intro x3; extract_lets +onlyGivenNames -underBinder v4
          have hv4 : ∀ a0, KeepsExc r (v4 a0) := by
            unfold v4; intro x5; extract_lets +onlyGivenNames -underBinder v6
            have hv6 : ∀ a0, KeepsExc r (v6 a0) := by
              unfold v6; intro x7; extract_lets +onlyGivenNames -underBinder v8 v9 v10; clear_value v8
              clear_value v9
              have hv10 : Keeps r v10 := by unfold v10; apply traffic_keeps; apply issue_keeps; exact h
              clear_value v10; split; refine KeepsExc.ok ?_; apply collTry_keeps; apply modNet_keeps
              refine Keeps.of_pair ?_ (by assumption); refine KeepsP.ite ?_ ?_
              · refine KeepsP.mk ?_; exact hv10
              · intro k11; apply presend_keeps; exact hv10
            clear_value v6; split
            · refine KeepsExc.bind ?_; intro x12; apply hv6
            · refine KeepsExc.bind ?_; intro x13; apply hv6
          clear_value v4; split
          · refine KeepsExc.bind ?_; intro x14; apply hv4
          · refine KeepsExc.bind ?_; intro x15; apply hv4

theorem execDataRx_keeps {r : State} (h0 : TbkHdr) (e : DataExt) (s : State) (h : Keeps r s) : KeepsOut r
    (execDataRx h0 e s) := by
  rw [show @execDataRx = _ from by delta execDataRx; exact rfl]; refine KeepsOut.next ?_; apply accepted_keeps
  · exact h
  · intro x0 k1; split; refine Keeps.ite ?_ ?_
    · refine Keeps.of_pair ?_ (by assumption); apply takeData_keeps; exact k1
    · intro k2; apply collAll_keeps; apply ackIfDue_keeps; exact k2

theorem execAckRx_keeps {r : State} (h0 : TbkHdr) (e : AckExt) (s : State) (h : Keeps r s) : KeepsOut r
    (execAckRx h0 e s) := by
  rw [show @execAckRx = _ from by delta execAckRx; exact rfl]; refine KeepsOut.next ?_; apply accepted_keeps
  · exact h
  · intro x0 k1; apply collAll_keeps; apply takeAck_keeps; exact k1

theorem execNakRx_keeps {r : State} (h0 : TbkHdr) (e : AckExt) (s : State) (h : Keeps r s) : KeepsOut r
    (execNakRx h0 e s) := by
  rw [show @execNakRx = _ from by delta execNakRx; exact rfl]; refine KeepsOut.next ?_; apply accepted_keeps
  · exact h
  · intro x0 k1; refine Keeps.ite ?_ ?_
    · refine Keeps.ite ?_ ?_
      · exact k1
      · intro k2; apply collAll_keeps; apply resend_keeps; apply takeAck_keeps; exact k1
    · intro k3; apply closeCtx_keeps; exact k1

theorem modRec_keeps {r : State} (s : State) (f : RecovState → RecovState) (h : Keeps r s) : Keeps r (modRec s f) :=
    by
  rw [show @modRec = _ from by delta modRec; exact rfl]; refine Keeps.mk_iff.mpr ?_; exact h

theorem toBuddy_keeps {r : State} (s : State) (rank : Nat) (b : List Byte) (h : Keeps r s) : Keeps r (toBuddy s rank
    b) := by
  rw [show @toBuddy = _ from by delta toBuddy; exact rfl]; refine Keeps.ite ?_ ?_
  · apply send_keeps; exact h
  · intro k0; exact h

theorem countLog_keeps {r : State} (s : State) (h : Keeps r s) : Keeps r (countLog s) := by
  rw [show @countLog = _ from by delta countLog; exact rfl]; apply setReg_keeps; exact h

theorem writeLog_keeps {r : State} (s : State) (b : List Byte) (h : Keeps r s) : Keeps r (writeLog s b) := by
  rw [show @writeLog = _ from by delta writeLog; exact rfl]; extract_lets +onlyGivenNames -underBinder v0 v1 v2
  clear_value v0; clear_value v1
  have hv2 : Keeps r v2 := by unfold v2; apply writeBytes_keeps; apply writeBytes_keeps; exact h
  clear_value v2; apply modRec_keeps; exact hv2

theorem storeEntry_keeps {r : State} (s : State) (e : LogEntry) (h : Keeps r s) : Keeps r (storeEntry s e) := by
  rw [show @storeEntry = _ from by delta storeEntry; exact rfl]; extract_lets +onlyGivenNames -underBinder v0 v1
  have hv0 : Keeps r v0 := by unfold v0; apply writeLog_keeps; exact h
  clear_value v0
  have hv1 : Keeps r v1 := by unfold v1; apply modRec_keeps; exact hv0
  clear_value v1; apply countLog_keeps; apply toBuddy_keeps; exact hv1

theorem appendLog_keeps {r : State} (s : State) (kind step : Nat) (payload : List Byte) (h : Keeps r s) : Keeps r
    (appendLog s kind step payload) := by
  rw [show @appendLog = _ from by delta appendLog; exact rfl]; extract_lets +onlyGivenNames -underBinder v0
  clear_value v0; refine Keeps.ite ?_ ?_
  · apply storeEntry_keeps; exact h
  · intro k1; extract_lets +onlyGivenNames -underBinder v2
    have hv2 : Keeps r v2 := by unfold v2; apply bumpIf_keeps; exact h
    clear_value v2; apply modRec_keeps; exact hv2

theorem freeLog_keeps {r : State} (s : State) (step : Nat) (h : Keeps r s) : Keeps r (freeLog s step) := by
  rw [show @freeLog = _ from by delta freeLog; exact rfl]; extract_lets +onlyGivenNames -underBinder v0 v1
  clear_value v0
  have hv1 : Keeps r v1 := by unfold v1; apply countLog_keeps; apply modRec_keeps; exact h
  clear_value v1; refine Keeps.foldl ?_ ?_
  · intro x2 x3 k4; apply appendLog_keeps; exact k4
  · exact hv1

theorem markReplay_keeps {r : State} (s : State) (g : Nat) (h : Keeps r s) : Keeps r (markReplay s g) := by
  rw [show @markReplay = _ from by delta markReplay; exact rfl]; apply modRec_keeps; exact h

theorem endReplay_keeps {r : State} (s : State) (step : Nat) (h : Keeps r s) : Keeps r (endReplay s step) := by
  rw [show @endReplay = _ from by delta endReplay; exact rfl]; apply modRec_keeps; exact h

theorem pullSeqs_keeps {r : State} (a : Nat) (x1 : State) (x2 : List Byte) (h : Keeps r x1) : KeepsP r
    (pullSeqs a x1 x2) := by
  induction a generalizing x1 x2 with
  | zero =>
    unfold pullSeqs; refine KeepsP.mk ?_; exact h
  | succ n ih =>
    unfold pullSeqs; apply ih; apply putSeq_keeps; exact h

theorem restoreKv_keeps {r : State} (s : State) (b : List Byte) (h : Keeps r s) : Keeps r (restoreKv s b) := by
  rw [show @restoreKv = _ from by delta restoreKv; exact rfl]; extract_lets +onlyGivenNames -underBinder v0 v1
  have hv0 : Keeps r v0 := by
    unfold v0; refine Keeps.foldl ?_ ?_
    · intro x2 x3 k4; apply putSeq_keeps; exact k4
    · exact h
  clear_value v0
  have hv1 : Keeps r v1 := by unfold v1; apply setReg_keeps; exact hv0
  clear_value v1; split; extract_lets +onlyGivenNames -underBinder v5; clear_value v5
  extract_lets +onlyGivenNames -underBinder v6
  have hv6 : Keeps r v6 := by
    unfold v6; apply countSeqs_keeps; refine Keeps.mk_iff.mpr ?_; refine Keeps.of_pair ?_ (by assumption)
    apply pullSeqs_keeps; exact hv1
  clear_value v6; apply modNet_keeps; exact hv6

theorem restoreObjects_keeps {r : State} (s : State) (b : List Byte) (h : Keeps r s) : Keeps r (restoreObjects s b)
    := by
  rw [show @restoreObjects = _ from by delta restoreObjects; exact rfl]; refine Keeps.foldl ?_ ?_
  · intro x0 x1 k2; apply setReg_keeps; exact k2
  · exact h

theorem restoreSloe_keeps {r : State} (s : State) (b : List Byte) (h : Keeps r s) : Keeps r (restoreSloe s b) := by
  rw [show @restoreSloe = _ from by delta restoreSloe; exact rfl]
  extract_lets +onlyGivenNames -underBinder v0 v1 v2; clear_value v0
  have hv1 : Keeps r v1 := by
    unfold v1; refine Keeps.foldl ?_ ?_
    · intro x3 x4 k5; apply setReg_keeps; exact k5
    · exact h
  clear_value v1; clear_value v2; refine Keeps.mk_iff.mpr ?_; exact hv1

theorem restoreParts_keeps {r : State} (s : State) (b : List Byte) (h : Keeps r s) : Keeps r (restoreParts s b) :=
    by
  rw [show @restoreParts = _ from by delta restoreParts; exact rfl]; split; split; split; split
  extract_lets +onlyGivenNames -underBinder v0 v1 v2
  have hv0 : Keeps r v0 := by unfold v0; apply setReg_keeps; exact h
  clear_value v0; clear_value v1
  have hv2 : Keeps r v2 := by unfold v2; apply storeTrackers_keeps; refine Keeps.mk_iff.mpr ?_; exact hv0
  clear_value v2; extract_lets +onlyGivenNames -underBinder v3
  have hv3 : Keeps r v3 := by unfold v3; apply restoreSloe_keeps; apply restoreObjects_keeps; exact hv2
  clear_value v3; refine Keeps.ite ?_ ?_
  · exact hv3
  · intro k4; apply restoreKv_keeps; exact k4

theorem restoreRegions_keeps {r : State} (a : Nat) (x1 : State) (x2 : List Byte) (h : Keeps r x1) : Keeps r
    (restoreRegions a x1 x2) := by
  induction a generalizing x1 x2 with
  | zero =>
    unfold restoreRegions; exact h
  | succ n ih =>
    unfold restoreRegions; extract_lets +onlyGivenNames -underBinder v0; clear_value v0; apply ih
    apply writeBytes_keeps; exact h

theorem restoreContent_keeps {r : State} (s : State) (b : List Byte) (h : Keeps r s) : Keeps r (restoreContent s b)
    := by
  rw [show @restoreContent = _ from by delta restoreContent; exact rfl]
  extract_lets +onlyGivenNames -underBinder v0 v1 v2; clear_value v0
  have hv1 : Keeps r v1 := by unfold v1; apply restoreParts_keeps; exact h
  clear_value v1; clear_value v2; apply restoreRegions_keeps; exact hv1

theorem sendUp_keeps {r : State} (s : State) (m : RecMsg) (h : Keeps r s) : Keeps r (sendUp s m) := by
  rw [show @sendUp = _ from by delta sendUp; exact rfl]; extract_lets +onlyGivenNames -underBinder v0
  clear_value v0; refine Keeps.ite ?_ ?_
  · extract_lets +onlyGivenNames -underBinder v1 v2 v3; clear_value v1; clear_value v2; clear_value v3
    refine Keeps.ite ?_ ?_
    · apply recTo_keeps; apply modRec_keeps; exact h
    · intro k4; apply modRec_keeps; exact h
  · intro k5; apply recTo_keeps; exact h

theorem reportSecured_keeps {r : State} (s : State) (g : Nat) (h : Keeps r s) : Keeps r (reportSecured s g) := by
  rw [show @reportSecured = _ from by delta reportSecured; exact rfl]; refine Keeps.ite ?_ ?_
  · extract_lets +onlyGivenNames -underBinder v0 v1; clear_value v0
    have hv1 : Keeps r v1 := by unfold v1; apply sendUp_keeps; apply modRec_keeps; apply setReg_keeps; exact h
    clear_value v1; refine Keeps.ite ?_ ?_
    · apply recTo_keeps; exact hv1
    · intro k2; exact hv1
  · intro k3; exact h

theorem beginSecuring_keeps {r : State} (s c : State) (hs : Keeps r s) (hc : Keeps r c) : Keeps r (beginSecuring s
    c) := by
  rw [show @beginSecuring = _ from by delta beginSecuring; exact rfl]; apply modRec_keeps; exact hs

theorem commitSecuring_keeps {r : State} (s : State) (x : Securing) (h : Keeps r s) : Keeps r (commitSecuring s x)
    := by
  rw [show @commitSecuring = _ from by delta commitSecuring; exact rfl]
  extract_lets +onlyGivenNames -underBinder v0 v1 v2; clear_value v0
  have hv1 : Keeps r v1 := by unfold v1; apply modRec_keeps; exact h
  clear_value v1
  have hv2 : Keeps r v2 := by unfold v2; apply setReg_keeps; exact hv1
  clear_value v2; apply reportSecured_keeps; apply freeLog_keeps; exact hv2

theorem foresee_keeps {r : State} (s : State) (e : Option Nat) (h : Keeps r s) : Keeps r (foresee s e) := by
  rw [show @foresee = _ from by delta foresee; exact rfl]; split
  · refine Keeps.ite ?_ ?_
    · exact h
    · intro k0; apply projectPhase_keeps; exact k0
  · exact h

theorem nameRegions_keeps {r : State} (s : State) (section_ : Nat) (regions : List (Nat × Nat)) (h : Keeps r s) :
    Keeps r (nameRegions s section_ regions) := by
  rw [show @nameRegions = _ from by delta nameRegions; exact rfl]; apply modRec_keeps; exact h

theorem execCtxsave_keeps {r : State} (l : Core) (idx : Nat) (e : Option Nat) (s : State) (h : Keeps r s) : KeepsOut
    r (execCtxsave l idx e s) := by
  rw [show @execCtxsave = _ from by delta execCtxsave; exact rfl]; split
  · refine KeepsOut.next ?_; exact h
  · split
    · refine KeepsOut.next ?_; exact h
    · refine KeepsOut.next ?_; apply orFault_keeps
      · exact h
      · refine KeepsExc.bind ?_; intro x0; extract_lets +onlyGivenNames -underBinder v1; clear_value v1; split
        · extract_lets +onlyGivenNames -underBinder v2
          have hv2 : Keeps r v2 := by unfold v2; apply askRuns_keeps; apply issue_keeps; exact h
          clear_value v2; refine KeepsExc.ok ?_; apply foresee_keeps; apply markDone_keeps; apply nameRegions_keeps
          exact hv2
        · refine KeepsExc.ok ?_; apply setTokens_keeps; apply issue_keeps; exact h

theorem endCapture_keeps {r : State} (s : State) (x : Securing) (e : Option Nat) (h : Keeps r s) : Keeps r
    (endCapture s x e) := by
  rw [show @endCapture = _ from by delta endCapture; exact rfl]
  extract_lets +onlyGivenNames -underBinder v0 v1 v2 v3 v4 v5; clear_value v0; clear_value v1
  have hv2 : Keeps r v2 := by unfold v2; apply writeBytes_keeps; exact h
  clear_value v2
  have hv3 : Keeps r v3 := by unfold v3; apply setReg_keeps; apply setReg_keeps; exact hv2
  clear_value v3
  have hv4 : Keeps r v4 := by unfold v4; apply setReg_keeps; exact hv3
  clear_value v4
  have hv5 : Keeps r v5 := by unfold v5; apply modRec_keeps; exact hv4
  clear_value v5; refine Keeps.ite ?_ ?_
  · extract_lets +onlyGivenNames -underBinder v6; clear_value v6; apply foresee_keeps; apply reportSecured_keeps
    apply toBuddy_keeps; apply setReg_keeps; exact hv5
  · intro k7; apply commitSecuring_keeps; apply setReg_keeps; exact hv5

theorem modDun_keeps {r : State} (s : State) (f : DunrelState → DunrelState) (h : Keeps r s) : Keeps r (modDun s f)
    := by
  rw [show @modDun = _ from by delta modDun; exact rfl]; refine Keeps.mk_iff.mpr ?_; exact h

theorem beginPause_keeps {r : State} (s : State) (selector : Nat) (report : List Byte) (h : Keeps r s) : KeepsP r
    (beginPause s selector report) := by
  rw [show @beginPause = _ from by delta beginPause; exact rfl]; split
  · refine KeepsP.mk ?_; exact h
  · refine KeepsP.ite ?_ ?_
    · extract_lets +onlyGivenNames -underBinder v0 v1; clear_value v0
      have hv1 : Keeps r v1 := by unfold v1; apply modDun_keeps; exact h
      clear_value v1; refine KeepsP.mk ?_; apply raiseEvent_keeps; exact hv1
    · intro k2; refine KeepsP.mk ?_; exact h

theorem modPause_keeps {r : State} (s : State) (id : Nat) (f : Pause → Pause) (h : Keeps r s) : Keeps r (modPause s
    id f) := by
  rw [show @modPause = _ from by delta modPause; exact rfl]; apply modDun_keeps; exact h

theorem freePauses_keeps {r : State} (s : State) (h : Keeps r s) : Keeps r (freePauses s) := by
  rw [show @freePauses = _ from by delta freePauses; exact rfl]; apply modDun_keeps; exact h

theorem logDecision_keeps {r : State} (s : State) (selector : Nat) (b : List Byte) (h : Keeps r s) : Keeps r
    (logDecision s selector b) := by
  rw [show @logDecision = _ from by delta logDecision; exact rfl]; refine Keeps.ite ?_ ?_
  · apply appendLog_keeps; exact h
  · intro k0; exact h

theorem openFetch_keeps {r : State} (s : State) (e : Nat) (h : Keeps r s) : Keeps r (openFetch s e) := by
  rw [show @openFetch = _ from by delta openFetch; exact rfl]; split
  · extract_lets +onlyGivenNames -underBinder v0; clear_value v0; refine Keeps.ite ?_ ?_
    · have k3 := takeFree_keeps s h; revert k3; rcases takeFree s with ⟨a, t⟩; intro k3
      apply sendOpen_keeps; apply addCtx_keeps; exact takeFree_keeps t k3
    · intro k2; exact h
  · exact h

theorem modFetch_keeps {r : State} (s : State) (i : Nat) (f : Fetch → Fetch) (h : Keeps r s) : Keeps r (modFetch s i
    f) := by
  rw [show @modFetch = _ from by delta modFetch; exact rfl]; apply modNet_keeps; exact h

theorem sendFetch_keeps {r : State} (s : State) (f : Fetch) (h : Keeps r s) : Keeps r (sendFetch s f) := by
  rw [show @sendFetch = _ from by delta sendFetch; exact rfl]; extract_lets +onlyGivenNames -underBinder v0 v1 v2 v3
  have hv0 : Keeps r v0 := by unfold v0; apply openFetch_keeps; exact h
  clear_value v0; clear_value v1
  have hv2 : Keeps r v2 := by unfold v2; apply modNet_keeps; exact hv0
  clear_value v2
  have hv3 : Keeps r v3 := by unfold v3; apply modFetch_keeps; exact hv2
  clear_value v3; split
  · apply sendMessage_keeps; exact hv3
  · exact hv3

theorem fillFetches_keeps {r : State} (s : State) (h : Keeps r s) : Keeps r (fillFetches s) := by
  rw [show @fillFetches = _ from by delta fillFetches; exact rfl]; extract_lets +onlyGivenNames -underBinder v0 v1
  clear_value v0; clear_value v1; refine Keeps.foldl ?_ ?_
  · intro x2 x3 k4; apply sendFetch_keeps; exact k4
  · exact h

theorem startFetches_keeps {r : State} (s : State) (step : Nat) (h : Keeps r s) : Keeps r (startFetches s step) :=
    by
  rw [show @startFetches = _ from by delta startFetches; exact rfl]; extract_lets +onlyGivenNames -underBinder v0
  clear_value v0; apply fillFetches_keeps; apply modNet_keeps; exact h

theorem retryFetch_keeps {r : State} (s : State) (f : Fetch) (code : Nat) (h : Keeps r s) : Keeps r (retryFetch s f
    code) := by
  rw [show @retryFetch = _ from by delta retryFetch; exact rfl]; extract_lets +onlyGivenNames -underBinder v0 v1 v2
  clear_value v0; clear_value v1
  have hv2 : Keeps r v2 := by unfold v2; apply modFetch_keeps; apply bump_keeps; exact h
  clear_value v2; apply sendFetch_keeps; exact hv2

theorem replayMismatch_keeps {r : State} (s : State) (h : Keeps r s) : Keeps r (replayMismatch s) := by
  rw [show @replayMismatch = _ from by delta replayMismatch; exact rfl]; apply reportFault_keeps; apply bump_keeps
  exact h

theorem shardDone_keeps {r : State} (s : State) (f : Fetch) (seed crc : Nat) (h : Keeps r s) : Keeps r (shardDone s
    f seed crc) := by
  rw [show @shardDone = _ from by delta shardDone; exact rfl]
  extract_lets +onlyGivenNames -underBinder v0 v1 v2 v3 v4; clear_value v0; clear_value v1
  have hv2 : Keeps r v2 := by unfold v2; apply modFetch_keeps; exact h
  clear_value v2
  have hv3 : Keeps r v3 := by
    unfold v3; split
    · refine Keeps.ite ?_ ?_
      · apply replayMismatch_keeps; exact hv2
      · intro k5; exact hv2
    · apply appendLog_keeps; exact hv2
  clear_value v3
  have hv4 : Keeps r v4 := by unfold v4; apply modNet_keeps; exact hv3
  clear_value v4; refine Keeps.ite ?_ ?_
  · apply fillFetches_keeps; exact hv4
  · intro k6; apply startFetches_keeps; exact hv4

theorem takeMessage_keeps {r : State} (s : State) (p : InMsg → Bool) (h : Keeps r s) : KeepsOpt r (takeMessage s p)
    := by
  rw [show @takeMessage = _ from by delta takeMessage; exact rfl]; split
  · exact KeepsOpt.none
  · refine KeepsOpt.map ?_; intro x0; dsimp only; apply modNet_keeps; exact h

theorem execFetchResponse_keeps {r : State} (s : State) (h : Keeps r s) : KeepsOut r (execFetchResponse s) := by
  rw [show @execFetchResponse = _ from by delta execFetchResponse; exact rfl]; split
  · refine KeepsOut.next ?_; exact h
  · split
    · refine KeepsOut.next ?_; refine Keeps.of_opt ?_ (by assumption); apply takeMessage_keeps; exact h
    · extract_lets +onlyGivenNames -underBinder v0 v1; clear_value v0; clear_value v1; split
      · refine KeepsOut.next ?_; apply retryFetch_keeps; refine Keeps.of_opt ?_ (by assumption)
        apply takeMessage_keeps; exact h
      · split
        · refine KeepsOut.next ?_; apply retryFetch_keeps; refine Keeps.of_opt ?_ (by assumption)
          apply takeMessage_keeps; exact h
        · split
          · refine KeepsOut.next ?_; apply retryFetch_keeps; apply bump_keeps
            refine Keeps.of_opt ?_ (by assumption); apply takeMessage_keeps; exact h
          · refine KeepsOut.next ?_; apply shardDone_keeps; refine Keeps.of_opt ?_ (by assumption)
            apply takeMessage_keeps; exact h

theorem execFetchTimeout_keeps {r : State} (entry : Nat) (late : Bool) (s : State) (h : Keeps r s) : KeepsOut r
    (execFetchTimeout entry late s) := by
  rw [show @execFetchTimeout = _ from by delta execFetchTimeout; exact rfl]; split
  · refine KeepsOut.next ?_; exact h
  · extract_lets +onlyGivenNames -underBinder v0; clear_value v0; split
    · refine KeepsOut.next ?_; exact h
    · split
      · refine KeepsOut.next ?_; apply lateAccept_keeps; exact h
      · refine KeepsOut.next ?_; apply retryFetch_keeps; exact h

theorem admitRequest_keeps {r : State} (s : State) (op : Nat → Bool) (h : Keeps r s) : Keeps r (admitRequest s op)
    := by
  rw [show @admitRequest = _ from by delta admitRequest; exact rfl]; refine Keeps.ite ?_ ?_
  · split
    · exact h
    · apply modNet_keeps
      refine Keeps.of_opt ?_ (by assumption); apply takeMessage_keeps; exact h
  · intro k1; exact h

theorem sweepRequests_keeps {r : State} (s : State) (h : Keeps r s) : Keeps r (sweepRequests s) := by
  rw [show @sweepRequests = _ from by delta sweepRequests; exact rfl]; refine Keeps.ite ?_ ?_
  · extract_lets +onlyGivenNames -underBinder v0; clear_value v0; apply modNet_keeps; exact h
  · intro k1; exact h

theorem execServingRequestAdmit_keeps {r : State} (s : State) (h : Keeps r s) : KeepsOut r (execServingRequestAdmit
    s) := by
  rw [show @execServingRequestAdmit = _ from by delta execServingRequestAdmit; exact rfl]; refine KeepsOut.next ?_
  apply admitRequest_keeps; exact h

theorem execServingRequestFork_keeps {r : State} (s : State) (h : Keeps r s) : KeepsOut r (execServingRequestFork s)
    := by
  rw [show @execServingRequestFork = _ from by delta execServingRequestFork; exact rfl]; refine KeepsOut.next ?_
  apply admitRequest_keeps; exact h

theorem execServingRequestRetire_keeps {r : State} (s : State) (h : Keeps r s) : KeepsOut r
    (execServingRequestRetire s) := by
  rw [show @execServingRequestRetire = _ from by delta execServingRequestRetire; exact rfl]; refine KeepsOut.next ?_
  apply admitRequest_keeps; exact h

theorem serveOne_keeps {r : State} (acc : State × List Nat) (q : ServeReq) (h : KeepsP r acc) : KeepsP r
    (serveOne acc q) := by
  rw [show @serveOne = _ from by delta serveOne; exact rfl]; split; extract_lets +onlyGivenNames -underBinder v0 v1 v2
  clear_value v0; clear_value v1; clear_value v2; split
  · refine KeepsP.mk ?_; apply modNet_keeps; exact Keeps.of_mk (by assumption)
  · refine KeepsP.ite ?_ ?_
    · extract_lets +onlyGivenNames -underBinder v3 v4; clear_value v3
      have hv4 : Keeps r v4 := by
        unfold v4; apply writeBytes_keeps; refine Keeps.of_excP ?_ (by assumption); refine KeepsExcP.elim ?_ ?_
        · exact KeepsExcP.error
        · intro x5; apply applyEdit_keeps; exact Keeps.of_mk (by assumption)
      clear_value v4; refine KeepsP.mk ?_; apply modNet_keeps; exact hv4
    · intro k6; refine KeepsP.mk ?_; apply modNet_keeps; refine Keeps.of_excP ?_ (by assumption)
      refine KeepsExcP.elim ?_ ?_
      · exact KeepsExcP.error
      · intro x7; apply applyEdit_keeps; exact Keeps.of_mk (by assumption)

theorem retireCapped_keeps {r : State} (s : State) (h : Keeps r s) : KeepsP r (retireCapped s) := by
  rw [show @retireCapped = _ from by delta retireCapped; exact rfl]; extract_lets +onlyGivenNames -underBinder v0 v1
  clear_value v0
  have hv1 : Keeps r v1 := by unfold v1; apply modNet_keeps; exact h
  clear_value v1; refine KeepsP.foldl ?_ ?_
  · intro x2 x3 k4; extract_lets +onlyGivenNames -underBinder v5
    have hv5 : KeepsP r v5 := by unfold v5; apply retireSeq_keeps; refine KeepsP.fst ?_; exact k4
    clear_value v5; refine KeepsP.mk ?_; refine KeepsP.fst ?_; exact hv5
  · refine KeepsP.mk ?_; exact hv1

end Sys2Proof.Machine
end

