-- ==== Sys2Proof/Laws/Modes.lean ====
section
/-!
SUPPORT. Which operations leave the device state and the job mode as they are: `Modes r s` says that s has those of r.
-/
namespace Sys2Proof.Machine

/-- The device state and the job mode of s are those of r. -/
structure Modes (r s : State) : Prop where
  dev : s.dev = r.dev
  mode : s.mode = r.mode

theorem Modes.refl (s : State) : Modes s s := ⟨rfl, rfl⟩

/-- A record update of fields other than the device state and the job mode. -/
theorem Modes.mk_iff {r x : State} {pending : List Instr} {clk : Nat} {part : Part} {fresh : Nat}
    {regs : List (Nat × Nat)} {mem : Mem} {cores : Vector CoreState 128} {num : NumState} {kv : KvState} {job : JobState}
    {dunrel : DunrelState} {ras : RasState} {net : NetState} {recov : RecovState} {power : PowerState}
    {sent : List OutMsg} {egress : EgressState} :
    Modes r ⟨pending, clk, part, x.dev, x.mode, fresh, regs, mem, cores, num, kv, job, dunrel, ras, net, recov, power,
      sent, egress⟩ ↔ Modes r x := ⟨fun h => ⟨h.dev, h.mode⟩, fun h => ⟨h.dev, h.mode⟩⟩

theorem Modes.ite {r a b : State} {c : Prop} [Decidable c] (k : Modes r b) (h : Modes r b → Modes r a) :
    Modes r (if c then a else b) := by
  split
  · exact h k
  · exact k

theorem Modes.foldl {α : Type} {r s : State} {f : State → α → State} {l : List α}
    (hf : ∀ t x, Modes r t → Modes r (f t x)) (h : Modes r s) : Modes r (l.foldl f s) := by
  induction l generalizing s with
  | nil => exact h
  | cons x l ih => exact ih (hf s x h)

/-- The same of a state with a value beside it. -/
def ModesP {β : Type} (r : State) (p : State × β) : Prop := Modes r p.1

theorem ModesP.mk {β : Type} {r a : State} {b : β} (h : Modes r a) : ModesP r (a, b) := h

theorem ModesP.fst {β : Type} {r : State} {p : State × β} (h : ModesP r p) : Modes r p.1 := h

theorem ModesP.ite {β : Type} {r : State} {a b : State × β} {c : Prop} [Decidable c] (k : ModesP r b)
    (h : ModesP r b → ModesP r a) : ModesP r (if c then a else b) := by
  split
  · exact h k
  · exact k

theorem ModesP.foldl {α β : Type} {r : State} {p : State × β} {f : State × β → α → State × β} {l : List α}
    (hf : ∀ q x, ModesP r q → ModesP r (f q x)) (h : ModesP r p) : ModesP r (l.foldl f p) := by
  induction l generalizing p with
  | nil => exact h
  | cons x l ih => exact ih (hf p x h)

theorem Modes.of_mk {β : Type} {r a : State} {b : β} (h : ModesP r (a, b)) : Modes r a := h

theorem Modes.of_pair {β : Type} {r a : State} {b : β} {p : State × β} (h : ModesP r p) (e : p = (a, b)) :
    Modes r a := by subst e; exact h

/-- An optional state, framed when there is one. -/
def ModesOpt {β : Type} (r : State) (o : Option (β × State)) : Prop := ∀ b t, o = some (b, t) → Modes r t

theorem Modes.of_opt {β : Type} {r t : State} {b : β} {o : Option (β × State)} (h : ModesOpt r o)
    (e : o = some (b, t)) : Modes r t := h b t e

theorem ModesOpt.none {β : Type} {r : State} : ModesOpt (β := β) r none := fun _ _ e => nomatch e

theorem ModesOpt.some {β : Type} {r t : State} {b : β} (h : Modes r t) : ModesOpt r (some (b, t)) := by
  intro _ _ e; cases e; exact h

theorem ModesOpt.map {α β : Type} {r : State} {o : Option α} {f : α → β × State} (h : ∀ a, Modes r (f a).2) :
    ModesOpt r (o.map f) := by
  cases o with
  | none => exact ModesOpt.none
  | some a =>
    intro b t e
    have e : f a = (b, t) := Option.some.inj e
    have k := h a
    rw [e] at k
    exact k

theorem ModesOpt.mapS {α β : Type} {r : State} {o : Option (α × State)} {f : α × State → β × State}
    (ho : ModesOpt r o) (h : ∀ a, Modes r a.2 → Modes r (f a).2) : ModesOpt r (o.map f) := by
  cases o with
  | none => exact ModesOpt.none
  | some a =>
    intro b t e
    have e : f a = (b, t) := Option.some.inj e
    have k := h a (ho a.1 a.2 rfl)
    rw [e] at k
    exact k

theorem setReg_modes {r : State} (s : State) (k v : Nat) (h : Modes r s) : Modes r (setReg s k v) := Modes.mk_iff.mpr h

theorem bump_modes {r : State} (s : State) (k n : Nat) (h : Modes r s) : Modes r (bump s k n) := by
  rw [show @bump = _ from by delta bump; exact rfl]; apply setReg_modes; exact h

theorem modCore_modes {r : State} (s : State) (l : Core) (f : CoreState → CoreState) (h : Modes r s) : Modes r
    (modCore s l f) := by
  rw [show @modCore = _ from by delta modCore; exact rfl]; refine Modes.mk_iff.mpr ?_; exact h

theorem modSess_modes {r : State} (s : State) (i : Sess) (f : Session → Session) (h : Modes r s) : Modes r
    (modSess s i f) := by
  rw [show @modSess = _ from by delta modSess; exact rfl]; refine Modes.mk_iff.mpr ?_; exact h

theorem send_modes {r : State} (s : State) (m : OutMsg) (h : Modes r s) : Modes r (send s m) := ⟨h.dev, h.mode⟩

theorem deliver_modes {r : State} (s : State) (i : Sess) (code : Nat) (body : List Byte) (h : Modes r s) : Modes r
    (deliver s i code body) := by
  rw [show @deliver = _ from by delta deliver; exact rfl]; split
  · exact h
  · refine Modes.ite ?_ ?_
    · extract_lets +onlyGivenNames -underBinder v0 v1; clear_value v0
      have hv1 : Modes r v1 := by unfold v1; apply modSess_modes; exact h
      clear_value v1; apply send_modes; exact hv1
    · intro k2; apply bump_modes; apply modSess_modes; exact h

theorem raiseEvent_modes {r : State} (s : State) (code : Nat) (body : List Byte) (h : Modes r s) : Modes r
    (raiseEvent s code body) := by
  rw [show @raiseEvent = _ from by delta raiseEvent; exact rfl]; refine Modes.foldl ?_ ?_
  · intro x0 x1 k2; split
    · refine Modes.ite ?_ ?_
      · exact k2
      · intro k3; apply deliver_modes; exact k2
    · exact k2
  · exact h

theorem recTo_modes {r : State} (s : State) (rank : Nat) (m : RecMsg) (h : Modes r s) : Modes r (recTo s rank m) := by
  rw [show @recTo = _ from by delta recTo; exact rfl]; refine Modes.ite ?_ ?_
  · apply send_modes; exact h
  · intro k0; refine Modes.mk_iff.mpr ?_; exact h

theorem reportFault_modes {r : State} (s : State) (code outcome addr err die unit : Nat) (h : Modes r s) : Modes r
    (reportFault s code outcome addr err die unit) := by
  rw [show @reportFault = _ from by delta reportFault; exact rfl]
  extract_lets +onlyGivenNames -underBinder v0 v1 v2 v3 v4 v5; clear_value v0; clear_value v1
  have hv2 : Modes r v2 := by unfold v2; apply setReg_modes; exact h
  clear_value v2
  have hv3 : Modes r v3 := by unfold v3; apply setReg_modes; exact hv2
  clear_value v3
  have hv4 : Modes r v4 := by unfold v4; apply bump_modes; exact hv3
  clear_value v4
  have hv5 : Modes r v5 := by unfold v5; apply raiseEvent_modes; exact hv4
  clear_value v5; refine Modes.ite ?_ ?_
  · extract_lets +onlyGivenNames -underBinder v6 v7 v8; clear_value v6; clear_value v7; clear_value v8
    refine Modes.ite ?_ ?_
    · apply recTo_modes; apply recTo_modes; exact hv5
    · intro k9; apply recTo_modes; exact hv5
  · intro k10; exact hv5

theorem setRegBytes_modes {r : State} (s : State) (k : Nat) (b : List Byte) (h : Modes r s) : Modes r
    (setRegBytes s k b) := by
  rw [show @setRegBytes = _ from by delta setRegBytes; exact rfl]; apply setReg_modes; exact h

theorem needStore_modes {r : State} (s : State) (h : Modes r s) : Modes r (needStore s) := by
  rw [show @needStore = _ from by delta needStore; exact rfl]; refine Modes.mk_iff.mpr ?_; exact h

theorem bindCore_modes {r : State} (s : State) (l : Core) (q : Nat) (h : Modes r s) : Modes r (bindCore s l q) := by
  rw [show @bindCore = _ from by delta bindCore; exact rfl]; apply setReg_modes; apply setReg_modes; exact h

theorem modNet_modes {r : State} (s : State) (f : NetState → NetState) (h : Modes r s) : Modes r (modNet s f) := by
  rw [show @modNet = _ from by delta modNet; exact rfl]; refine Modes.mk_iff.mpr ?_; exact h

theorem countCtxs_modes {r : State} (s : State) (h : Modes r s) : Modes r (countCtxs s) := by
  rw [show @countCtxs = _ from by delta countCtxs; exact rfl]; apply setReg_modes; exact h

theorem putStatus_modes {r : State} (s : State) (rank path bit : Nat) (v : Bool) (h : Modes r s) : Modes r
    (putStatus s rank path bit v) := by
  rw [show @putStatus = _ from by delta putStatus; exact rfl]; extract_lets +onlyGivenNames -underBinder v0 v1 v2
  clear_value v0; clear_value v1; clear_value v2; apply setReg_modes; exact h

theorem newEpoch_modes {r : State} (s : State) (e : Nat) (h : Modes r s) : Modes r (newEpoch s e) := by
  rw [show @newEpoch = _ from by delta newEpoch; exact rfl]; extract_lets +onlyGivenNames -underBinder v0 v1 v2 v3
  have hv0 : Modes r v0 := by unfold v0; apply setReg_modes; exact h
  clear_value v0
  have hv1 : Modes r v1 := by unfold v1; apply modNet_modes; exact hv0
  clear_value v1; clear_value v2
  have hv3 : Modes r v3 := by unfold v3; refine Modes.mk_iff.mpr ?_; exact hv1
  clear_value v3; extract_lets +onlyGivenNames -underBinder v4; clear_value v4; apply countCtxs_modes
  refine Modes.foldl ?_ ?_
  · intro x5 x6 k7; extract_lets +onlyGivenNames -underBinder v8; clear_value v8; apply putStatus_modes
    apply putStatus_modes; exact k7
  · exact hv3

theorem modRec_modes {r : State} (s : State) (f : RecovState → RecovState) (h : Modes r s) : Modes r (modRec s f) :=
    by
  rw [show @modRec = _ from by delta modRec; exact rfl]; refine Modes.mk_iff.mpr ?_; exact h

theorem markReplay_modes {r : State} (s : State) (g : Nat) (h : Modes r s) : Modes r (markReplay s g) := by
  rw [show @markReplay = _ from by delta markReplay; exact rfl]; apply modRec_modes; exact h

theorem modDun_modes {r : State} (s : State) (f : DunrelState → DunrelState) (h : Modes r s) : Modes r (modDun s f)
    := by
  rw [show @modDun = _ from by delta modDun; exact rfl]; refine Modes.mk_iff.mpr ?_; exact h

theorem takeMessage_modes {r : State} (s : State) (p : InMsg → Bool) (h : Modes r s) : ModesOpt r (takeMessage s p)
    := by
  rw [show @takeMessage = _ from by delta takeMessage; exact rfl]; split
  · exact ModesOpt.none
  · refine ModesOpt.map ?_; intro x0; dsimp only; apply modNet_modes; exact h

theorem clearElems_modes {r : State} (s : State) (k n : Nat) (h : Modes r s) : Modes r (clearElems s k n) := by
  rw [show @clearElems = _ from by delta clearElems; exact rfl]; exact Modes.mk_iff.mpr h

theorem clearCore_modes {r : State} (s : State) (l : Core) (h : Modes r s) : Modes r (clearCore s l) := by
  rw [show @clearCore = _ from by delta clearCore; exact rfl]; extract_lets +onlyGivenNames -underBinder v0
  clear_value v0; apply modCore_modes; exact h

theorem dropMaps_modes {r : State} (s : State) (h : Modes r s) : Modes r (dropMaps s) := by
  rw [show @dropMaps = _ from by delta dropMaps; exact rfl]; refine Modes.foldl ?_ h
  intro x0 x1 k2; apply modCore_modes; exact k2

theorem clearWork_modes {r : State} (s : State) (h : Modes r s) : Modes r (clearWork s) := by
  rw [show @clearWork = _ from by delta clearWork; exact rfl]; extract_lets +onlyGivenNames -underBinder v0 v1
  have hv0 : Modes r v0 := by
    unfold v0; refine Modes.foldl ?_ ?_
    · intro x2 x3 k4; apply clearCore_modes; exact k4
    · exact h
  clear_value v0; clear_value v1; extract_lets +onlyGivenNames -underBinder v5; clear_value v5
  extract_lets +onlyGivenNames -underBinder v6
  have hv6 : Modes r v6 := by unfold v6; refine Modes.mk_iff.mpr ?_; exact hv0
  clear_value v6; apply modNet_modes; exact hv6

theorem modPower_modes {r : State} (s : State) (f : PowerState → PowerState) (h : Modes r s) : Modes r
    (modPower s f) := by
  rw [show @modPower = _ from by delta modPower; exact rfl]; refine Modes.mk_iff.mpr ?_; exact h

theorem putCopy_modes {r : State} (s : State) (b : Bool) (c : Option StoreCopy) (h : Modes r s) : Modes r
    (putCopy s b c) := by
  rw [show @putCopy = _ from by delta putCopy; exact rfl]; apply modPower_modes; exact h

theorem beginStore_modes {r : State} (s : State) (h : Modes r s) : Modes r (beginStore s) := by
  rw [show @beginStore = _ from by delta beginStore; exact rfl]; split
  extract_lets +onlyGivenNames -underBinder v0 v1; clear_value v0
  have hv1 : Modes r v1 := by unfold v1; apply modPower_modes; apply putCopy_modes; exact h
  clear_value v1; apply modRec_modes; exact hv1

theorem setBank_modes {r : State} (s : State) (b state select : Nat) (h : Modes r s) : Modes r
    (setBank s b state select) := by
  rw [show @setBank = _ from by delta setBank; exact rfl]; apply setRegBytes_modes; exact h

theorem restoreStore_modes {r : State} (s : State) (h : Modes r s) : Modes r (restoreStore s) := by
  rw [show @restoreStore = _ from by delta restoreStore; exact rfl]
  extract_lets +onlyGivenNames -underBinder v0 v1 v2 v3; clear_value v0; clear_value v1; clear_value v2
  clear_value v3; split
  · extract_lets +onlyGivenNames -underBinder v4
    have hv4 : Modes r v4 := by unfold v4; apply setReg_modes; apply setReg_modes; exact h
    clear_value v4; apply putCopy_modes; exact hv4
  · extract_lets +onlyGivenNames -underBinder v5 v6 v7; clear_value v5
    have hv6 : Modes r v6 := by
      unfold v6; refine Modes.foldl ?_ ?_
      · intro x8 x9 k10; apply setReg_modes; exact k10
      · exact h
    clear_value v6
    have hv7 : Modes r v7 := by unfold v7; apply setReg_modes; exact hv6
    clear_value v7; refine Modes.ite ?_ ?_
    · extract_lets +onlyGivenNames -underBinder v11
      have hv11 : Modes r v11 := by unfold v11; apply putCopy_modes; exact hv7
      clear_value v11; apply setReg_modes; apply setReg_modes; exact hv11
    · intro k12; apply setReg_modes; apply setReg_modes; exact hv7

theorem recordOf_modes {r : State} (s : State) (b state select : Nat) (h : Modes r s) : Modes r
    (recordOf s b state select) := by
  rw [show @recordOf = _ from by delta recordOf; exact rfl]; split
  · apply setBank_modes; exact h
  · extract_lets +onlyGivenNames -underBinder v0; clear_value v0; apply setRegBytes_modes; exact h

theorem runBank_modes {r : State} (s : State) (b : Nat) (h : Modes r s) : Modes r (runBank s b) := by
  rw [show @runBank = _ from by delta runBank; exact rfl]; extract_lets +onlyGivenNames -underBinder v0
  have hv0 : Modes r v0 := by unfold v0; apply setReg_modes; apply recordOf_modes; exact h
  clear_value v0; split
  · exact hv0
  · apply setReg_modes; apply setReg_modes; exact hv0

theorem measure_modes {r : State} (s : State) (cause : Nat) (h : Modes r s) : ModesP r (measure s cause) := by
  rw [show @measure = _ from by delta measure; exact rfl]; extract_lets +onlyGivenNames -underBinder v0 v1
  clear_value v0; clear_value v1; split; extract_lets +onlyGivenNames -underBinder v2
  have hv2 : ∀ a3 a4 a5, Modes r a3 → Modes r (v2 a3 a4 a5) := by
    intro x6 x7 x8 k9; unfold v2; extract_lets +onlyGivenNames -underBinder v10; clear_value v10; apply setReg_modes
    apply setReg_modes; exact k9
  clear_value v2; refine ModesP.ite ?_ ?_
  · extract_lets +onlyGivenNames -underBinder v11
    have hv11 : Modes r v11 := by unfold v11; apply setBank_modes; exact h
    clear_value v11; split; refine ModesP.ite ?_ ?_
    · refine ModesP.mk ?_; apply hv2; apply setBank_modes; exact hv11
    · intro k12; refine ModesP.mk ?_; apply hv2; apply runBank_modes; exact hv11
  · intro k13; refine ModesP.mk ?_; apply hv2; apply runBank_modes; exact h

theorem dropLane_modes {r : State} (s : State) (d i : Nat) (h : Modes r s) : Modes r (dropLane s d i) := by
  rw [show @dropLane = _ from by delta dropLane; exact rfl]; extract_lets +onlyGivenNames -underBinder v0
  clear_value v0; refine Modes.ite ?_ ?_
  · apply setReg_modes; apply setReg_modes; exact h
  · intro k1; exact h

theorem rebuildMap_modes {r : State} (s : State) (h : Modes r s) : ModesP r (rebuildMap s) := by
  rw [show @rebuildMap = _ from by delta rebuildMap; exact rfl]; extract_lets +onlyGivenNames -underBinder v0 v1 v2
  clear_value v0
  have hv1 : Modes r v1 := by unfold v1; apply clearElems_modes; exact h
  clear_value v1
  have hv2 : Modes r v2 := by
    unfold v2; refine Modes.foldl ?_ ?_
    · intro x3 x4 k5; refine Modes.ite ?_ ?_
      · apply setReg_modes; exact k5
      · intro k6; exact k5
    · exact hv1
  clear_value v2; refine ModesP.foldl ?_ ?_
  · intro x7 x8 k9; refine ModesP.foldl ?_ ?_
    · intro x10 x11 k12; split
      · refine ModesP.mk ?_; apply bindCore_modes; refine ModesP.fst ?_; exact k12
      · refine ModesP.mk ?_; refine ModesP.fst ?_; exact k12
    · exact k9
  · refine ModesP.mk ?_; exact hv2

theorem startTests_modes {r : State} (s : State) (x : StartRun) (h : Modes r s) : ModesP r (startTests s x) := by
  rw [show @startTests = _ from by delta startTests; exact rfl]; extract_lets +onlyGivenNames -underBinder v0 v1 v2 v3
  have hv0 : Modes r v0 := by
    unfold v0; refine Modes.foldl ?_ ?_
    · intro x4 x5 k6; apply setReg_modes; exact k6
    · exact h
  clear_value v0
  have hv1 : Modes r v1 := by
    unfold v1; refine Modes.foldl ?_ ?_
    · intro x7 x8 k9; apply setReg_modes; exact k9
    · exact hv0
  clear_value v1
  have hv2 : Modes r v2 := by
    unfold v2; refine Modes.foldl ?_ ?_
    · intro x10 x11 k12; apply setReg_modes; exact k12
    · exact hv1
  clear_value v2
  have hv3 : Modes r v3 := by
    unfold v3; refine Modes.foldl ?_ ?_
    · intro x13 x14 k15; apply dropLane_modes; exact k15
    · exact hv2
  clear_value v3; apply rebuildMap_modes; exact hv3

theorem retireAtStart_modes {r : State} (s : State) (c : Nat) (h : Modes r s) : Modes r (retireAtStart s c) := by
  rw [show @retireAtStart = _ from by delta retireAtStart; exact rfl]; refine Modes.ite ?_ ?_
  · apply setReg_modes; exact h
  · intro k0; exact h

theorem endStore_modes {r : State} (s : State) (h : Modes r s) : Modes r (endStore s) := by
  rw [show @endStore = _ from by delta endStore; exact rfl]; split
  · exact h
  · apply setReg_modes; apply modPower_modes; apply putCopy_modes; exact h

theorem takeRec_modes {r : State} (s : State) (op : Nat) (h : Modes r s) : ModesOpt r (takeRec s op) := by
  rw [show @takeRec = _ from by delta takeRec; exact rfl]; refine ModesOpt.mapS ?_ ?_
  · apply takeMessage_modes; exact h
  · intro x0 k1; exact k1

theorem forwardDown_modes {r : State} (s : State) (m : RecMsg) (h : Modes r s) : Modes r (forwardDown s m) := by
  rw [show @forwardDown = _ from by delta forwardDown; exact rfl]; extract_lets +onlyGivenNames -underBinder v0 v1
  clear_value v0; clear_value v1; refine Modes.ite ?_ ?_
  · extract_lets +onlyGivenNames -underBinder v2; clear_value v2; refine Modes.foldl ?_ ?_
    · intro x3 x4 k5; apply recTo_modes; exact k5
    · exact h
  · intro k6; exact h

theorem sleepLoss_modes {r : State} (s : State) (h : Modes r s) : Modes r (sleepLoss s) := by
  rw [show @sleepLoss = _ from by delta sleepLoss; exact rfl]
  refine setReg_modes _ _ _ (setReg_modes _ _ _ (Modes.foldl (fun t x k => modCore_modes _ _ _ k) ?_))
  exact Modes.mk_iff.mpr h

end Sys2Proof.Machine
end

