-- ==== Sys2Proof/Laws/KeepsJob.lean ====
section
/-!
SUPPORT. That images, steps, starts, Ligger, Dunrel and the boundary keep what `Keeps` says.
-/
namespace Sys2Proof.Machine

theorem setElems_keeps {r : State} (s : State) (k : Nat) (l : List Nat) (h : Keeps r s) : Keeps r (setElems s k l)
    := by
  rw [show @setElems = _ from by delta setElems; exact rfl]; refine Keeps.foldl ?_ ?_
  · intro x0 x1 k2; split; apply setReg_keeps; exact k2
  · exact h

theorem clearElems_keeps {r : State} (s : State) (k n : Nat) (h : Keeps r s) : Keeps r (clearElems s k n) := by
  rw [show @clearElems = _ from by delta clearElems; exact rfl]; exact h.setRegs fun k => k.filter _

theorem installObjects_keeps {r : State} (s : State) (img : Image) (h : Keeps r s) : Keeps r (installObjects s img)
    := by
  rw [show @installObjects = _ from by delta installObjects; exact rfl]
  extract_lets +onlyGivenNames -underBinder v0 v1 v2 v3 v4 v5 v6 v7 v8 v9 v10 v11
  have hv0 : Keeps r v0 := by unfold v0; apply clearElems_keeps; apply clearElems_keeps; exact h
  clear_value v0
  have hv1 : Keeps r v1 := by unfold v1; apply setElems_keeps; exact hv0
  clear_value v1
  have hv2 : Keeps r v2 := by unfold v2; apply setReg_keeps; apply setReg_keeps; exact hv1
  clear_value v2
  have hv3 : Keeps r v3 := by unfold v3; apply setReg_keeps; exact hv2
  clear_value v3
  have hv4 : Keeps r v4 := by unfold v4; apply setReg_keeps; apply setReg_keeps; exact hv3
  clear_value v4
  have hv5 : Keeps r v5 := by unfold v5; apply setReg_keeps; exact hv4
  clear_value v5
  have hv6 : Keeps r v6 := by unfold v6; apply setElems_keeps; exact hv5
  clear_value v6
  have hv7 : Keeps r v7 := by unfold v7; apply setReg_keeps; exact hv6
  clear_value v7
  have hv8 : Keeps r v8 := by unfold v8; apply setElems_keeps; exact hv7
  clear_value v8
  have hv9 : Keeps r v9 := by unfold v9; apply setReg_keeps; apply setReg_keeps; exact hv8
  clear_value v9
  have hv10 : Keeps r v10 := by unfold v10; apply setReg_keeps; exact hv9
  clear_value v10
  have hv11 : Keeps r v11 := by unfold v11; apply setReg_keeps; apply setReg_keeps; exact hv10
  clear_value v11; apply setReg_keeps; exact hv11

theorem installNum_keeps {r : State} (s : State) (img : Image) (h : Keeps r s) : Keeps r (installNum s img) := by
  rw [show @installNum = _ from by delta installNum; exact rfl]; refine Keeps.mk_iff.mpr ?_; exact h

theorem installJob_keeps {r : State} (s : State) (img : Image) (h : Keeps r s) : Keeps r (installJob s img) := by
  rw [show @installJob = _ from by delta installJob; exact rfl]; refine Keeps.mk_iff.mpr ?_; exact h

theorem installNet_keeps {r : State} (s : State) (img : Image) (h : Keeps r s) : Keeps r (installNet s img) := by
  rw [show @installNet = _ from by delta installNet; exact rfl]; apply modNet_keeps; exact h

theorem installKv_keeps {r : State} (s : State) (img : Image) (h : Keeps r s) : Keeps r (installKv s img) := by
  rw [show @installKv = _ from by delta installKv; exact rfl]; refine Keeps.mk_iff.mpr ?_; exact h

theorem installRecov_keeps {r : State} (s : State) (img : Image) (h : Keeps r s) : Keeps r (installRecov s img) :=
    by
  rw [show @installRecov = _ from by delta installRecov; exact rfl]; apply modRec_keeps; exact h

theorem placeBytes_keeps {r : State} (s : State) (img : Image) (h : Keeps r s) : Keeps r (placeBytes s img) := by
  rw [show @placeBytes = _ from by delta placeBytes; exact rfl]; refine Keeps.foldl ?_ ?_
  · intro x0 x1 k2; apply writeBytes_keeps; exact k2
  · exact h

theorem dropLayers_keeps {r : State} (s : State) (n : Nat) (h : Keeps r s) : Keeps r (dropLayers s n) := by
  rw [show @dropLayers = _ from by delta dropLayers; exact rfl]; apply clearElems_keeps; apply clearElems_keeps
  exact h

theorem installCommon_keeps {r : State} (s : State) (img : Image) (h : Keeps r s) : Keeps r (installCommon s img) :=
    by
  rw [show @installCommon = _ from by delta installCommon; exact rfl]
  extract_lets +onlyGivenNames -underBinder v0 v1 v2
  have hv0 : Keeps r v0 := by unfold v0; apply dropLayers_keeps; apply installObjects_keeps; exact h
  clear_value v0
  have hv1 : Keeps r v1 := by
    unfold v1; apply placeBytes_keeps; apply installRecov_keeps; apply installKv_keeps; apply installNet_keeps
    apply installJob_keeps; apply installNum_keeps; exact hv0
  clear_value v1
  have hv2 : Keeps r v2 := by unfold v2; apply storeTrackers_keeps; exact hv1
  clear_value v2; refine Keeps.foldl ?_ ?_
  · intro x3 x4 k5; apply modCore_keeps; exact k5
  · exact hv2

theorem installContexts_keeps {r : State} (s : State) (img : Image) (h : Keeps r s) : Keeps r (installContexts s
    img) := by
  rw [show @installContexts = _ from by delta installContexts; exact rfl]; apply countCtxs_keeps; apply modNet_keeps
  exact h

theorem installRing_keeps {r : State} (s : State) (img : Image) (h : Keeps r s) : Keeps r (installRing s img) := by
  rw [show @installRing = _ from by delta installRing; exact rfl]; extract_lets +onlyGivenNames -underBinder v0
  clear_value v0; apply setReg_keeps; refine Keeps.mk_iff.mpr ?_; exact h

theorem swapRing_keeps {r : State} (s : State) (img : Image) (h : Keeps r s) : Keeps r (swapRing s img) := by
  rw [show @swapRing = _ from by delta swapRing; exact rfl]; extract_lets +onlyGivenNames -underBinder v0
  clear_value v0; refine Keeps.mk_iff.mpr ?_; exact h

theorem clearSeqs_keeps {r : State} (s : State) (h : Keeps r s) : Keeps r (clearSeqs s) := by
  rw [show @clearSeqs = _ from by delta clearSeqs; exact rfl]; extract_lets +onlyGivenNames -underBinder v0
  have hv0 : Keeps r v0 := by unfold v0; apply clearElems_keeps; exact h
  clear_value v0; split
  · exact hv0
  · refine Keeps.foldl ?_ ?_
    · intro x1 x2 k3; apply clearMem_keeps; exact k3
    · exact hv0

theorem clearKv_keeps {r : State} (s : State) (img : Image) (h : Keeps r s) : Keeps r (clearKv s img) := by
  rw [show @clearKv = _ from by delta clearKv; exact rfl]; extract_lets +onlyGivenNames -underBinder v0 v1 v2 v3
  have hv0 : Keeps r v0 := by unfold v0; apply clearSeqs_keeps; exact h
  clear_value v0
  have hv1 : Keeps r v1 := by unfold v1; apply setReg_keeps; apply setReg_keeps; exact hv0
  clear_value v1
  have hv2 : Keeps r v2 := by unfold v2; apply clearMem_keeps; exact hv1
  clear_value v2
  have hv3 : Keeps r v3 := by
    unfold v3; refine Keeps.foldl ?_ ?_
    · intro x4 x5 k6; apply writeLE_keeps; exact k6
    · exact hv2
  clear_value v3; apply countSeqs_keeps; refine Keeps.mk_iff.mpr ?_; exact hv3

theorem clearRecov_keeps {r : State} (s : State) (h : Keeps r s) : Keeps r (clearRecov s) := by
  rw [show @clearRecov = _ from by delta clearRecov; exact rfl]; extract_lets +onlyGivenNames -underBinder v0 v1 v2
  clear_value v0
  have hv1 : Keeps r v1 := by unfold v1; refine Keeps.mk_iff.mpr ?_; exact h
  clear_value v1
  have hv2 : Keeps r v2 := by unfold v2; apply setReg_keeps; apply setReg_keeps; apply setReg_keeps; exact hv1
  clear_value v2; apply setElems_keeps; exact hv2

theorem unloadImage_keeps {r : State} (s : State) (h : Keeps r s) : Keeps r (unloadImage s) := by
  rw [show @unloadImage = _ from by delta unloadImage; exact rfl]; extract_lets +onlyGivenNames -underBinder v0 v1
  have hv0 : Keeps r v0 := by
    unfold v0; apply clearElems_keeps; apply dropLayers_keeps; apply clearSeqs_keeps; exact h
  clear_value v0
  have hv1 : Keeps r v1 := by
    unfold v1; refine Keeps.foldl ?_ ?_
    · intro x2 x3 k4; apply setReg_keeps; exact k4
    · exact hv0
  clear_value v1; refine Keeps.mk_iff.mpr ?_; exact hv1

theorem installLoad_keeps {r : State} (s : State) (img : Image) (h : Keeps r s) : Keeps r (installLoad s img) := by
  rw [show @installLoad = _ from by delta installLoad; exact rfl]
  extract_lets +onlyGivenNames -underBinder v0 v1 v2 v3
  have hv0 : Keeps r v0 := by unfold v0; apply setElems_keeps; exact h
  clear_value v0
  have hv1 : Keeps r v1 := by
    unfold v1; apply dropLayers_keeps; apply clearRecov_keeps; apply installContexts_keeps; apply installRing_keeps
    apply installCommon_keeps; exact hv0
  clear_value v1; clear_value v2
  have hv3 : Keeps r v3 := by unfold v3; refine Keeps.mk_iff.mpr ?_; exact hv1
  clear_value v3; extract_lets +onlyGivenNames -underBinder v4
  have hv4 : Keeps r v4 := by unfold v4; apply clearKv_keeps; exact hv3
  clear_value v4; apply modNet_keeps; exact hv4

theorem installSwap_keeps {r : State} (s : State) (img : Image) (h : Keeps r s) : Keeps r (installSwap s img) := by
  rw [show @installSwap = _ from by delta installSwap; exact rfl]; extract_lets +onlyGivenNames -underBinder v0
  have hv0 : Keeps r v0 := by unfold v0; apply swapRing_keeps; apply installCommon_keeps; exact h
  clear_value v0; apply countCtxs_keeps; apply modNet_keeps; exact hv0

theorem setImageErr_keeps {r : State} (s : State) (e : Nat × Nat) (h : Keeps r s) : Keeps r (setImageErr s e) := by
  rw [show @setImageErr = _ from by delta setImageErr; exact rfl]; apply setRegBytes_keeps; exact h

theorem clearCore_keeps {r : State} (s : State) (l : Core) (h : Keeps r s) : Keeps r (clearCore s l) := by
  rw [show @clearCore = _ from by delta clearCore; exact rfl]; extract_lets +onlyGivenNames -underBinder v0
  clear_value v0; apply modCore_keeps; exact h

theorem dropMaps_keeps {r : State} (s : State) (h : Keeps r s) : Keeps r (dropMaps s) := by
  rw [show @dropMaps = _ from by delta dropMaps; exact rfl]; refine Keeps.foldl ?_ ?_
  · intro x0 x1 k2; apply modCore_keeps; exact k2
  · exact h

theorem clearWork_keeps {r : State} (s : State) (h : Keeps r s) : Keeps r (clearWork s) := by
  rw [show @clearWork = _ from by delta clearWork; exact rfl]; extract_lets +onlyGivenNames -underBinder v0 v1
  have hv0 : Keeps r v0 := by
    unfold v0; refine Keeps.foldl ?_ ?_
    · intro x2 x3 k4; apply clearCore_keeps; exact k4
    · exact h
  clear_value v0; clear_value v1; extract_lets +onlyGivenNames -underBinder v5; clear_value v5
  extract_lets +onlyGivenNames -underBinder v6
  have hv6 : Keeps r v6 := by unfold v6; refine Keeps.mk_iff.mpr ?_; exact hv0
  clear_value v6; apply modNet_keeps; exact hv6

theorem beginStep_keeps {r : State} (s : State) (step : Nat) (h : Keeps r s) : Keeps r (beginStep s step) := by
  rw [show @beginStep = _ from by delta beginStep; exact rfl]; extract_lets +onlyGivenNames -underBinder v0 v1 v2
  have hv0 : Keeps r v0 := by unfold v0; apply drawSamples_keeps; exact h
  clear_value v0
  have hv1 : Keeps r v1 := by unfold v1; apply beginShifts_keeps; apply beginLayers_keeps; exact hv0
  clear_value v1
  have hv2 : Keeps r v2 := by
    unfold v2; refine Keeps.foldl ?_ ?_
    · intro x3 x4 k5; apply modCore_keeps; exact k5
    · exact hv1
  clear_value v2; refine Keeps.mk_iff.mpr ?_; exact hv2

theorem firstSeqs_keeps {r : State} (s : State) (h : Keeps r s) : Keeps r (firstSeqs s) := by
  rw [show @firstSeqs = _ from by delta firstSeqs; exact rfl]; refine Keeps.ite ?_ ?_
  · exact h
  · intro k0; apply allocAll_keeps; apply setAppends_keeps; exact k0

theorem newJobRecov_keeps {r : State} (s : State) (h : Keeps r s) : Keeps r (newJobRecov s) := by
  rw [show @newJobRecov = _ from by delta newJobRecov; exact rfl]; apply modRec_keeps; exact h

theorem startJob_keeps {r : State} (s : State) (m : JobMode) (h : Keeps r s) (hm : r.JobOk → m ≠ .idle) :
    Keeps r (startJob s m) := by
  rw [show @startJob = _ from by delta startJob; exact rfl]
  extract_lets +onlyGivenNames -underBinder v0 v1 v2 v3 v4 v5 v6 v7; clear_value v0
  have hv1 : Keeps r v1 := by unfold v1; apply clearWork_keeps; exact h
  clear_value v1; clear_value v2
  have hv3 : Keeps r v3 := by unfold v3; refine Keeps.mk_iff.mpr ?_; exact hv1
  clear_value v3
  have hv4 : Keeps r v4 := by unfold v4; apply setReg_keeps; exact hv3
  clear_value v4
  have hv5 : Keeps r v5 := setDevMode_keeps _ _ _ hv4 fun k _ => modesAgree_job (hm k) (.inl rfl)
  clear_value v5
  have hv6 : Keeps r v6 := by unfold v6; apply startPowers_keeps; apply countLog_keeps; apply newJobRecov_keeps; exact hv5
  clear_value v6
  have hv7 : Keeps r v7 := by unfold v7; apply firstSeqs_keeps; apply beginStep_keeps; exact hv6
  clear_value v7; extract_lets +onlyGivenNames -underBinder v8
  have hv8 : Keeps r v8 := by unfold v8; apply modNet_keeps; exact hv7
  clear_value v8; apply startFetches_keeps; apply appendLog_keeps; exact hv8

theorem dropJobPauses_keeps {r : State} (s : State) (h : Keeps r s) : Keeps r (dropJobPauses s) := by
  rw [show @dropJobPauses = _ from by delta dropJobPauses; exact rfl]; apply modDun_keeps; exact h

theorem leaveJob_keeps {r : State} (s : State) (h : Keeps r s) : Keeps r (leaveJob s) := by
  rw [show @leaveJob = _ from by delta leaveJob; exact rfl]; extract_lets +onlyGivenNames -underBinder v0 v1
  have hv0 : Keeps r v0 := by unfold v0; apply dropJobPauses_keeps; apply clearWork_keeps; exact h
  clear_value v0
  have hv1 : Keeps r v1 := by unfold v1; apply modRec_keeps; exact hv0
  clear_value v1; apply modNet_keeps; exact hv1

theorem endJob_keeps {r : State} (s : State) (h : Keeps r s) : Keeps r (endJob s) := by
  rw [show @endJob = _ from by delta endJob; exact rfl]; apply sendHeartbeat_keeps; apply setDevMode_keeps
  · apply leaveJob_keeps; exact h
  · intro x0 x1; trivial

theorem markHalted_keeps {r : State} (s : State) (code : Nat) (h : Keeps r s) : Keeps r (markHalted s code) := by
  rw [show @markHalted = _ from by delta markHalted; exact rfl]; extract_lets +onlyGivenNames -underBinder v0 v1
  clear_value v0; clear_value v1; refine Keeps.ite ?_ ?_
  · exact h
  · intro k2; apply setReg_keeps; exact k2

theorem haltJob_keeps {r : State} (s : State) (code : Nat) (h : Keeps r s) : Keeps r (haltJob s code) := by
  rw [show @haltJob = _ from by delta haltJob; exact rfl]; extract_lets +onlyGivenNames -underBinder v0 v1
  have hv0 : Keeps r v0 := by unfold v0; apply abortWaiting_keeps; apply markHalted_keeps; exact h
  clear_value v0
  have hv1 : Keeps r v1 := setDevMode_keeps _ _ _ (leaveJob_keeps _ hv0) fun _ _ => modesAgree_idle nofun nofun
  clear_value v1; apply raiseEvent_keeps; apply bump_keeps; exact hv1

theorem abortTxn_keeps {r : State} (s : State) (t : Txn) (h : Keeps r s) : Keeps r (abortTxn s t) := by
  rw [show @abortTxn = _ from by delta abortTxn; exact rfl]; apply bump_keeps; apply imageIdle_keeps
  apply dropTxn_keeps; exact h

theorem endSession_keeps {r : State} (s : State) (i : Sess) (h : Keeps r s) : Keeps r (endSession s i) := by
  rw [show @endSession = _ from by delta endSession; exact rfl]; split
  · exact h
  · extract_lets +onlyGivenNames -underBinder v0
    have hv0 : Keeps r v0 := by
      unfold v0; refine Keeps.foldl ?_ ?_
      · intro x1 x2 k3; apply abortTxn_keeps; exact k3
      · exact h
    clear_value v0; refine Keeps.mk_iff.mpr ?_; exact hv0

theorem endSessions_keeps {r : State} (s : State) (h : Keeps r s) : Keeps r (endSessions s) := by
  rw [show @endSessions = _ from by delta endSessions; exact rfl]; refine Keeps.foldl ?_ ?_
  · intro x0 x1 k2; apply endSession_keeps; exact k2
  · exact h

theorem modPower_keeps {r : State} (s : State) (f : PowerState → PowerState) (h : Keeps r s) : Keeps r (modPower s
    f) := by
  rw [show @modPower = _ from by delta modPower; exact rfl]; refine Keeps.mk_iff.mpr ?_; exact h

theorem putCopy_keeps {r : State} (s : State) (b : Bool) (c : Option StoreCopy) (h : Keeps r s) : Keeps r (putCopy s
    b c) := by
  rw [show @putCopy = _ from by delta putCopy; exact rfl]; apply modPower_keeps; exact h

theorem beginStore_keeps {r : State} (s : State) (h : Keeps r s) : Keeps r (beginStore s) := by
  rw [show @beginStore = _ from by delta beginStore; exact rfl]; split
  extract_lets +onlyGivenNames -underBinder v0 v1; clear_value v0
  have hv1 : Keeps r v1 := by unfold v1; apply modPower_keeps; apply putCopy_keeps; exact h
  clear_value v1; apply modRec_keeps; exact hv1

theorem endStore_keeps {r : State} (s : State) (h : Keeps r s) : Keeps r (endStore s) := by
  rw [show @endStore = _ from by delta endStore; exact rfl]; split
  · exact h
  · apply setReg_keeps; apply modPower_keeps; apply putCopy_keeps; exact h

theorem restoreStore_keeps {r : State} (s : State) (h : Keeps r s) : Keeps r (restoreStore s) := by
  rw [show @restoreStore = _ from by delta restoreStore; exact rfl]
  extract_lets +onlyGivenNames -underBinder v0 v1 v2 v3; clear_value v0; clear_value v1; clear_value v2
  clear_value v3; split
  · extract_lets +onlyGivenNames -underBinder v4
    have hv4 : Keeps r v4 := by unfold v4; apply setReg_keeps; apply setReg_keeps; exact h
    clear_value v4; apply putCopy_keeps; exact hv4
  · extract_lets +onlyGivenNames -underBinder v5 v6 v7; clear_value v5
    have hv6 : Keeps r v6 := by
      unfold v6; refine Keeps.foldl ?_ ?_
      · intro x8 x9 k10; apply setReg_keeps; exact k10
      · exact h
    clear_value v6
    have hv7 : Keeps r v7 := by unfold v7; apply setReg_keeps; exact hv6
    clear_value v7; refine Keeps.ite ?_ ?_
    · extract_lets +onlyGivenNames -underBinder v11
      have hv11 : Keeps r v11 := by unfold v11; apply putCopy_keeps; exact hv7
      clear_value v11; apply setReg_keeps; apply setReg_keeps; exact hv11
    · intro k12; apply setReg_keeps; apply setReg_keeps; exact hv7

theorem setBank_keeps {r : State} (s : State) (b state select : Nat) (h : Keeps r s) : Keeps r (setBank s b state
    select) := by
  rw [show @setBank = _ from by delta setBank; exact rfl]; apply setRegBytes_keeps; exact h

theorem recordOf_keeps {r : State} (s : State) (b state select : Nat) (h : Keeps r s) : Keeps r (recordOf s b state
    select) := by
  rw [show @recordOf = _ from by delta recordOf; exact rfl]; split
  · apply setBank_keeps; exact h
  · extract_lets +onlyGivenNames -underBinder v0; clear_value v0; apply setRegBytes_keeps; exact h

theorem runBank_keeps {r : State} (s : State) (b : Nat) (h : Keeps r s) : Keeps r (runBank s b) := by
  rw [show @runBank = _ from by delta runBank; exact rfl]; extract_lets +onlyGivenNames -underBinder v0
  have hv0 : Keeps r v0 := by unfold v0; apply setReg_keeps; apply recordOf_keeps; exact h
  clear_value v0; split
  · exact hv0
  · apply setReg_keeps; apply setReg_keeps; exact hv0

theorem measure_keeps {r : State} (s : State) (cause : Nat) (h : Keeps r s) : KeepsP r (measure s cause) := by
  rw [show @measure = _ from by delta measure; exact rfl]; extract_lets +onlyGivenNames -underBinder v0 v1
  clear_value v0; clear_value v1; split; extract_lets +onlyGivenNames -underBinder v2
  have hv2 : ∀ a0 a1 a2, Keeps r a0 → Keeps r (v2 a0 a1 a2) := by
    unfold v2; intro x3 x4 x5 k6; extract_lets +onlyGivenNames -underBinder v7; clear_value v7; apply setReg_keeps
    apply setReg_keeps; exact k6
  clear_value v2; refine KeepsP.ite ?_ ?_
  · extract_lets +onlyGivenNames -underBinder v8
    have hv8 : Keeps r v8 := by unfold v8; apply setBank_keeps; exact h
    clear_value v8; split; refine KeepsP.ite ?_ ?_
    · refine KeepsP.mk ?_; apply hv2; apply setBank_keeps; exact hv8
    · intro k9; refine KeepsP.mk ?_; apply hv2; apply runBank_keeps; exact hv8
  · intro k10; refine KeepsP.mk ?_; apply hv2; apply runBank_keeps; exact h

theorem rebuildMap_keeps {r : State} (s : State) (h : Keeps r s) : KeepsP r (rebuildMap s) := by
  rw [show @rebuildMap = _ from by delta rebuildMap; exact rfl]; extract_lets +onlyGivenNames -underBinder v0 v1 v2
  clear_value v0
  have hv1 : Keeps r v1 := by unfold v1; apply clearElems_keeps; exact h
  clear_value v1
  have hv2 : Keeps r v2 := by
    unfold v2; refine Keeps.foldl ?_ ?_
    · intro x3 x4 k5; refine Keeps.ite ?_ ?_
      · apply setReg_keeps; exact k5
      · intro k6; exact k5
    · exact hv1
  clear_value v2; refine KeepsP.foldl ?_ ?_
  · intro x7 x8 k9; refine KeepsP.foldl ?_ ?_
    · intro x10 x11 k12; split
      · refine KeepsP.mk ?_; apply bindCore_keeps; refine KeepsP.fst ?_; exact k12
      · refine KeepsP.mk ?_; refine KeepsP.fst ?_; exact k12
    · exact k9
  · refine KeepsP.mk ?_; exact hv2

theorem dropLane_keeps {r : State} (s : State) (d i : Nat) (h : Keeps r s) : Keeps r (dropLane s d i) := by
  rw [show @dropLane = _ from by delta dropLane; exact rfl]; extract_lets +onlyGivenNames -underBinder v0
  clear_value v0; refine Keeps.ite ?_ ?_
  · apply setReg_keeps; apply setReg_keeps; exact h
  · intro k1; exact h

theorem retireAtStart_keeps {r : State} (s : State) (c : Nat) (h : Keeps r s) : Keeps r (retireAtStart s c) := by
  rw [show @retireAtStart = _ from by delta retireAtStart; exact rfl]; refine Keeps.ite ?_ ?_
  · apply setReg_keeps; exact h
  · intro k0; exact h

theorem startTests_keeps {r : State} (s : State) (x : StartRun) (h : Keeps r s) : KeepsP r (startTests s x) := by
  rw [show @startTests = _ from by delta startTests; exact rfl]
  extract_lets +onlyGivenNames -underBinder v0 v1 v2 v3
  have hv0 : Keeps r v0 := by
    unfold v0; refine Keeps.foldl ?_ ?_
    · intro x4 x5 k6; apply setReg_keeps; exact k6
    · exact h
  clear_value v0
  have hv1 : Keeps r v1 := by
    unfold v1; refine Keeps.foldl ?_ ?_
    · intro x7 x8 k9; apply setReg_keeps; exact k9
    · exact hv0
  clear_value v1
  have hv2 : Keeps r v2 := by
    unfold v2; refine Keeps.foldl ?_ ?_
    · intro x10 x11 k12; apply setReg_keeps; exact k12
    · exact hv1
  clear_value v2
  have hv3 : Keeps r v3 := by
    unfold v3; refine Keeps.foldl ?_ ?_
    · intro x13 x14 k15; apply dropLane_keeps; exact k15
    · exact hv2
  clear_value v3; apply rebuildMap_keeps; exact hv3

theorem wipe_keeps {r : State} (s : State) (keep : Bool) (h : Keeps r s) : Keeps r (wipe s keep) := by
  have hm : ∀ m : Mem, (s.MemOk → Memory.wf m = true) → ∀ a b c d e f g i j n,
      Keeps r ⟨s.pending, s.clk, s.part, .off, .idle, s.fresh, flashRegs s, m, a, b, c, d, e, f, g, i, j, s.sent, n⟩ :=
    fun m hk a b c d e f g i j n => ⟨h.pending, h.part, h.clk, h.fresh, h.sent, fun k => hk (h.mem k),
      fun k => List.Pairwise.filter _ (h.regs k), fun _ => modesAgree_idle nofun nofun⟩
  rw [show @wipe = _ from by delta wipe; exact rfl]; refine hm _ (fun k => ?_) _ _ _ _ _ _ _ _ _ _; split
  · exact filter_wf _ k
  · rfl

theorem runStart_keeps {r : State} (s : State) (kind : StartKind) (x : StartRun) (h : Keeps r s) : Keeps r
    (runStart s kind x) := by
  rw [show @runStart = _ from by delta runStart; exact rfl]; extract_lets +onlyGivenNames -underBinder v0 v1 v2 v3 v4
  clear_value v0; clear_value v1
  have hv2 : Keeps r v2 := by unfold v2; apply modPower_keeps; apply wipe_keeps; exact h
  have m2 : v2.mode = .idle := rfl
  clear_value v2
  have hv3 : Keeps r v3 := by unfold v3; apply restoreStore_keeps; exact hv2
  have m3 : v3.mode = .idle := (restoreStore_modes _ (Modes.refl v2)).mode.trans m2
  clear_value v3
  have hv4 : Keeps r v4 := by unfold v4; apply setReg_keeps; apply bump_keeps; exact hv3
  have m4 : v4.mode = .idle := m3
  clear_value v4; split; rename_i u runs hu
  have hu4 : Keeps r u := by refine Keeps.of_pair ?_ hu; apply measure_keeps; exact hv4
  have mu : u.mode = .idle := by
    refine Eq.trans (Modes.mode (r := v4) ?_) m4; refine Modes.of_pair ?_ hu; apply measure_modes; exact Modes.refl _
  refine Keeps.ite ?_ ?_
  · extract_lets +onlyGivenNames -underBinder v5 v6
    have hv5 : Keeps r v5 := by unfold v5; apply modPower_keeps; exact hu4
    have m5 : v5.mode = .idle := mu
    clear_value v5
    have hv6 : Keeps r v6 := by unfold v6; apply modNet_keeps; apply setReg_keeps; exact hv5
    have m6 : v6.mode = .idle := m5
    clear_value v6; split; rename_i w homeless hw
    have hw6 : Keeps r w := by refine Keeps.of_pair ?_ hw; apply startTests_keeps; exact hv6
    have mw : w.mode = .idle := by
      refine Eq.trans (Modes.mode (r := v6) ?_) m6; refine Modes.of_pair ?_ hw; apply startTests_modes; exact Modes.refl _
    extract_lets +onlyGivenNames -underBinder v7 v8 v9 v10 v11
    have hv7 : Keeps r v7 := by
      unfold v7; refine Keeps.ite hw6 fun k12 => Keeps.foldl (fun x13 x14 k15 => ?_) k12
      apply retireAtStart_keeps; exact k15
    have m7 : v7.mode = .idle := by
      refine Eq.trans (Modes.mode (r := w) ?_) mw
      unfold v7; refine Modes.ite (Modes.refl _) fun k12 => Modes.foldl (fun x13 x14 k15 => ?_) k12
      apply retireAtStart_modes; exact k15
    clear_value v7
    have hv8 : Keeps r v8 := by unfold v8; apply setReg_keeps; exact hv7
    have m8 : v8.mode = .idle := m7
    clear_value v8
    have hv9 : Keeps r v9 := by unfold v9; apply endStore_keeps; apply beginStore_keeps; exact hv8
    have m9 : v9.mode = .idle := (endStore_modes _ (beginStore_modes _ (Modes.refl v8))).mode.trans m8
    clear_value v9
    have hv10 : ∀ a16 a17 a18 a19, Keeps r a16 → Keeps r (v10 a16 a17 a18 a19) := by
      intro x20 x21 x22 x23 k24; unfold v10; extract_lets +onlyGivenNames -underBinder v25
      have hv25 : Keeps r v25 := by unfold v25; apply reportFault_keeps; exact k24
      clear_value v25; exact hv25.setMode fun _ _ => modesAgree_faulted _
    clear_value v10
    have hv11 : Keeps r v11 := hv9.setMode (d := .ready) (m := v9.mode) fun _ _ => by rw [m9]; exact modesAgree_idle nofun nofun
    clear_value v11; split
    · apply hv10; exact hv11
    · refine Keeps.ite ?_ ?_
      · refine Keeps.ite ?_ ?_
        · apply stateEvent_keeps; apply modPower_keeps; exact hv11
        · intro k26; apply hv10; exact hv11
      · intro k27; apply hv10; exact hv11
  · intro k28; extract_lets +onlyGivenNames -underBinder v29
    have hv29 : Keeps r v29 := by unfold v29; apply modPower_keeps; exact hu4
    clear_value v29; exact hv29.setMode fun _ _ => modesAgree_faulted _

theorem beginStart_keeps {r : State} (s : State) (kind : StartKind) (x : StartRun) (h : Keeps r s) : Keeps r
    (beginStart s kind x) := by
  rw [show @beginStart = _ from by delta beginStart; exact rfl]; refine Keeps.ite ?_ ?_
  · apply runStart_keeps; exact h
  · intro k0; apply modPower_keeps; apply wipe_keeps; exact h

theorem powerOff_keeps {r : State} (s : State) (h : Keeps r s) : Keeps r (powerOff s) := by
  rw [show @powerOff = _ from by delta powerOff; exact rfl]; apply modPower_keeps; apply wipe_keeps; exact h

theorem logWrite_keeps {r : State} (s : State) (r0 : ObjRow) (e v : Nat) (h : Keeps r s) : Keeps r (logWrite s r0 e
    v) := by
  rw [show @logWrite = _ from by delta logWrite; exact rfl]; refine Keeps.ite ?_ ?_
  · exact h
  · intro k0; apply appendLog_keeps; exact k0

theorem applyLogged_keeps {r : State} (s : State) (b : List Byte) (h : Keeps r s) : Keeps r (applyLogged s b) := by
  rw [show @applyLogged = _ from by delta applyLogged; exact rfl]; split
  · exact h
  · extract_lets +onlyGivenNames -underBinder v0; clear_value v0; apply setReg_keeps; exact h

theorem writeAccess_keeps {r : State} (s : State) (e v : Nat) (h : Keeps r s) : Keeps r (writeAccess s e v) := by
  rw [show @writeAccess = _ from by delta writeAccess; exact rfl]; extract_lets +onlyGivenNames -underBinder v0 v1
  have hv0 : Keeps r v0 := by unfold v0; apply setReg_keeps; exact h
  clear_value v0; clear_value v1; refine Keeps.foldl ?_ ?_
  · intro x2 x3 k4; apply endSession_keeps; exact k4
  · exact hv0

theorem restoreDefaults_keeps {r : State} (s : State) (h : Keeps r s) : Keeps r (restoreDefaults s) := by
  rw [show @restoreDefaults = _ from by delta restoreDefaults; exact rfl]; exact h.setRegs fun k => k.filter _

theorem writeStateReq_keeps {r : State} (s : State) (v : Nat) (h : Keeps r s) : Keeps r (writeStateReq s v) := by
  rw [show @writeStateReq = _ from by delta writeStateReq; exact rfl]; refine Keeps.ite ?_ ?_
  · extract_lets +onlyGivenNames -underBinder v0; clear_value v0; apply modPower_keeps; apply setReg_keeps; exact h
  · intro k1; exact h

theorem writeFwStage_keeps {r : State} (s : State) (e : Nat) (b : List Byte) (h : Keeps r s) : Keeps r (writeFwStage
    s e b) := by
  rw [show @writeFwStage = _ from by delta writeFwStage; exact rfl]; extract_lets +onlyGivenNames -underBinder v0
  have hv0 : Keeps r v0 := by unfold v0; apply setBank_keeps; exact h
  clear_value v0; apply modPower_keeps; apply setReg_keeps; exact hv0

theorem writeFwCmd_keeps {r : State} (s : State) (v : Nat) (h : Keeps r s) : Keeps r (writeFwCmd s v) := by
  rw [show @writeFwCmd = _ from by delta writeFwCmd; exact rfl]; refine Keeps.ite ?_ ?_
  · extract_lets +onlyGivenNames -underBinder v0; clear_value v0; apply setReg_keeps; apply setBank_keeps; exact h
  · intro k1; apply setReg_keeps; exact h

theorem writeEndpoint_keeps {r : State} (s : State) (e v : Nat) (h : Keeps r s) : Keeps r (writeEndpoint s e v) :=
    by
  rw [show @writeEndpoint = _ from by delta writeEndpoint; exact rfl]
  extract_lets +onlyGivenNames -underBinder v0 v1; clear_value v0
  have hv1 : Keeps r v1 := by
    unfold v1; refine Keeps.foldl ?_ ?_
    · intro x2 x3 k4; apply closeCtx_keeps; apply send_keeps; exact k4
    · exact h
  clear_value v1; apply setReg_keeps; exact hv1

theorem writeRankEntry_keeps {r : State} (s : State) (gen e v : Nat) (h : Keeps r s) : Keeps r (writeRankEntry s gen
    e v) := by
  rw [show @writeRankEntry = _ from by delta writeRankEntry; exact rfl]
  extract_lets +onlyGivenNames -underBinder v0; clear_value v0; apply setReg_keeps; exact h

theorem redraw_keeps {r : State} (s : State) (entries : List (Nat × Nat)) (epoch : Nat) (h : Keeps r s) : Keeps r
    (redraw s entries epoch) := by
  rw [show @redraw = _ from by delta redraw; exact rfl]; extract_lets +onlyGivenNames -underBinder v0 v1
  have hv0 : Keeps r v0 := by unfold v0; apply bump_keeps; exact h
  clear_value v0
  have hv1 : Keeps r v1 := by
    unfold v1; refine Keeps.foldl ?_ ?_
    · intro x2 x3 k4; apply writeRankEntry_keeps; exact k4
    · exact hv0
  clear_value v1; apply newEpoch_keeps; exact hv1

theorem writeOwnRank_keeps {r : State} (s : State) (v : Nat) (h : Keeps r s) : Keeps r (writeOwnRank s v) := by
  rw [show @writeOwnRank = _ from by delta writeOwnRank; exact rfl]; extract_lets +onlyGivenNames -underBinder v0
  have hv0 : Keeps r v0 := by unfold v0; apply setReg_keeps; exact h
  clear_value v0; split
  · apply setReg_keeps; exact hv0
  · exact hv0

theorem writeElem_keeps {r : State} (s : State) (r0 : ObjRow) (v : StagedVal) (h : Keeps r s) : Keeps r (writeElem s
    r0 v) := by
  rw [show @writeElem = _ from by delta writeElem; exact rfl]; extract_lets +onlyGivenNames -underBinder v0 v1
  clear_value v0
  have hv1 : Keeps r v1 := by
    unfold v1; refine Keeps.ite ?_ ?_
    · exact h
    · intro k2; apply needStore_keeps; exact k2
  clear_value v1; refine Keeps.ite ?_ ?_
  · split
    · exact hv1
    · apply writeStateReq_keeps; exact hv1
    · apply needStore_keeps; apply restoreDefaults_keeps; exact hv1
    · apply writeAccess_keeps; exact hv1
    · exact hv1
    · apply writeBytes_keeps; exact hv1
    · apply writeOwnRank_keeps; exact hv1
    · apply writeEndpoint_keeps; exact hv1
    · exact hv1
    · exact hv1
    · exact hv1
    · apply writeFwStage_keeps; exact hv1
    · apply writeFwCmd_keeps; exact hv1
    · apply logWrite_keeps; apply setReg_keeps; exact hv1
  · intro k3; exact hv1

theorem writeAll_keeps {r : State} (s : State) (t : Txn) (h : Keeps r s) : Keeps r (writeAll s t) := by
  rw [show @writeAll = _ from by delta writeAll; exact rfl]; refine Keeps.foldl ?_ ?_
  · intro x0 x1 k2; split
    · exact k2
    · refine Keeps.foldl ?_ ?_
      · intro x3 x4 k5; apply writeElem_keeps; exact k5
      · exact k2
  · exact h

theorem commitEdits_keeps {r : State} (s : State) (t : Txn) (h : Keeps r s) : KeepsExc r (commitEdits s t) := by
  rw [show @commitEdits = _ from by delta commitEdits; exact rfl]; split
  · exact KeepsExc.error
  · extract_lets +onlyGivenNames -underBinder v0; clear_value v0; refine KeepsExc.ok ?_; refine Keeps.ite ?_ ?_
    · refine Keeps.of_exc ?_ (by assumption); apply applyEdits_keeps; exact h
    · intro k1; refine Keeps.foldl ?_ ?_
      · intro x2 x3 k4; apply appendLog_keeps; exact k4
      · exact k1

theorem joinJob_keeps {r : State} (s : State) (m : JobMode) (h : Keeps r s) (hm : r.JobOk → m ≠ .idle) :
    Keeps r (joinJob s m) := by
  rw [show @joinJob = _ from by delta joinJob; exact rfl]; extract_lets +onlyGivenNames -underBinder v0 v1
  have hv0 : Keeps r v0 := by unfold v0; apply dropMaps_keeps; apply clearWork_keeps; exact h
  clear_value v0
  have hv1 : Keeps r v1 := by unfold v1; apply modRec_keeps; exact hv0
  clear_value v1; exact setDevMode_keeps _ _ _ hv1 fun k _ => modesAgree_job (hm k) (.inr rfl)

theorem freeOldSlots_keeps {r : State} (s : State) (h : Keeps r s) : Keeps r (freeOldSlots s) := by
  rw [show @freeOldSlots = _ from by delta freeOldSlots; exact rfl]; refine Keeps.mk_iff.mpr ?_; exact h

theorem commitMode_keeps {r : State} (s : State) (t : Txn) (h : Keeps r s) : Keeps r (commitMode s t) := by
  rw [show @commitMode = _ from by delta commitMode; exact rfl]; split
  · exact h
  · extract_lets +onlyGivenNames -underBinder v0; clear_value v0; split
    · exact h
    · rename_i hne
      split
      · rename_i hd
        have hm : r.JobOk → v0 ≠ .idle := fun k e =>
          hne (e.trans (modesAgree.idle (h.job k) (by simp [hd]) (by simp [hd]) (by simp [hd])).symm)
        refine Keeps.ite (joinJob_keeps _ _ h hm) fun _ => startJob_keeps _ _ h hm
      · rename_i hd
        split
        · apply endJob_keeps; exact h
        · rename_i hi
          have hs : Keeps r (if v0 = .serve then freeOldSlots s else s) :=
            Keeps.ite h fun _ => freeOldSlots_keeps _ h
          refine setMode_keeps _ _ hs fun _ _ => modesAgree_job hi (.inl ?_)
          split
          · exact hd
          · exact hd
      · exact h

theorem applyTxn_keeps {r : State} (s : State) (t : Txn) (h : Keeps r s) : KeepsExc r (applyTxn s t) := by
  rw [show @applyTxn = _ from by delta applyTxn; exact rfl]; extract_lets +onlyGivenNames -underBinder v0 v1 v2
  have hv0 : Keeps r v0 := by unfold v0; apply writeAll_keeps; exact h
  clear_value v0
  have hv1 : Keeps r v1 := by
    unfold v1; refine Keeps.ite ?_ ?_
    · exact hv0
    · intro k3; apply redraw_keeps; exact hv0
  clear_value v1
  have hv2 : ∀ a4, Keeps r a4 → KeepsExc r (v2 a4) := by
    intro x5 k6; unfold v2; extract_lets +onlyGivenNames -underBinder v7
    have hv7 : Keeps r v7 := by
      unfold v7; split
      · apply setReg_keeps; apply installSwap_keeps; exact k6
      · exact k6
    clear_value v7; refine KeepsExc.ok ?_; apply commitMode_keeps; exact hv7
  clear_value v2; split
  · refine KeepsExc.bindS ?_ ?_
    · apply commitEdits_keeps; exact hv1
    · intro x8 k9; apply hv2; exact k9
  · refine KeepsExc.bindS ?_ ?_
    · refine KeepsExc.ok ?_; exact hv1
    · intro x10 k11; apply hv2; exact k11

theorem commitTxn_keeps {r : State} (s : State) (t : Txn) (h : Keeps r s) : KeepsExc r (commitTxn s t) := by
  rw [show @commitTxn = _ from by delta commitTxn; exact rfl]; extract_lets +onlyGivenNames -underBinder v0
  clear_value v0; split
  · exact KeepsExc.error
  · apply applyTxn_keeps; apply dropTxn_keeps; exact h

theorem putTxn_keeps {r : State} (s : State) (t : Txn) (h : Keeps r s) : Keeps r (putTxn s t) := by
  rw [show @putTxn = _ from by delta putTxn; exact rfl]; apply modDun_keeps; exact h

theorem deferTxn_keeps {r : State} (s : State) (t : Txn) (h : Keeps r s) : Keeps r (deferTxn s t) := by
  rw [show @deferTxn = _ from by delta deferTxn; exact rfl]; split
  · exact h
  · extract_lets +onlyGivenNames -underBinder v0
    have hv0 : Keeps r v0 := by unfold v0; apply bump_keeps; apply putTxn_keeps; exact h
    clear_value v0; apply bumpIf_keeps; exact hv0

theorem resetAfter_keeps {r : State} (s : State) (t : Txn) (x : StartRun) (h : Keeps r s) : Keeps r (resetAfter s t
    x) := by
  rw [show @resetAfter = _ from by delta resetAfter; exact rfl]; refine Keeps.ite ?_ ?_
  · exact h
  · intro k0; apply beginStart_keeps; exact k0

theorem tryWaiting_keeps {r : State} (s : State) (t : Txn) (h : Keeps r s) : Keeps r (tryWaiting s t) := by
  rw [show @tryWaiting = _ from by delta tryWaiting; exact rfl]; refine Keeps.ite ?_ ?_
  · refine Keeps.ite ?_ ?_
    · split
      · apply resetAfter_keeps; apply endTxn_keeps; refine Keeps.of_exc ?_ (by assumption); apply commitTxn_keeps
        exact h
      · apply endTxn_keeps; exact h
    · intro k0; apply deferTxn_keeps; exact h
  · intro k1; exact h

theorem beginChecks_keeps {r : State} (s : State) (t : Txn) (h : Keeps r s) : Keeps r (beginChecks s t) := by
  rw [show @beginChecks = _ from by delta beginChecks; exact rfl]; apply setReg_keeps; apply putTxn_keeps; exact h

theorem retryTxn_keeps {r : State} (s : State) (h0 : Nat) (h : Keeps r s) : Keeps r (retryTxn s h0) := by
  rw [show @retryTxn = _ from by delta retryTxn; exact rfl]; split
  · exact h
  · refine Keeps.ite ?_ ?_
    · refine Keeps.ite ?_ ?_
      · refine Keeps.ite ?_ ?_
        · apply tryWaiting_keeps; exact h
        · intro k0; refine Keeps.ite ?_ ?_
          · apply beginChecks_keeps; exact h
          · intro k1; exact h
      · intro k2; exact h
    · intro k3; exact h

theorem settle_keeps {r : State} (s : State) (h : Keeps r s) : Keeps r (settle s) := by
  rw [show @settle = _ from by delta settle; exact rfl]; refine Keeps.foldl ?_ ?_
  · intro x0 x1 k2; apply retryTxn_keeps; exact k2
  · exact h

theorem boundaryTxns_keeps {r : State} (s : State) (place : Nat) (h : Keeps r s) : Keeps r (boundaryTxns s place) :=
    by
  rw [show @boundaryTxns = _ from by delta boundaryTxns; exact rfl]; refine Keeps.foldl ?_ ?_
  · intro x0 x1 k2; split
    · exact k2
    · extract_lets +onlyGivenNames -underBinder v3; clear_value v3; refine Keeps.ite ?_ ?_
      · apply tryWaiting_keeps; exact k2
      · intro k4; exact k2
  · exact h

theorem submit_keeps {r : State} (s : State) (t : Txn) (h : Keeps r s) : KeepsP r (submit s t) := by
  rw [show @submit = _ from by delta submit; exact rfl]; extract_lets +onlyGivenNames -underBinder v0
  clear_value v0; refine KeepsP.ite ?_ ?_
  · extract_lets +onlyGivenNames -underBinder v1 v2; clear_value v1
    have hv2 : Keeps r v2 := by unfold v2; apply putTxn_keeps; apply modDun_keeps; exact h
    clear_value v2; refine KeepsP.ite ?_ ?_
    · refine KeepsP.ite ?_ ?_
      · refine KeepsP.ite ?_ ?_
        · refine KeepsP.ite ?_ ?_
          · split
            · refine KeepsP.mk ?_; apply settle_keeps; apply bump_keeps; apply dropTxn_keeps
              refine Keeps.of_exc ?_ (by assumption); apply commitTxn_keeps; exact hv2
            · refine KeepsP.mk ?_; apply bump_keeps; apply dropTxn_keeps; exact hv2
          · intro k3; refine KeepsP.mk ?_; apply deferTxn_keeps; exact hv2
        · intro k4; refine KeepsP.mk ?_; apply putTxn_keeps; exact hv2
      · intro k5; refine KeepsP.mk ?_; apply beginChecks_keeps; exact hv2
    · intro k6; refine KeepsP.mk ?_; apply putTxn_keeps; exact hv2
  · intro k7; refine KeepsP.mk ?_; apply bump_keeps; apply dropTxn_keeps; exact h

theorem execImageLoadDone_keeps {r : State} (img : Image) (s : State) (h : Keeps r s) : KeepsOut r
    (execImageLoadDone img s) := by
  rw [show @execImageLoadDone = _ from by delta execImageLoadDone; exact rfl]; split
  · refine KeepsOut.next ?_; exact h
  · split
    · refine KeepsOut.next ?_; apply settle_keeps; apply endTxn_keeps; exact h
    · extract_lets +onlyGivenNames -underBinder v0
      have hv0 : Keeps r v0 := by
        unfold v0; apply installLoad_keeps; refine Keeps.of_exc ?_ (by assumption); apply commitTxn_keeps; exact h
      clear_value v0; split
      · refine KeepsOut.next ?_; apply settle_keeps; apply endTxn_keeps; apply setReg_keeps; exact hv0
      · refine KeepsOut.next ?_; apply settle_keeps; apply setReg_keeps; apply setImageErr_keeps
        apply unloadImage_keeps; apply endTxn_keeps; exact h

theorem execImageSwapCheckDone_keeps {r : State} (img : Image) (s : State) (h : Keeps r s) : KeepsOut r
    (execImageSwapCheckDone img s) := by
  rw [show @execImageSwapCheckDone = _ from by delta execImageSwapCheckDone; exact rfl]; split
  · refine KeepsOut.next ?_; exact h
  · extract_lets +onlyGivenNames -underBinder v0
    have hv0 : Keeps r v0 := by unfold v0; apply writeAll_keeps; exact h
    clear_value v0; split
    · refine KeepsOut.next ?_; apply putTxn_keeps; exact h
    · refine KeepsOut.next ?_; apply settle_keeps; apply setImageErr_keeps; apply endTxn_keeps; exact h

theorem refuseHandshake_keeps {r : State} (s : State) (h0 : Handshake) (name : String) (h : Keeps r s) : Keeps r
    (refuseHandshake s h0 name) := by
  rw [show @refuseHandshake = _ from by delta refuseHandshake; exact rfl]; apply violation_keeps; apply send_keeps
  exact h

theorem openSession_keeps {r : State} (s : State) (i : Sess) (h0 : Handshake) (key : List Byte) (level : Nat)
    (h : Keeps r s) : Keeps r (openSession s i h0 key level) := by
  rw [show @openSession = _ from by delta openSession; exact rfl]; extract_lets +onlyGivenNames -underBinder v0
  clear_value v0; apply modDun_keeps; exact h

theorem execDtlsHandshake_keeps {r : State} (h0 : Handshake) (s : State) (h : Keeps r s) : KeepsOut r
    (execDtlsHandshake h0 s) := by
  rw [show @execDtlsHandshake = _ from by delta execDtlsHandshake; exact rfl]; split
  · refine KeepsOut.next ?_; exact h
  · split
    · refine KeepsOut.next ?_; apply send_keeps; exact h
    · split
      · refine KeepsOut.next ?_; apply send_keeps; exact h
      · split
        · refine KeepsOut.next ?_; apply send_keeps; exact h
        · split
          · refine KeepsOut.next ?_; apply refuseHandshake_keeps; exact h
          · split
            · refine KeepsOut.next ?_; apply refuseHandshake_keeps; exact h
            · extract_lets +onlyGivenNames -underBinder v0; clear_value v0; split
              · refine KeepsOut.next ?_; apply send_keeps; exact h
              · split
                · refine KeepsOut.next ?_; apply refuseHandshake_keeps; exact h
                · refine KeepsOut.next ?_; apply openSession_keeps; exact h

theorem execCloseNotify_keeps {r : State} (i : Sess) (s : State) (h : Keeps r s) : KeepsOut r (execCloseNotify i s)
    := by
  rw [show @execCloseNotify = _ from by delta execCloseNotify; exact rfl]; refine KeepsOut.next ?_
  apply endSession_keeps; exact h

theorem execSessionIdleExpiry_keeps {r : State} (i : Sess) (s : State) (h : Keeps r s) : KeepsOut r
    (execSessionIdleExpiry i s) := by
  rw [show @execSessionIdleExpiry = _ from by delta execSessionIdleExpiry; exact rfl]; split
  · refine KeepsOut.next ?_; exact h
  · refine KeepsOut.next ?_; refine Keeps.ite ?_ ?_
    · exact h
    · intro k0; apply endSession_keeps; exact k0

theorem respond_keeps {r : State} (s : State) (m : DReq) (ds : List DMsg) (h : Keeps r s) : Keeps r (respond s m ds)
    := by
  rw [show @respond = _ from by delta respond; exact rfl]; split
  · exact h
  · extract_lets +onlyGivenNames -underBinder v0 v1 v2 v3 v4; clear_value v0; clear_value v1; clear_value v2
    have hv3 : Keeps r v3 := by
      unfold v3; refine Keeps.ite ?_ ?_
      · exact h
      · intro k5; apply violation_keeps; exact k5
    clear_value v3
    have hv4 : Keeps r v4 := by
      unfold v4; refine Keeps.foldl ?_ ?_
      · intro x6 x7 k8; apply send_keeps; exact k8
      · exact hv3
    clear_value v4; apply modSess_keeps; exact hv4

theorem reply_keeps {r : State} (s : State) (m : DReq) (code : Nat) (h : Keeps r s) : Keeps r (reply s m code) := by
  rw [show @reply = _ from by delta reply; exact rfl]; apply respond_keeps; exact h

theorem receive_keeps {r : State} (s : State) (m : DReq) (f : State → Session → State) (h : Keeps r s)
    (hf : ∀ t x, Keeps r t → Keeps r (f t x)) : Keeps r (receive s m f) := by
  rw [show @receive = _ from by delta receive; exact rfl]; split
  · exact h
  · extract_lets +onlyGivenNames -underBinder v0
    have hv0 : Keeps r v0 := by unfold v0; apply modSess_keeps; exact h
    clear_value v0; refine Keeps.ite ?_ ?_
    · extract_lets +onlyGivenNames -underBinder v1; clear_value v1; refine Keeps.ite ?_ ?_
      · refine Keeps.foldl ?_ ?_
        · intro x2 x3 k4; apply send_keeps; exact k4
        · exact hv0
      · intro k5; apply hf; exact hv0
    · intro k6; exact hv0

theorem touchTxn_keeps {r : State} (s : State) (m : DReq) (h : Keeps r s) : Keeps r (touchTxn s m) := by
  rw [show @touchTxn = _ from by delta touchTxn; exact rfl]; split
  · apply putTxn_keeps; exact h
  · exact h

theorem freeBytes_keeps {r : State} (n : Nat) (s : State) (h : Keeps r s) : Keeps r (freeBytes n s).2 := by
  induction n generalizing s with
  | zero => unfold freeBytes; exact h
  | succ n ih =>
    unfold freeBytes; extract_lets +onlyGivenNames -underBinder v0 v1
    have hv0 : Keeps r v0.2 := by unfold v0; apply takeFree_keeps; exact h
    clear_value v0
    have hv1 : Keeps r v1.2 := by unfold v1; apply ih; exact hv0
    exact hv1

theorem memPart_keeps {r : State} (s : State) (a n : Nat) (h : Keeps r s) : KeepsP r (memPart s a n) := by
  rw [show @memPart = _ from by delta memPart; exact rfl]; refine KeepsP.ite ?_ ?_
  · extract_lets +onlyGivenNames -underBinder v0
    have hv0 : KeepsP r v0 := by
      unfold v0; refine KeepsP.foldl ?_ ?_
      · intro x1 x2 k3; split
        · refine KeepsP.mk ?_; refine Keeps.of_pair ?_ (by assumption); apply readGranule_keeps
          refine KeepsP.fst ?_; exact k3
        · refine KeepsP.mk ?_; refine Keeps.of_pair ?_ (by assumption); apply readGranule_keeps
          refine KeepsP.fst ?_; exact k3
      · refine KeepsP.mk ?_; exact h
    clear_value v0; refine KeepsP.mk ?_; refine KeepsP.fst ?_; exact hv0
  · intro k4; refine KeepsP.mk ?_; exact h

theorem readValue_keeps {r : State} (s : State) (t : Option Txn) (r0 : ObjRow) (m : DReq) (h : Keeps r s) : KeepsP r
    (readValue s t r0 m) := by
  rw [show @readValue = _ from by delta readValue; exact rfl]; refine KeepsP.ite ?_ fun _ => ?_
  · refine KeepsP.ite (KeepsP.mk h) fun _ => ?_
    refine KeepsP.mk (List.foldlRecOn (motive := fun acc : List Byte × State => Keeps r acc.2) _ _ h fun acc k i _ => ?_)
    exact freeBytes_keeps _ _ k
  · extract_lets +onlyGivenNames -underBinder n old s1; split; rename_i s2 d e; refine KeepsP.mk ?_
    cases t with
    | none => exact Keeps.of_pair (memPart_keeps _ _ _ h) e
    | some x => exact h.swap (Keeps.of_pair (memPart_keeps _ _ _ (Keeps.refl _)) e)

theorem readReq_keeps {r : State} (m : DReq) (s : State) (x : Session) (h : Keeps r s) : Keeps r (readReq m s x) :=
    by
  rw [show @readReq = _ from by delta readReq; exact rfl]; extract_lets +onlyGivenNames -underBinder v0
  have hv0 : Keeps r v0 := by unfold v0; apply touchTxn_keeps; exact h
  clear_value v0; refine Keeps.ite ?_ ?_
  · refine Keeps.ite ?_ ?_
    · extract_lets +onlyGivenNames -underBinder v1; clear_value v1; refine Keeps.ite ?_ ?_
      · split
        · apply reply_keeps; exact hv0
        · split
          · apply reply_keeps; refine Keeps.of_pair ?_ (by assumption); apply readValue_keeps; exact hv0
          · apply respond_keeps; refine Keeps.of_pair ?_ (by assumption); apply readValue_keeps; exact hv0
      · intro k2; apply reply_keeps; exact hv0
    · intro k3; apply reply_keeps; exact hv0
  · intro k4; apply reply_keeps; exact hv0

theorem execRead_keeps {r : State} (m : DReq) (s : State) (h : Keeps r s) : KeepsOut r (execRead m s) := by
  rw [show @execRead = _ from by delta execRead; exact rfl]; refine KeepsOut.next ?_; refine Keeps.ite ?_ ?_
  · apply receive_keeps
    · exact h
    · intro x0 x1 k2; apply readReq_keeps; exact k2
  · intro k3; exact h

theorem writeAlone_keeps {r : State} (m : DReq) (s : State) (x : Session) (r0 : ObjRow) (y : StartRun) (h : Keeps r
    s) : Keeps r (writeAlone m s x r0 y) := by
  rw [show @writeAlone = _ from by delta writeAlone; exact rfl]; split
  · refine Keeps.ite ?_ ?_
    · apply reply_keeps; exact h
    · intro k0; apply reply_keeps; exact h
  · extract_lets +onlyGivenNames -underBinder v1 v2; clear_value v1; clear_value v2; refine Keeps.ite ?_ ?_
    · split; extract_lets +onlyGivenNames -underBinder v3
      have hv3 : Keeps r v3 := by
        unfold v3; apply reply_keeps; refine Keeps.of_pair ?_ (by assumption); apply submit_keeps
        apply modDun_keeps; exact h
      clear_value v3; refine Keeps.ite ?_ ?_
      · exact hv3
      · intro k4; apply resetAfter_keeps; exact k4
    · intro k5; apply reply_keeps; exact h

theorem writeStaged_keeps {r : State} (m : DReq) (s : State) (x : Session) (r0 : ObjRow) (h : Keeps r s) : Keeps r
    (writeStaged m s x r0) := by
  rw [show @writeStaged = _ from by delta writeStaged; exact rfl]; split
  · apply reply_keeps; exact h
  · refine Keeps.ite ?_ ?_
    · extract_lets +onlyGivenNames -underBinder v0 v1; clear_value v0; clear_value v1; refine Keeps.ite ?_ ?_
      · refine Keeps.ite ?_ ?_
        · apply reply_keeps; apply putTxn_keeps; exact h
        · intro k2; apply reply_keeps; exact h
      · intro k3; apply reply_keeps; exact h
    · intro k4; apply reply_keeps; exact h

theorem writeReq_keeps {r : State} (m : DReq) (y : StartRun) (s : State) (x : Session) (h : Keeps r s) : Keeps r
    (writeReq m y s x) := by
  rw [show @writeReq = _ from by delta writeReq; exact rfl]; extract_lets +onlyGivenNames -underBinder v0
  have hv0 : Keeps r v0 := by unfold v0; apply touchTxn_keeps; exact h
  clear_value v0; refine Keeps.ite ?_ ?_
  · refine Keeps.ite ?_ ?_
    · split
      · apply reply_keeps; exact hv0
      · refine Keeps.ite ?_ ?_
        · apply writeStaged_keeps; exact hv0
        · intro k1; apply writeAlone_keeps; exact hv0
    · intro k2; apply reply_keeps; exact hv0
  · intro k3; apply reply_keeps; exact hv0

theorem execWrite_keeps {r : State} (m : DReq) (s : State) (h : Keeps r s) : KeepsOut r (execWrite m s) := by
  rw [show @execWrite = _ from by delta execWrite; exact rfl]; refine KeepsOut.next ?_; refine Keeps.ite ?_ ?_
  · apply receive_keeps
    · exact h
    · intro x0 x1 k2; apply writeReq_keeps; exact k2
  · intro k3; exact h

theorem openReq_keeps {r : State} (m : DReq) (s : State) (x2 : Session) (h : Keeps r s) : Keeps r (openReq m s x2)
    := by
  rw [show @openReq = _ from by delta openReq; exact rfl]; refine Keeps.ite ?_ ?_
  · split
    · apply reply_keeps; exact h
    · extract_lets +onlyGivenNames -underBinder v0; clear_value v0; apply respond_keeps; apply modDun_keeps; exact h
  · intro k1; apply reply_keeps; exact h

theorem execTxnOpen_keeps {r : State} (m : DReq) (s : State) (h : Keeps r s) : KeepsOut r (execTxnOpen m s) := by
  rw [show @execTxnOpen = _ from by delta execTxnOpen; exact rfl]; refine KeepsOut.next ?_; refine Keeps.ite ?_ ?_
  · apply receive_keeps
    · exact h
    · intro x0 x1 k2; apply openReq_keeps; exact k2
  · intro k3; exact h

theorem commitReq_keeps {r : State} (m : DReq) (y : StartRun) (s : State) (x3 : Session) (h : Keeps r s) : Keeps r
    (commitReq m y s x3) := by
  rw [show @commitReq = _ from by delta commitReq; exact rfl]; extract_lets +onlyGivenNames -underBinder v0
  have hv0 : Keeps r v0 := by unfold v0; apply touchTxn_keeps; exact h
  clear_value v0; refine Keeps.ite ?_ ?_
  · split
    · apply reply_keeps; exact hv0
    · refine Keeps.ite ?_ ?_
      · split; extract_lets +onlyGivenNames -underBinder v1
        have hv1 : Keeps r v1 := by
          unfold v1; apply reply_keeps; refine Keeps.of_pair ?_ (by assumption); apply submit_keeps; exact hv0
        clear_value v1; refine Keeps.ite ?_ ?_
        · exact hv1
        · intro k2; apply resetAfter_keeps; exact k2
      · intro k3; apply reply_keeps; exact hv0
  · intro k4; apply reply_keeps; exact hv0

theorem execTxnCommit_keeps {r : State} (m : DReq) (s : State) (h : Keeps r s) : KeepsOut r (execTxnCommit m s) :=
    by
  rw [show @execTxnCommit = _ from by delta execTxnCommit; exact rfl]; refine KeepsOut.next ?_
  refine Keeps.ite ?_ ?_
  · apply receive_keeps
    · exact h
    · intro x0 x1 k2; apply commitReq_keeps; exact k2
  · intro k3; exact h

theorem abortReq_keeps {r : State} (m : DReq) (s : State) (x2 : Session) (h : Keeps r s) : Keeps r (abortReq m s x2)
    := by
  rw [show @abortReq = _ from by delta abortReq; exact rfl]; extract_lets +onlyGivenNames -underBinder v0
  have hv0 : Keeps r v0 := by unfold v0; apply touchTxn_keeps; exact h
  clear_value v0; refine Keeps.ite ?_ ?_
  · split
    · apply reply_keeps; exact hv0
    · refine Keeps.ite ?_ ?_
      · apply reply_keeps; apply abortTxn_keeps; exact hv0
      · intro k1; apply reply_keeps; exact hv0
  · intro k2; apply reply_keeps; exact hv0

theorem execTxnAbort_keeps {r : State} (m : DReq) (s : State) (h : Keeps r s) : KeepsOut r (execTxnAbort m s) := by
  rw [show @execTxnAbort = _ from by delta execTxnAbort; exact rfl]; refine KeepsOut.next ?_; refine Keeps.ite ?_ ?_
  · apply receive_keeps
    · exact h
    · intro x0 x1 k2; apply abortReq_keeps; exact k2
  · intro k3; exact h

theorem execTxnIdleExpiry_keeps {r : State} (h0 : Nat) (s : State) (h : Keeps r s) : KeepsOut r
    (execTxnIdleExpiry h0 s) := by
  rw [show @execTxnIdleExpiry = _ from by delta execTxnIdleExpiry; exact rfl]; split
  · refine KeepsOut.next ?_; exact h
  · refine KeepsOut.next ?_; refine Keeps.ite ?_ ?_
    · exact h
    · intro k0; apply abortTxn_keeps; exact h

theorem execTxnDeferLimitExpiry_keeps {r : State} (h0 : Nat) (late : Bool) (s : State) (h : Keeps r s) : KeepsOut r
    (execTxnDeferLimitExpiry h0 late s) := by
  rw [show @execTxnDeferLimitExpiry = _ from by delta execTxnDeferLimitExpiry; exact rfl]; split
  · refine KeepsOut.next ?_; exact h
  · split
    · split
      · refine KeepsOut.next ?_; exact h
      · split
        · refine KeepsOut.next ?_; apply lateAccept_keeps; exact h
        · refine KeepsOut.next ?_; apply settle_keeps; apply endTxn_keeps; exact h
    · refine KeepsOut.next ?_; exact h

theorem subscribeReq_keeps {r : State} (m : DReq) (s : State) (x : Session) (h : Keeps r s) : Keeps r (subscribeReq
    m s x) := by
  rw [show @subscribeReq = _ from by delta subscribeReq; exact rfl]; refine Keeps.ite ?_ ?_
  · extract_lets +onlyGivenNames -underBinder v0 v1; clear_value v0
    have hv1 : Keeps r v1 := by unfold v1; apply reply_keeps; apply modSess_keeps; exact h
    clear_value v1; refine Keeps.ite ?_ ?_
    · exact hv1
    · intro k2; apply deliver_keeps; exact k2
  · intro k3; apply reply_keeps; exact h

theorem execSubscribe_keeps {r : State} (m : DReq) (s : State) (h : Keeps r s) : KeepsOut r (execSubscribe m s) :=
    by
  rw [show @execSubscribe = _ from by delta execSubscribe; exact rfl]; refine KeepsOut.next ?_
  refine Keeps.ite ?_ ?_
  · apply receive_keeps
    · exact h
    · intro x0 x1 k2; apply subscribeReq_keeps; exact k2
  · intro k3; exact h

theorem eventAckReq_keeps {r : State} (m : DReq) (s : State) (x2 : Session) (h : Keeps r s) : Keeps r (eventAckReq m
    s x2) := by
  rw [show @eventAckReq = _ from by delta eventAckReq; exact rfl]; refine Keeps.ite ?_ ?_
  · apply modSess_keeps; exact h
  · intro k0; apply reply_keeps; exact h

theorem execEventAck_keeps {r : State} (m : DReq) (s : State) (h : Keeps r s) : KeepsOut r (execEventAck m s) := by
  rw [show @execEventAck = _ from by delta execEventAck; exact rfl]; refine KeepsOut.next ?_; refine Keeps.ite ?_ ?_
  · apply receive_keeps
    · exact h
    · intro x0 x1 k2; apply eventAckReq_keeps; exact k2
  · intro k3; exact h

theorem execEventResend_keeps {r : State} (i : Sess) (num : Nat) (s : State) (h : Keeps r s) : KeepsOut r
    (execEventResend i num s) := by
  rw [show @execEventResend = _ from by delta execEventResend; exact rfl]; split
  · refine KeepsOut.next ?_; exact h
  · split
    · refine KeepsOut.next ?_; exact h
    · split
      · refine KeepsOut.next ?_; exact h
      · split
        · refine KeepsOut.next ?_; apply bump_keeps; apply modSess_keeps; exact h
        · extract_lets +onlyGivenNames -underBinder v0
          have hv0 : Keeps r v0 := by unfold v0; apply modSess_keeps; exact h
          clear_value v0; refine KeepsOut.next ?_; apply send_keeps; exact hv0

theorem attestReq_keeps {r : State} (m : DReq) (s : State) (x2 : Session) (h : Keeps r s) : Keeps r (attestReq m s
    x2) := by
  rw [show @attestReq = _ from by delta attestReq; exact rfl]; refine Keeps.ite ?_ ?_
  · refine Keeps.ite ?_ ?_
    · extract_lets +onlyGivenNames -underBinder v0 v1 v2; clear_value v0; clear_value v1
      have hv2 : Keeps r v2 := by unfold v2; apply modPower_keeps; exact h
      clear_value v2; apply respond_keeps; exact hv2
    · intro k3; apply reply_keeps; exact h
  · intro k4; apply reply_keeps; exact h

theorem execAttest_keeps {r : State} (m : DReq) (s : State) (h : Keeps r s) : KeepsOut r (execAttest m s) := by
  rw [show @execAttest = _ from by delta execAttest; exact rfl]; refine KeepsOut.next ?_; refine Keeps.ite ?_ ?_
  · apply receive_keeps
    · exact h
    · intro x0 x1 k2; apply attestReq_keeps; exact k2
  · intro k3; exact h

theorem closeReq_keeps {r : State} (m : DReq) (s : State) (x2 : Session) (h : Keeps r s) : Keeps r (closeReq m s x2)
    := by
  rw [show @closeReq = _ from by delta closeReq; exact rfl]; refine Keeps.ite ?_ ?_
  · apply endSession_keeps; apply reply_keeps; exact h
  · intro k0; apply reply_keeps; exact h

theorem execClose_keeps {r : State} (m : DReq) (s : State) (h : Keeps r s) : KeepsOut r (execClose m s) := by
  rw [show @execClose = _ from by delta execClose; exact rfl]; refine KeepsOut.next ?_; refine Keeps.ite ?_ ?_
  · apply receive_keeps
    · exact h
    · intro x0 x1 k2; apply closeReq_keeps; exact k2
  · intro k3; exact h

theorem execOtherTypeRequest_keeps {r : State} (m : DReq) (s : State) (h : Keeps r s) : KeepsOut r
    (execOtherTypeRequest m s) := by
  rw [show @execOtherTypeRequest = _ from by delta execOtherTypeRequest; exact rfl]; refine KeepsOut.next ?_
  refine Keeps.ite ?_ ?_
  · apply receive_keeps
    · exact h
    · intro x0 x1 k2; apply reply_keeps; exact k2
  · intro k3; exact h

theorem serve_keeps {r : State} (m : DReq) (y : StartRun) (s : State) (h : Keeps r s) : Keeps r (serve m y s) := by
  rw [show @serve = _ from by delta serve; exact rfl]; apply receive_keeps
  · exact h
  · intro x0 x1 k2; split
    · apply writeReq_keeps; exact k2
    · apply commitReq_keeps; exact k2

theorem objectCommand_keeps {r : State} (m : DReq) (idx : Nat) (p : List Byte → Bool) (y : StartRun) (s : State) (h
    : Keeps r s) : Keeps r (objectCommand m idx p y s) := by
  rw [show @objectCommand = _ from by delta objectCommand; exact rfl]; refine Keeps.ite ?_ ?_
  · exact h
  · intro k0; apply serve_keeps; exact k0

theorem execAccessListWrite_keeps {r : State} (m : DReq) (s : State) (h : Keeps r s) : KeepsOut r
    (execAccessListWrite m s) := by
  rw [show @execAccessListWrite = _ from by delta execAccessListWrite; exact rfl]; refine KeepsOut.next ?_
  apply objectCommand_keeps; exact h

theorem execJobStart_keeps {r : State} (m : DReq) (plan : List (Nat × Nat)) (s : State) (h : Keeps r s) : KeepsOut r
    (execJobStart m plan s) := by
  rw [show @execJobStart = _ from by delta execJobStart; exact rfl]; refine KeepsOut.next ?_; refine Keeps.ite ?_ ?_
  · exact h
  · intro k0; apply serve_keeps; refine Keeps.mk_iff.mpr ?_; exact k0

theorem execJobModeSwitch_keeps {r : State} (m : DReq) (s : State) (h : Keeps r s) : KeepsOut r (execJobModeSwitch m
    s) := by
  rw [show @execJobModeSwitch = _ from by delta execJobModeSwitch; exact rfl]; refine KeepsOut.next ?_
  refine Keeps.ite ?_ ?_
  · exact h
  · intro k0; apply serve_keeps; exact k0

theorem execJobEnd_keeps {r : State} (m : DReq) (s : State) (h : Keeps r s) : KeepsOut r (execJobEnd m s) := by
  rw [show @execJobEnd = _ from by delta execJobEnd; exact rfl]; refine KeepsOut.next ?_; refine Keeps.ite ?_ ?_
  · exact h
  · intro k0; apply serve_keeps; exact k0

theorem joinCommit_keeps {r : State} (m : DReq) (s : State) (h : Keeps r s) : Keeps r (joinCommit m s) := by
  rw [show @joinCommit = _ from by delta joinCommit; exact rfl]; refine Keeps.ite ?_ ?_
  · exact h
  · intro k0; apply serve_keeps; exact k0

theorem execRankMapRedraw_keeps {r : State} (m : DReq) (s : State) (h : Keeps r s) : KeepsOut r (execRankMapRedraw m
    s) := by
  rw [show @execRankMapRedraw = _ from by delta execRankMapRedraw; exact rfl]; refine KeepsOut.next ?_
  refine Keeps.ite ?_ ?_
  · apply objectCommand_keeps; exact h
  · intro k0; exact h

theorem execEndpointWrite_keeps {r : State} (m : DReq) (s : State) (h : Keeps r s) : KeepsOut r (execEndpointWrite m
    s) := by
  rw [show @execEndpointWrite = _ from by delta execEndpointWrite; exact rfl]; refine KeepsOut.next ?_
  apply objectCommand_keeps; exact h

theorem execAdmit_keeps {r : State} (m : DReq) (s : State) (h : Keeps r s) : KeepsOut r (execAdmit m s) := by
  rw [show @execAdmit = _ from by delta execAdmit; exact rfl]; refine KeepsOut.next ?_; apply objectCommand_keeps
  exact h

theorem execFork_keeps {r : State} (m : DReq) (s : State) (h : Keeps r s) : KeepsOut r (execFork m s) := by
  rw [show @execFork = _ from by delta execFork; exact rfl]; refine KeepsOut.next ?_; apply objectCommand_keeps
  exact h

theorem execEvict_keeps {r : State} (m : DReq) (s : State) (h : Keeps r s) : KeepsOut r (execEvict m s) := by
  rw [show @execEvict = _ from by delta execEvict; exact rfl]; refine KeepsOut.next ?_; apply objectCommand_keeps
  exact h

theorem execRetire_keeps {r : State} (m : DReq) (s : State) (h : Keeps r s) : KeepsOut r (execRetire m s) := by
  rw [show @execRetire = _ from by delta execRetire; exact rfl]; refine KeepsOut.next ?_; apply objectCommand_keeps
  exact h

theorem execImageLoad_keeps {r : State} (m : DReq) (s : State) (h : Keeps r s) : KeepsOut r (execImageLoad m s) :=
    by
  rw [show @execImageLoad = _ from by delta execImageLoad; exact rfl]; refine KeepsOut.next ?_
  apply objectCommand_keeps; exact h

theorem execImageSwap_keeps {r : State} (m : DReq) (s : State) (h : Keeps r s) : KeepsOut r (execImageSwap m s) :=
    by
  rw [show @execImageSwap = _ from by delta execImageSwap; exact rfl]; refine KeepsOut.next ?_
  apply objectCommand_keeps; exact h

theorem execStateReqAsleep_keeps {r : State} (m : DReq) (s : State) (h : Keeps r s) : KeepsOut r (execStateReqAsleep
    m s) := by
  rw [show @execStateReqAsleep = _ from by delta execStateReqAsleep; exact rfl]; refine KeepsOut.next ?_
  apply objectCommand_keeps; exact h

theorem execStateReqReady_keeps {r : State} (m : DReq) (s : State) (h : Keeps r s) : KeepsOut r (execStateReqReady m
    s) := by
  rw [show @execStateReqReady = _ from by delta execStateReqReady; exact rfl]; refine KeepsOut.next ?_
  apply objectCommand_keeps; exact h

theorem execStateReqMaint_keeps {r : State} (m : DReq) (s : State) (h : Keeps r s) : KeepsOut r (execStateReqMaint m
    s) := by
  rw [show @execStateReqMaint = _ from by delta execStateReqMaint; exact rfl]; refine KeepsOut.next ?_
  apply objectCommand_keeps; exact h

theorem execRestoreDefaults_keeps {r : State} (m : DReq) (s : State) (h : Keeps r s) : KeepsOut r
    (execRestoreDefaults m s) := by
  rw [show @execRestoreDefaults = _ from by delta execRestoreDefaults; exact rfl]; refine KeepsOut.next ?_
  apply objectCommand_keeps; exact h

theorem execResetReq_keeps {r : State} (m : DReq) (y : StartRun) (s : State) (h : Keeps r s) : KeepsOut r
    (execResetReq m y s) := by
  rw [show @execResetReq = _ from by delta execResetReq; exact rfl]; refine KeepsOut.next ?_
  apply objectCommand_keeps; exact h

theorem execMemAccessWrite_keeps {r : State} (m : DReq) (s : State) (h : Keeps r s) : KeepsOut r (execMemAccessWrite
    m s) := by
  rw [show @execMemAccessWrite = _ from by delta execMemAccessWrite; exact rfl]; refine KeepsOut.next ?_
  apply objectCommand_keeps; exact h

theorem execFwStageWrite_keeps {r : State} (m : DReq) (s : State) (h : Keeps r s) : KeepsOut r (execFwStageWrite m
    s) := by
  rw [show @execFwStageWrite = _ from by delta execFwStageWrite; exact rfl]; refine KeepsOut.next ?_
  apply objectCommand_keeps; exact h

theorem execFwCheck_keeps {r : State} (m : DReq) (s : State) (h : Keeps r s) : KeepsOut r (execFwCheck m s) := by
  rw [show @execFwCheck = _ from by delta execFwCheck; exact rfl]; refine KeepsOut.next ?_
  apply objectCommand_keeps; exact h

theorem execFwSelect_keeps {r : State} (m : DReq) (s : State) (h : Keeps r s) : KeepsOut r (execFwSelect m s) := by
  rw [show @execFwSelect = _ from by delta execFwSelect; exact rfl]; refine KeepsOut.next ?_
  apply objectCommand_keeps; exact h

theorem hold_keeps {r : State} (s : State) (h : Keeps r s) : Keeps r (hold s) := by
  rw [show @hold = _ from by delta hold; exact rfl]; refine Keeps.mk_iff.mpr ?_; exact h

theorem pauseIf_keeps {r : State} (s : State) (selector : Nat) (due : Bool) (report : State → List Byte) (h : Keeps
    r s) : Keeps r (pauseIf s selector due report) := by
  rw [show @pauseIf = _ from by delta pauseIf; exact rfl]; refine Keeps.ite ?_ ?_
  · exact h
  · intro k0; extract_lets +onlyGivenNames -underBinder v1
    have hv1 : KeepsP r v1 := by unfold v1; apply beginPause_keeps; exact k0
    clear_value v1; refine Keeps.ite ?_ ?_
    · refine KeepsP.fst ?_; exact hv1
    · intro k2; apply hold_keeps; exact k2

theorem fetchHold_keeps {r : State} (s : State) (h : Keeps r s) : Keeps r (fetchHold s) := by
  rw [show @fetchHold = _ from by delta fetchHold; exact rfl]; apply pauseIf_keeps; apply hold_keeps; exact h

theorem openBoundary_keeps {r : State} (s : State) (plan : List (Nat × Nat)) (h : Keeps r s) : Keeps r (openBoundary
    s plan) := by
  rw [show @openBoundary = _ from by delta openBoundary; exact rfl]; extract_lets +onlyGivenNames -underBinder v0 v1
  clear_value v0
  have hv1 : Keeps r v1 := by unfold v1; apply freePauses_keeps; refine Keeps.mk_iff.mpr ?_; exact h
  clear_value v1; extract_lets +onlyGivenNames -underBinder v2
  have hv2 : Keeps r v2 := by unfold v2; apply sweepRequests_keeps; apply modNet_keeps; exact hv1
  clear_value v2; apply pauseIf_keeps; apply pauseIf_keeps; exact hv2

theorem logReqs_keeps {r : State} (s : State) (h : Keeps r s) : Keeps r (logReqs s) := by
  rw [show @logReqs = _ from by delta logReqs; exact rfl]; refine Keeps.foldl ?_ ?_
  · intro x0 x1 k2; apply appendLog_keeps; exact k2
  · exact h

theorem kvOpen_keeps {r : State} (s : State) (h : Keeps r s) : KeepsP r (kvOpen s) := by
  rw [show @kvOpen = _ from by delta kvOpen; exact rfl]
  extract_lets +onlyGivenNames -underBinder v0 v1 v2 v3 v4 v5 v6 v7 v8 v9; clear_value v0; clear_value v1
  have hv2 : Keeps r v2 := by unfold v2; apply modNet_keeps; exact h
  clear_value v2
  have hv3 : KeepsP r v3 := by
    unfold v3; refine KeepsP.foldl ?_ ?_
    · intro x10 x11 k12; apply serveOne_keeps; exact k12
    · refine KeepsP.mk ?_; apply updateScores_keeps; apply growSeqs_keeps; exact hv2
  clear_value v3
  have hv4 : Keeps r v4 := by
    unfold v4; apply setAppends_keeps; apply pushPages_keeps; refine KeepsP.fst ?_; exact hv3
  clear_value v4; clear_value v5
  have hv6 : KeepsP r v6 := by unfold v6; apply retireCapped_keeps; exact hv4
  clear_value v6
  have hv7 : Keeps r v7 := by unfold v7; apply pushPages_keeps; refine KeepsP.fst ?_; exact hv6
  clear_value v7; clear_value v8; clear_value v9; refine KeepsP.mk ?_; apply modNet_keeps; exact hv7

theorem kvClose_keeps {r : State} (s : State) (evict : Option (List Byte)) (h : Keeps r s) : Keeps r (kvClose s
    evict) := by
  rw [show @kvClose = _ from by delta kvClose; exact rfl]; extract_lets +onlyGivenNames -underBinder v0 v1
  clear_value v0
  have hv1 : Keeps r v1 := by
    unfold v1; refine Keeps.ite ?_ ?_
    · exact h
    · intro k2; apply evictAll_keeps; exact k2
  clear_value v1; apply allocAll_keeps; exact hv1

theorem sendResponses_keeps {r : State} (s : State) (l : List (Nat × List Byte)) (h : Keeps r s) : Keeps r
    (sendResponses s l) := by
  rw [show @sendResponses = _ from by delta sendResponses; exact rfl]; refine Keeps.foldl ?_ ?_
  · intro x0 x1 k2; apply sendMessage_keeps; exact k2
  · exact h

theorem replayWrites_keeps {r : State} (s : State) (h : Keeps r s) : Keeps r (replayWrites s) := by
  rw [show @replayWrites = _ from by delta replayWrites; exact rfl]; refine Keeps.foldl ?_ ?_
  · intro x0 x1 k2; apply applyLogged_keeps; exact k2
  · exact h

theorem replayEdits_keeps {r : State} (s : State) (h : Keeps r s) : Keeps r (replayEdits s) := by
  rw [show @replayEdits = _ from by delta replayEdits; exact rfl]; refine Keeps.foldl ?_ ?_
  · intro x0 x1 k2; split
    · refine Keeps.of_exc ?_ (by assumption); refine KeepsExc.elim ?_ ?_
      · exact KeepsExc.error
      · intro x3; apply applyEdits_keeps; exact k2
    · exact k2
  · exact h

theorem beforeKv_keeps {r : State} (s : State) (h : Keeps r s) : Keeps r (beforeKv s) := by
  rw [show @beforeKv = _ from by delta beforeKv; exact rfl]; apply boundaryTxns_keeps; apply replayEdits_keeps
  apply boundaryTxns_keeps; apply replayWrites_keeps; exact h

theorem replayResult_keeps {r : State} (s : State) (code : Nat) (h : Keeps r s) : Keeps r (replayResult s code) :=
    by
  rw [show @replayResult = _ from by delta replayResult; exact rfl]; refine Keeps.ite ?_ ?_
  · exact h
  · intro k0; apply sendUp_keeps; exact k0

theorem putRecord_keeps {r : State} (s : State) (b : List Byte) (h : Keeps r s) : Keeps r (putRecord s b) := by
  rw [show @putRecord = _ from by delta putRecord; exact rfl]; extract_lets +onlyGivenNames -underBinder v0
  have hv0 : Keeps r v0 := by unfold v0; apply setReg_keeps; exact h
  clear_value v0; split
  · apply replayResult_keeps; apply appendLog_keeps; exact hv0
  · refine Keeps.ite ?_ ?_
    · apply replayResult_keeps; apply replayMismatch_keeps; exact hv0
    · intro k1; apply replayResult_keeps; exact hv0

theorem closeStep_keeps {r : State} (s : State) (h : Keeps r s) : Keeps r (closeStep s) := by
  rw [show @closeStep = _ from by delta closeStep; exact rfl]
  extract_lets +onlyGivenNames -underBinder v0 v1 v2 v3 v4 v5 v6 v7 v8 v9 v10 v11 v12 v13 v14 v15 v16 v17 v18 v19 v20 v21 v22 v23
  clear_value v0; clear_value v1
  have hv2 : Keeps r v2 := by
    unfold v2; refine Keeps.map_getD ?_ ?_
    · intro x24; apply logDecision_keeps; exact h
    · exact h
  clear_value v2
  have hv3 : Keeps r v3 := by
    unfold v3; refine Keeps.map_getD ?_ ?_
    · intro x25; apply logDecision_keeps; exact hv2
    · exact hv2
  clear_value v3; clear_value v4
  have hv5 : Keeps r v5 := by unfold v5; apply updateLayers_keeps; apply updateTrackers_keeps; exact hv3
  clear_value v5
  have hv6 : Keeps r v6 := by
    unfold v6; refine Keeps.ite ?_ ?_
    · exact hv5
    · intro k26; apply raiseEvent_keeps; apply bump_keeps; exact k26
  clear_value v6; clear_value v7
  have hv8 : Keeps r v8 := by
    unfold v8; refine Keeps.ite ?_ ?_
    · exact hv6
    · intro k27; apply logReqs_keeps; exact k27
  clear_value v8
  have hv9 : KeepsP r v9 := by unfold v9; apply kvOpen_keeps; apply beforeKv_keeps; exact hv8
  clear_value v9; clear_value v10; clear_value v11
  have hv12 : Keeps r v12 := by unfold v12; apply setReg_keeps; apply setReg_keeps; exact hv8
  clear_value v12; clear_value v13
  have hv14 : Keeps r v14 := by unfold v14; apply putRecord_keeps; exact hv12
  clear_value v14; clear_value v15
  have hv16 : Keeps r v16 := by unfold v16; apply setReg_keeps; exact hv14
  clear_value v16
  have hv17 : Keeps r v17 := by
    unfold v17; refine Keeps.ite ?_ ?_
    · exact hv16
    · intro k28; apply raiseEvent_keeps; exact k28
  clear_value v17; clear_value v18
  have hv19 : Keeps r v19 := by unfold v19; refine Keeps.mk_iff.mpr ?_; exact hv17
  clear_value v19; clear_value v20
  have hv21 : Keeps r v21 := by unfold v21; apply pauseIf_keeps; exact hv19
  clear_value v21
  have hv22 : Keeps r v22 := by unfold v22; apply pauseIf_keeps; exact hv21
  clear_value v22
  have hv23 : Keeps r v23 := by unfold v23; apply pauseIf_keeps; exact hv22
  clear_value v23; extract_lets +onlyGivenNames -underBinder v29
  have hv29 : Keeps r v29 := by unfold v29; apply pauseIf_keeps; exact hv23
  clear_value v29; apply pauseIf_keeps; exact hv29

theorem flip_keeps {r : State} (s : State) (h : Keeps r s) : Keeps r (flip s) := by
  rw [show @flip = _ from by delta flip; exact rfl]; extract_lets +onlyGivenNames -underBinder v0
  have hv0 : Keeps r v0 := by unfold v0; apply markFilling_keeps; exact h
  clear_value v0; split
  · exact hv0
  · extract_lets +onlyGivenNames -underBinder v1 v2; clear_value v1; clear_value v2; apply setReg_keeps
    refine Keeps.mk_iff.mpr ?_; exact hv0

theorem releaseStretch_keeps {r : State} (s : State) (h : Keeps r s) : Keeps r (releaseStretch s) := by
  rw [show @releaseStretch = _ from by delta releaseStretch; exact rfl]
  extract_lets +onlyGivenNames -underBinder v0; clear_value v0; refine Keeps.ite ?_ ?_
  · apply requestStretch_keeps; exact h
  · intro k1; exact h

theorem loseRank_keeps {r : State} (s : State) (rank : Nat) (h : Keeps r s) : Keeps r (loseRank s rank) := by
  rw [show @loseRank = _ from by delta loseRank; exact rfl]; extract_lets +onlyGivenNames -underBinder v0
  have hv0 : Keeps r v0 := by unfold v0; apply modNet_keeps; exact h
  clear_value v0; apply reportFault_keeps; apply putStatus_keeps; apply putStatus_keeps; exact hv0

theorem logDecisions_keeps {r : State} (s : State) (h : Keeps r s) : Keeps r (logDecisions s) := by
  rw [show @logDecisions = _ from by delta logDecisions; exact rfl]; refine Keeps.foldl ?_ ?_
  · intro x0 x1 k2; split
    · refine Keeps.ite ?_ ?_
      · apply logDecision_keeps; exact k2
      · intro k3; exact k2
    · exact k2
  · exact h

theorem applyDecisions_keeps {r : State} (s : State) (h : Keeps r s) : Keeps r (applyDecisions s) := by
  rw [show @applyDecisions = _ from by delta applyDecisions; exact rfl]
  extract_lets +onlyGivenNames -underBinder v0 v1 v2
  have hv0 : Keeps r v0 := by
    unfold v0; split
    · refine Keeps.foldl ?_ ?_
      · intro x3 x4 k5; apply modLayer_keeps; exact k5
      · exact h
    · exact h
  clear_value v0
  have hv1 : Keeps r v1 := by
    unfold v1; split
    · apply setReg_keeps; exact hv0
    · exact hv0
  clear_value v1
  have hv2 : Keeps r v2 := by
    unfold v2; split
    · refine Keeps.ite ?_ ?_
      · apply modRec_keeps; exact hv1
      · intro k6; exact hv1
    · exact hv1
  clear_value v2; split
  · refine Keeps.ite ?_ ?_
    · apply loseRank_keeps; exact hv2
    · intro k7; exact hv2
  · exact hv2

theorem commitKv_keeps {r : State} (s : State) (h : Keeps r s) : Keeps r (commitKv s) := by
  rw [show @commitKv = _ from by delta commitKv; exact rfl]; extract_lets +onlyGivenNames -underBinder v0
  have hv0 : Keeps r v0 := by unfold v0; apply boundaryTxns_keeps; apply replayEdits_keeps; exact h
  clear_value v0; refine Keeps.ite ?_ ?_
  · exact hv0
  · intro k1; extract_lets +onlyGivenNames -underBinder v2 v3; clear_value v2
    have hv3 : KeepsP r v3 := by unfold v3; apply kvOpen_keeps; exact k1
    clear_value v3; apply sendResponses_keeps; apply kvClose_keeps; refine KeepsP.fst ?_; exact hv3

theorem beginCopies_keeps {r : State} (s : State) (h : Keeps r s) : Keeps r (beginCopies s) := by
  rw [show @beginCopies = _ from by delta beginCopies; exact rfl]; refine Keeps.mk_iff.mpr ?_; exact h

theorem nextStep_keeps {r : State} (s : State) (mode : JobMode) (h : Keeps r s) : Keeps r (nextStep s mode) := by
  rw [show @nextStep = _ from by delta nextStep; exact rfl]
  extract_lets +onlyGivenNames -underBinder v0 v1 v2 v3 v4 v5
  have hv0 : Keeps r v0 := by
    unfold v0; refine Keeps.ite ?_ ?_
    · exact h
    · intro k6; apply beginSecuring_keeps
      · exact k6
      · exact k6
  clear_value v0; clear_value v1
  have hv2 : Keeps r v2 := by unfold v2; apply beginCopies_keeps; apply endReplay_keeps; exact hv0
  clear_value v2
  have hv3 : Keeps r v3 := by
    unfold v3; refine Keeps.ite ?_ ?_
    · exact hv2
    · intro k7; apply firstSeqs_keeps; exact k7
  clear_value v3
  have hv4 : Keeps r v4 := by unfold v4; apply beginStep_keeps; exact hv3
  clear_value v4
  have hv5 : Keeps r v5 := by unfold v5; apply modNet_keeps; exact hv4
  clear_value v5; apply settle_keeps; apply startFetches_keeps; exact hv5

theorem commits_keeps {r : State} (s : State) (h : Keeps r s) : Keeps r (commits s) := by
  rw [show @commits = _ from by delta commits; exact rfl]; extract_lets +onlyGivenNames -underBinder v0 v1 v2 v3 v4
  clear_value v0
  have hv1 : Keeps r v1 := by unfold v1; apply applyDecisions_keeps; apply releaseStretch_keeps; exact h
  clear_value v1
  have hv2 : Keeps r v2 := by unfold v2; apply boundaryTxns_keeps; apply replayWrites_keeps; exact hv1
  clear_value v2
  have hv3 : Keeps r v3 := by
    unfold v3; refine Keeps.ite ?_ ?_
    · exact hv2
    · intro k5; apply flip_keeps; exact k5
  clear_value v3
  have hv4 : Keeps r v4 := by unfold v4; apply commitKv_keeps; apply boundaryTxns_keeps; exact hv3
  clear_value v4; apply boundaryTxns_keeps; apply boundaryTxns_keeps; exact hv4

theorem commitBoundary_keeps {r : State} (s : State) (h : Keeps r s) : Keeps r (commitBoundary s) := by
  rw [show @commitBoundary = _ from by delta commitBoundary; exact rfl]
  extract_lets +onlyGivenNames -underBinder v0
  have hv0 : Keeps r v0 := by unfold v0; apply commits_keeps; exact h
  clear_value v0; refine Keeps.ite ?_ ?_
  · exact hv0
  · intro k1; apply nextStep_keeps; exact k1

theorem secureHeld_keeps {r : State} (s : State) (h : Keeps r s) : Keeps r (secureHeld s) := by
  rw [show @secureHeld = _ from by delta secureHeld; exact rfl]; extract_lets +onlyGivenNames -underBinder v0 v1
  have hv0 : Keeps r v0 := by unfold v0; apply commits_keeps; exact h
  clear_value v0; clear_value v1; apply modRec_keeps; apply beginSecuring_keeps
  · exact h
  · exact hv0

theorem advanceBoundary_keeps {r : State} (s : State) (h : Keeps r s) : Keeps r (advanceBoundary s) := by
  rw [show @advanceBoundary = _ from by delta advanceBoundary; exact rfl]
  extract_lets +onlyGivenNames -underBinder v0
  have hv0 : Keeps r v0 := by
    unfold v0; refine Keeps.ite ?_ ?_
    · exact h
    · intro k1; apply closeStep_keeps; exact k1
  clear_value v0; refine Keeps.ite ?_ ?_
  · exact hv0
  · intro k2; extract_lets +onlyGivenNames -underBinder v3
    have hv3 : Keeps r v3 := by unfold v3; apply logDecisions_keeps; exact k2
    clear_value v3; refine Keeps.ite ?_ ?_
    · refine Keeps.ite ?_ ?_
      · exact hv3
      · intro k4; apply secureHeld_keeps; exact k4
    · intro k5; apply commitBoundary_keeps; exact hv3

theorem execStepBoundary_keeps {r : State} (plan : List (Nat × Nat)) (s : State) (h : Keeps r s) : KeepsOut r
    (execStepBoundary plan s) := by
  rw [show @execStepBoundary = _ from by delta execStepBoundary; exact rfl]; split
  · refine KeepsOut.next ?_; exact h
  · split
    · refine KeepsOut.next ?_; apply fetchHold_keeps; exact h
    · refine KeepsOut.next ?_; apply advanceBoundary_keeps; apply openBoundary_keeps; exact h

theorem execLogEntryAck_keeps {r : State} (s : State) (h : Keeps r s) : KeepsOut r (execLogEntryAck s) := by
  rw [show @execLogEntryAck = _ from by delta execLogEntryAck; exact rfl]; refine KeepsOut.next ?_
  apply advanceBoundary_keeps; apply modRec_keeps; exact h

theorem execSecureCaptureDone_keeps {r : State} (e : Option Nat) (s : State) (h : Keeps r s) : KeepsOut r
    (execSecureCaptureDone e s) := by
  rw [show @execSecureCaptureDone = _ from by delta execSecureCaptureDone; exact rfl]; split
  · refine KeepsOut.next ?_; exact h
  · split
    · refine KeepsOut.next ?_; exact h
    · refine KeepsOut.next ?_; apply advanceBoundary_keeps; apply endCapture_keeps; exact h

theorem execSecureCommit_keeps {r : State} (s : State) (h : Keeps r s) : KeepsOut r (execSecureCommit s) := by
  rw [show @execSecureCommit = _ from by delta execSecureCommit; exact rfl]; split
  · refine KeepsOut.next ?_; exact h
  · split
    · refine KeepsOut.next ?_; apply advanceBoundary_keeps; apply commitSecuring_keeps; exact h
    · refine KeepsOut.next ?_; exact h

end Sys2Proof.Machine
end

