-- ==== Sys2Proof/Laws/KeepsSystem.lean ====
section
/-!
SUPPORT. That recovery, the condition of memory, power, the completion of operations and the tick keep what `Keeps` says.
-/
namespace Sys2Proof.Machine

theorem takeRec_keeps {r : State} (s : State) (op : Nat) (h : Keeps r s) : KeepsOpt r (takeRec s op) := by
  rw [show @takeRec = _ from by delta takeRec; exact rfl]; refine KeepsOpt.mapS ?_ ?_
  · apply takeMessage_keeps; exact h
  · intro x0 k1; exact k1

theorem sendDown_keeps {r : State} (s : State) (m : RecMsg) (h : Keeps r s) : Keeps r (sendDown s m) := by
  rw [show @sendDown = _ from by delta sendDown; exact rfl]; extract_lets +onlyGivenNames -underBinder v0 v1
  clear_value v0; clear_value v1; apply recTo_keeps; refine Keeps.foldl ?_ ?_
  · intro x2 x3 k4; apply recTo_keeps; exact k4
  · exact h

theorem forwardDown_keeps {r : State} (s : State) (m : RecMsg) (h : Keeps r s) : Keeps r (forwardDown s m) := by
  rw [show @forwardDown = _ from by delta forwardDown; exact rfl]; extract_lets +onlyGivenNames -underBinder v0 v1
  clear_value v0; clear_value v1; refine Keeps.ite ?_ ?_
  · extract_lets +onlyGivenNames -underBinder v2; clear_value v2; refine Keeps.foldl ?_ ?_
    · intro x3 x4 k5; apply recTo_keeps; exact k5
    · exact h
  · intro k6; exact h

theorem gather_keeps {r : State} (s : State) (m : RecMsg) (h : Keeps r s) : KeepsP r (gather s m) := by
  rw [show @gather = _ from by delta gather; exact rfl]; extract_lets +onlyGivenNames -underBinder v0 v1 v2
  clear_value v0; clear_value v1; clear_value v2; refine KeepsP.mk ?_; apply modRec_keeps; exact h

theorem haltAll_keeps {r : State} (s : State) (code : Nat) (h : Keeps r s) : Keeps r (haltAll s code) := by
  rw [show @haltAll = _ from by delta haltAll; exact rfl]; apply sendDown_keeps; exact h

theorem askSpare_keeps {r : State} (s : State) (rank : Nat) (tried : List Nat) (h : Keeps r s) : Keeps r (askSpare s
    rank tried) := by
  rw [show @askSpare = _ from by delta askSpare; exact rfl]; split
  · apply haltAll_keeps; exact h
  · extract_lets +onlyGivenNames -underBinder v0 v1; clear_value v0
    have hv1 : Keeps r v1 := by unfold v1; apply modRec_keeps; exact h
    clear_value v1; apply send_keeps; exact hv1

theorem nextJoin_keeps {r : State} (s : State) (h : Keeps r s) : Keeps r (nextJoin s) := by
  rw [show @nextJoin = _ from by delta nextJoin; exact rfl]; refine Keeps.ite ?_ ?_
  · split
    · apply askSpare_keeps; exact h
    · exact h
  · intro k0; exact h

theorem startRollback_keeps {r : State} (s : State) (g : Nat) (spares : List (Nat × Nat)) (h : Keeps r s) : Keeps r
    (startRollback s g spares) := by
  rw [show @startRollback = _ from by delta startRollback; exact rfl]
  extract_lets +onlyGivenNames -underBinder v0 v1; clear_value v0
  have hv1 : Keeps r v1 := by unfold v1; apply modRec_keeps; exact h
  clear_value v1; apply nextJoin_keeps; apply sendDown_keeps; exact hv1

theorem startRecovery_keeps {r : State} (s : State) (h : Keeps r s) : Keeps r (startRecovery s) := by
  rw [show @startRecovery = _ from by delta startRecovery; exact rfl]; refine Keeps.ite ?_ ?_
  · split
    · apply startRollback_keeps; exact h
    · apply haltAll_keeps; exact h
  · intro k0; apply haltAll_keeps; exact h

theorem beginRecovery_keeps {r : State} (s : State) (h : Keeps r s) : Keeps r (beginRecovery s) := by
  rw [show @beginRecovery = _ from by delta beginRecovery; exact rfl]; refine Keeps.ite ?_ ?_
  · apply startRecovery_keeps; exact h
  · intro k0; extract_lets +onlyGivenNames -underBinder v1
    have hv1 : KeepsP r v1 := by unfold v1; apply beginPause_keeps; exact h
    clear_value v1; refine Keeps.ite ?_ ?_
    · exact k0
    · intro k2; refine KeepsP.fst ?_; exact hv1

theorem applyRecovery_keeps {r : State} (s : State) (b : List Byte) (h : Keeps r s) : Keeps r (applyRecovery s b) :=
    by
  rw [show @applyRecovery = _ from by delta applyRecovery; exact rfl]; refine Keeps.ite ?_ ?_
  · extract_lets +onlyGivenNames -underBinder v0; clear_value v0; apply startRollback_keeps; exact h
  · intro k1; apply haltAll_keeps; exact h

theorem noteFault_keeps {r : State} (s : State) (m : RecMsg) (h : Keeps r s) : Keeps r (noteFault s m) := by
  rw [show @noteFault = _ from by delta noteFault; exact rfl]; apply modRec_keeps; exact h

theorem execFaultMessage_keeps {r : State} (s : State) (h : Keeps r s) : KeepsOut r (execFaultMessage s) := by
  rw [show @execFaultMessage = _ from by delta execFaultMessage; exact rfl]; split
  · refine KeepsOut.next ?_; exact h
  · split
    · refine KeepsOut.next ?_; refine Keeps.of_opt ?_ (by assumption); apply takeRec_keeps; exact h
    · extract_lets +onlyGivenNames -underBinder v0 v1 v2 v3; clear_value v0; clear_value v1; clear_value v2
      have hv3 : Keeps r v3 := by
        unfold v3; apply noteFault_keeps; refine Keeps.of_opt ?_ (by assumption); apply takeRec_keeps; exact h
      clear_value v3; split
      · split
        · refine KeepsOut.next ?_; apply haltAll_keeps; exact hv3
        · split
          · refine KeepsOut.next ?_; exact hv3
          · split
            · refine KeepsOut.next ?_; apply startRecovery_keeps; exact hv3
            · refine KeepsOut.next ?_; apply beginRecovery_keeps; exact hv3
      · split
        · refine KeepsOut.next ?_; apply beginRecovery_keeps; apply modRec_keeps; exact hv3
        · refine KeepsOut.next ?_; exact hv3

theorem execTakeover_keeps {r : State} (s : State) (h : Keeps r s) : KeepsOut r (execTakeover s) := by
  rw [show @execTakeover = _ from by delta execTakeover; exact rfl]; split
  · refine KeepsOut.next ?_; exact h
  · split
    · refine KeepsOut.next ?_; refine Keeps.of_opt ?_ (by assumption); apply takeRec_keeps; exact h
    · extract_lets +onlyGivenNames -underBinder v0
      have hv0 : Keeps r v0 := by
        unfold v0; apply modRec_keeps; refine Keeps.of_opt ?_ (by assumption); apply takeRec_keeps; exact h
      clear_value v0; refine KeepsOut.next ?_; refine Keeps.ite ?_ ?_
      · apply startRecovery_keeps; exact hv0
      · intro k1; exact hv0

theorem beginRestore_keeps {r : State} (s : State) (g : Nat) (h : Keeps r s) : Keeps r (beginRestore s g) := by
  rw [show @beginRestore = _ from by delta beginRestore; exact rfl]; refine Keeps.ite ?_ ?_
  · refine Keeps.ite ?_ ?_
    · apply recTo_keeps; apply modRec_keeps; exact h
    · intro k0; apply haltJob_keeps; exact h
  · intro k1; apply modRec_keeps; exact h

theorem rollBack_keeps {r : State} (s : State) (g : Nat) (h : Keeps r s) (hm : r.JobOk → s.mode ≠ .idle) :
    Keeps r (rollBack s g) := by
  rw [show @rollBack = _ from by delta rollBack; exact rfl]
  extract_lets +onlyGivenNames -underBinder v0 v1 v2 v3 v4 v5 v6; clear_value v0; clear_value v1
  have hv2 : Keeps r v2 := by unfold v2; apply dropMaps_keeps; apply clearWork_keeps; exact h
  have m2 : Modes s v2 := by unfold v2; apply dropMaps_modes; apply clearWork_modes; exact Modes.refl s
  clear_value v2
  have hv3 : Keeps r v3 := by unfold v3; apply modDun_keeps; exact hv2
  have m3 : Modes s v3 := by unfold v3; apply modDun_modes; exact m2
  clear_value v3; clear_value v4
  have hv5 : Keeps r v5 := by unfold v5; apply setReg_keeps; refine Keeps.mk_iff.mpr ?_; exact hv3
  have m5 : Modes s v5 := by unfold v5; apply setReg_modes; refine Modes.mk_iff.mpr ?_; exact m3
  clear_value v5
  have hv6 : Keeps r v6 := by unfold v6; apply modRec_keeps; apply markReplay_keeps; exact hv5
  have m6 : Modes s v6 := by unfold v6; apply modRec_modes; apply markReplay_modes; exact m5
  clear_value v6; extract_lets +onlyGivenNames -underBinder v7
  have hv7 : Keeps r v7 := by unfold v7; apply modNet_keeps; apply newEpoch_keeps; exact hv6
  have m7 : Modes s v7 := by unfold v7; apply modNet_modes; apply newEpoch_modes; exact m6
  clear_value v7; apply beginRestore_keeps
  refine setDev_keeps _ _ (Keeps.mk_iff.mpr hv7) fun k _ => ?_
  exact modesAgree_job (fun e => hm k (m7.mode.symm.trans e)) (.inr rfl)

theorem execRollback_keeps {r : State} (s : State) (h : Keeps r s) : KeepsOut r (execRollback s) := by
  rw [show @execRollback = _ from by delta execRollback; exact rfl]; split
  · refine KeepsOut.next ?_; exact h
  · split
    · refine KeepsOut.next ?_; refine Keeps.of_opt ?_ (by assumption); apply takeRec_keeps; exact h
    · extract_lets +onlyGivenNames -underBinder v0
      rename_i u hu hd
      have hk : Keeps r u := by refine Keeps.of_opt ?_ hu; apply takeRec_keeps; exact h
      have hv0 : Keeps r v0 := by unfold v0; apply modRec_keeps; exact hk
      have m0 : Modes u v0 := by unfold v0; apply modRec_modes; exact Modes.refl u
      clear_value v0; refine KeepsOut.next (rollBack_keeps _ _ (forwardDown_keeps _ _ hv0) fun k e => ?_)
      refine (hk.job k).1 ?_ ((forwardDown_modes _ _ m0).mode.symm.trans e)
      by_cases x : u.dev = .running
      · exact .inl x
      · exact .inr (Decidable.of_not_not fun y => hd ⟨x, y⟩)

theorem finishRestore_keeps {r : State} (s : State) (g : Gen) (h : Keeps r s) : Keeps r (finishRestore s g) := by
  rw [show @finishRestore = _ from by delta finishRestore; exact rfl]; extract_lets +onlyGivenNames -underBinder v0
  have hv0 : Keeps r v0 := by unfold v0; apply modRec_keeps; apply restoreContent_keeps; exact h
  clear_value v0; apply sendUp_keeps; exact hv0

theorem restoreFault_keeps {r : State} (s : State) (h : Keeps r s) : Keeps r (restoreFault s) := by
  rw [show @restoreFault = _ from by delta restoreFault; exact rfl]; apply reportFault_keeps; apply modRec_keeps
  exact h

theorem execRestoreComplete_keeps {r : State} (s : State) (h : Keeps r s) : KeepsOut r (execRestoreComplete s) := by
  rw [show @execRestoreComplete = _ from by delta execRestoreComplete; exact rfl]; split
  · refine KeepsOut.next ?_; exact h
  · extract_lets +onlyGivenNames -underBinder v0; clear_value v0; refine KeepsOut.next ?_; refine Keeps.ite ?_ ?_
    · apply restoreFault_keeps; exact h
    · intro k1; apply finishRestore_keeps; exact h

theorem execImageReq_keeps {r : State} (s : State) (h : Keeps r s) : KeepsOut r (execImageReq s) := by
  rw [show @execImageReq = _ from by delta execImageReq; exact rfl]; split
  · refine KeepsOut.next ?_; exact h
  · split
    · refine KeepsOut.next ?_; refine Keeps.ite ?_ ?_
      · refine Keeps.of_opt ?_ (by assumption); apply takeRec_keeps; exact h
      · intro k0; apply restoreFault_keeps; exact k0
    · split
      · refine KeepsOut.next ?_; apply recTo_keeps; refine Keeps.of_opt ?_ (by assumption); apply takeRec_keeps
        exact h
      · extract_lets +onlyGivenNames -underBinder v1; clear_value v1; refine KeepsOut.next ?_; apply toBuddy_keeps
        apply toBuddy_keeps; refine Keeps.of_opt ?_ (by assumption); apply takeRec_keeps; exact h

theorem holdGen_keeps {r : State} (s : State) (g : Gen) (h : Keeps r s) : Keeps r (holdGen s g) := by
  rw [show @holdGen = _ from by delta holdGen; exact rfl]; extract_lets +onlyGivenNames -underBinder v0 v1 v2
  clear_value v0; clear_value v1
  have hv2 : Keeps r v2 := by unfold v2; apply modRec_keeps; exact h
  clear_value v2; apply reportSecured_keeps; apply setElems_keeps; exact hv2

theorem takeImage_keeps {r : State} (s : State) (b : List Byte) (h : Keeps r s) : Keeps r (takeImage s b) := by
  rw [show @takeImage = _ from by delta takeImage; exact rfl]; extract_lets +onlyGivenNames -underBinder v0
  clear_value v0; refine Keeps.ite ?_ ?_
  · refine Keeps.ite ?_ ?_
    · exact h
    · intro k1; apply holdGen_keeps; exact k1
  · intro k2; refine Keeps.ite ?_ ?_
    · apply restoreFault_keeps; exact h
    · intro k3; apply finishRestore_keeps; exact h

theorem execBuddyStreamRx_keeps {r : State} (s : State) (h : Keeps r s) : KeepsOut r (execBuddyStreamRx s) := by
  rw [show @execBuddyStreamRx = _ from by delta execBuddyStreamRx; exact rfl]; split
  · refine KeepsOut.next ?_; exact h
  · extract_lets +onlyGivenNames -underBinder v0; clear_value v0; split
    · refine KeepsOut.next ?_; apply takeImage_keeps; refine Keeps.of_opt ?_ (by assumption)
      apply takeMessage_keeps; exact h
    · refine KeepsOut.next ?_; apply modRec_keeps; refine Keeps.of_opt ?_ (by assumption); apply takeMessage_keeps
      exact h
    · split
      · extract_lets +onlyGivenNames -underBinder v1
        have hv1 : Keeps r v1 := by
          unfold v1; apply modRec_keeps; refine Keeps.of_opt ?_ (by assumption); apply takeMessage_keeps; exact h
        clear_value v1; refine KeepsOut.next ?_; apply countLog_keeps; apply markReplay_keeps; exact hv1
      · refine KeepsOut.next ?_; refine Keeps.of_opt ?_ (by assumption); apply takeMessage_keeps; exact h

theorem redrawEntries_keeps {r : State} (s : State) (l : List (Nat × List Byte)) (h : Keeps r s) : Keeps r
    (redrawEntries s l) := by
  rw [show @redrawEntries = _ from by delta redrawEntries; exact rfl]; split
  · exact h
  · extract_lets +onlyGivenNames -underBinder v0
    have hv0 : Keeps r v0 := by unfold v0; apply redraw_keeps; exact h
    clear_value v0; refine Keeps.ite ?_ ?_
    · exact hv0
    · intro k1; apply modRec_keeps; exact k1

theorem execRedraw_keeps {r : State} (s : State) (h : Keeps r s) : KeepsOut r (execRedraw s) := by
  rw [show @execRedraw = _ from by delta execRedraw; exact rfl]; split
  · refine KeepsOut.next ?_; exact h
  · split
    · refine KeepsOut.next ?_; refine Keeps.of_opt ?_ (by assumption); apply takeRec_keeps; exact h
    · split
      · refine KeepsOut.next ?_; exact h
      · extract_lets +onlyGivenNames -underBinder v0
        have hv0 : Keeps r v0 := by
          unfold v0; apply forwardDown_keeps; refine Keeps.of_opt ?_ (by assumption); apply takeRec_keeps; exact h
        clear_value v0; split
        · refine KeepsOut.next ?_; apply beginRestore_keeps; apply modRec_keeps; exact hv0
        · extract_lets +onlyGivenNames -underBinder v1; clear_value v1; split
          · extract_lets +onlyGivenNames -underBinder v2
            have hv2 : KeepsP r v2 := by unfold v2; apply beginPause_keeps; exact hv0
            clear_value v2; refine KeepsOut.next ?_; refine Keeps.ite ?_ ?_
            · apply redrawEntries_keeps; exact hv0
            · intro k3; refine KeepsP.fst ?_; exact hv2
          · refine KeepsOut.next ?_; apply redrawEntries_keeps; exact hv0

theorem joined'_keeps {r : State} (s : State) (rank : Nat) (h : Keeps r s) : Keeps r (joined' s rank) := by
  rw [show @joined' = _ from by delta joined'; exact rfl]; split
  · exact h
  · extract_lets +onlyGivenNames -underBinder v0 v1; clear_value v0
    have hv1 : Keeps r v1 := by unfold v1; apply modRec_keeps; exact h
    clear_value v1; apply nextJoin_keeps; apply sendDown_keeps; exact hv1

theorem execJoinTransaction_keeps {r : State} (x : JoinSide) (s : State) (h : Keeps r s) : KeepsOut r
    (execJoinTransaction x s) := by
  rw [show @execJoinTransaction = _ from by delta execJoinTransaction; exact rfl]; split
  · refine KeepsOut.next ?_; apply joinCommit_keeps; exact h
  · refine KeepsOut.next ?_; refine Keeps.ite ?_ ?_
    · exact h
    · intro k0; apply joined'_keeps; exact k0

theorem execJoinTimeout_keeps {r : State} (rank : Nat) (s : State) (h : Keeps r s) : KeepsOut r (execJoinTimeout
    rank s) := by
  rw [show @execJoinTimeout = _ from by delta execJoinTimeout; exact rfl]; split
  · refine KeepsOut.next ?_; exact h
  · refine KeepsOut.next ?_; refine Keeps.ite ?_ ?_
    · exact h
    · intro k0; apply askSpare_keeps; exact k0

theorem execRestored_keeps {r : State} (s : State) (h : Keeps r s) : KeepsOut r (execRestored s) := by
  rw [show @execRestored = _ from by delta execRestored; exact rfl]; split
  · refine KeepsOut.next ?_; exact h
  · split
    · refine KeepsOut.next ?_; refine Keeps.ite ?_ ?_
      · refine Keeps.of_opt ?_ (by assumption); apply takeRec_keeps; exact h
      · intro k0; apply sendUp_keeps; exact k0
    · split
      · refine KeepsOut.next ?_; refine Keeps.of_opt ?_ (by assumption); apply takeRec_keeps; exact h
      · split; split
        · refine KeepsOut.next ?_; refine Keeps.of_pair ?_ (by assumption); apply gather_keeps
          refine Keeps.of_opt ?_ (by assumption); apply takeRec_keeps; exact h
        · refine KeepsOut.next ?_; apply sendDown_keeps; refine Keeps.of_pair ?_ (by assumption); apply gather_keeps
          refine Keeps.of_opt ?_ (by assumption); apply takeRec_keeps; exact h

theorem execStart_keeps {r : State} (s : State) (h : Keeps r s) : KeepsOut r (execStart s) := by
  rw [show @execStart = _ from by delta execStart; exact rfl]; split
  · refine KeepsOut.next ?_; exact h
  · split
    · refine KeepsOut.next ?_; refine Keeps.of_opt ?_ (by assumption); apply takeRec_keeps; exact h
    · split
      · refine KeepsOut.next ?_; exact h
      · extract_lets +onlyGivenNames -underBinder v0 v1 v2 v3
        have hv0 : Keeps r v0 := by
          unfold v0; apply setReg_keeps; apply setReg_keeps; apply forwardDown_keeps
          refine Keeps.of_opt ?_ (by assumption); apply takeRec_keeps; exact h
        clear_value v0
        have hv1 : Keeps r v1 := by unfold v1; apply modRec_keeps; exact hv0
        clear_value v1; clear_value v2; clear_value v3; extract_lets +onlyGivenNames -underBinder v4
        have hv4 : Keeps r v4 := by unfold v4; apply beginStep_keeps; refine Keeps.mk_iff.mpr ?_; exact hv1
        clear_value v4; refine KeepsOut.next ?_; apply startFetches_keeps; apply modNet_keeps; exact hv4

theorem execReplayResult_keeps {r : State} (s : State) (h : Keeps r s) : KeepsOut r (execReplayResult s) := by
  rw [show @execReplayResult = _ from by delta execReplayResult; exact rfl]; split
  · refine KeepsOut.next ?_; exact h
  · split
    · refine KeepsOut.next ?_; refine Keeps.ite ?_ ?_
      · refine Keeps.of_opt ?_ (by assumption); apply takeRec_keeps; exact h
      · intro k0; apply sendUp_keeps; exact k0
    · split
      · refine KeepsOut.next ?_; refine Keeps.of_opt ?_ (by assumption); apply takeRec_keeps; exact h
      · split; split
        · refine KeepsOut.next ?_; apply haltAll_keeps; refine Keeps.of_pair ?_ (by assumption); apply gather_keeps
          refine Keeps.of_opt ?_ (by assumption); apply takeRec_keeps; exact h
        · split
          · refine KeepsOut.next ?_; refine Keeps.of_pair ?_ (by assumption); apply gather_keeps
            refine Keeps.of_opt ?_ (by assumption); apply takeRec_keeps; exact h
          · refine KeepsOut.next ?_; apply sendDown_keeps; refine Keeps.of_pair ?_ (by assumption)
            apply gather_keeps; refine Keeps.of_opt ?_ (by assumption); apply takeRec_keeps; exact h

theorem execResume_keeps {r : State} (s : State) (h : Keeps r s) : KeepsOut r (execResume s) := by
  rw [show @execResume = _ from by delta execResume; exact rfl]; split
  · refine KeepsOut.next ?_; exact h
  · split
    · refine KeepsOut.next ?_; refine Keeps.of_opt ?_ (by assumption); apply takeRec_keeps; exact h
    · extract_lets +onlyGivenNames -underBinder v0 v1 v2
      rename_i u hu hd
      have hk : Keeps r u := by refine Keeps.of_opt ?_ hu; apply takeRec_keeps; exact h
      have hv0 : Keeps r v0 := by unfold v0; apply forwardDown_keeps; exact hk
      have m0 : Modes u v0 := by unfold v0; apply forwardDown_modes; exact Modes.refl u
      clear_value v0
      have hv1 : Keeps r v1 := by unfold v1; apply setReg_keeps; apply setReg_keeps; apply bump_keeps; exact hv0
      have m1 : Modes u v1 := by unfold v1; apply setReg_modes; apply setReg_modes; apply bump_modes; exact m0
      clear_value v1
      have hv2 : Keeps r v2 := by unfold v2; apply modRec_keeps; exact hv1
      have m2 : Modes u v2 := by unfold v2; apply modRec_modes; exact m1
      clear_value v2; refine KeepsOut.next (setDev_keeps _ _ (Keeps.mk_iff.mpr hv2) fun k _ => ?_)
      refine modesAgree_job (fun e => (hk.job k).1 (.inr (Decidable.of_not_not hd)) ?_) (.inl rfl)
      exact m2.mode.symm.trans e

theorem execHalt_keeps {r : State} (s : State) (h : Keeps r s) : KeepsOut r (execHalt s) := by
  rw [show @execHalt = _ from by delta execHalt; exact rfl]; split
  · refine KeepsOut.next ?_; exact h
  · refine KeepsOut.next ?_; refine Keeps.ite ?_ ?_
    · refine Keeps.of_opt ?_ (by assumption); apply takeRec_keeps; exact h
    · intro k0; apply haltJob_keeps; apply forwardDown_keeps; exact k0

theorem execSecured_keeps {r : State} (s : State) (h : Keeps r s) : KeepsOut r (execSecured s) := by
  rw [show @execSecured = _ from by delta execSecured; exact rfl]; split
  · refine KeepsOut.next ?_; exact h
  · extract_lets +onlyGivenNames -underBinder v0 v1 v2 v3; clear_value v0; clear_value v1; clear_value v2
    have hv3 : Keeps r v3 := by
      unfold v3; refine Keeps.ite ?_ ?_
      · refine Keeps.of_opt ?_ (by assumption); apply takeRec_keeps; exact h
      · intro k4; apply modRec_keeps; exact k4
    clear_value v3; refine KeepsOut.next ?_; refine Keeps.ite ?_ ?_
    · exact hv3
    · intro k5; apply sendUp_keeps; exact k5

theorem modRas_keeps {r : State} (s : State) (f : RasState → RasState) (h : Keeps r s) : Keeps r (modRas s f) := by
  rw [show @modRas = _ from by delta modRas; exact rfl]; refine Keeps.mk_iff.mpr ?_; exact h

theorem decideRetire_keeps {r : State} (s : State) (c : Nat) (h : Keeps r s) : Keeps r (decideRetire s c) := by
  rw [show @decideRetire = _ from by delta decideRetire; exact rfl]; refine Keeps.ite ?_ ?_
  · apply modRas_keeps; exact h
  · intro k0; exact h

theorem keepChannel_keeps {r : State} (s : State) (c : Nat) (h : Keeps r s) : Keeps r (keepChannel s c) := by
  rw [show @keepChannel = _ from by delta keepChannel; exact rfl]; apply modRas_keeps; exact h

theorem checkLimit_keeps {r : State} (s : State) (c : Nat) (h : Keeps r s) : Keeps r (checkLimit s c) := by
  rw [show @checkLimit = _ from by delta checkLimit; exact rfl]; extract_lets +onlyGivenNames -underBinder v0
  clear_value v0; refine Keeps.ite ?_ ?_
  · refine Keeps.ite ?_ ?_
    · apply decideRetire_keeps; exact h
    · intro k1; extract_lets +onlyGivenNames -underBinder v2
      have hv2 : KeepsP r v2 := by unfold v2; apply beginPause_keeps; exact h
      clear_value v2; refine Keeps.ite ?_ ?_
      · exact k1
      · intro k3; refine KeepsP.fst ?_; exact hv2
  · intro k4; exact h

theorem retireChannel_keeps {r : State} (s : State) (c : Nat) (h : Keeps r s) : Keeps r (retireChannel s c) := by
  rw [show @retireChannel = _ from by delta retireChannel; exact rfl]
  extract_lets +onlyGivenNames -underBinder v0 v1 v2; clear_value v0
  have hv1 : Keeps r v1 := by unfold v1; apply needStore_keeps; apply setReg_keeps; exact h
  clear_value v1
  have hv2 : Keeps r v2 := by unfold v2; apply modRas_keeps; exact hv1
  clear_value v2; apply memLog_keeps; exact hv2

theorem writeBack_keeps {r : State} (s : State) (g : Nat) (errs : List SymErr) (h : Keeps r s) : Keeps r (writeBack
    s g errs) := by
  rw [show @writeBack = _ from by delta writeBack; exact rfl]; extract_lets +onlyGivenNames -underBinder v0
  clear_value v0; apply modRas_keeps; exact h

theorem scrubGranule_keeps {r : State} (s : State) (g : Nat) (errs mErrs : List SymErr) (wrote : Bool) (h : Keeps r
    s) : Keeps r (scrubGranule s g errs mErrs wrote) := by
  rw [show @scrubGranule = _ from by delta scrubGranule; exact rfl]; extract_lets +onlyGivenNames -underBinder v0 v1
  have hv0 : KeepsP r v0 := by unfold v0; apply readCopy_keeps; exact h
  clear_value v0
  have hv1 : Keeps r v1 := by
    unfold v1; refine Keeps.ite ?_ ?_
    · apply writeBack_keeps; refine KeepsP.fst ?_; exact hv0
    · intro k2; refine KeepsP.fst ?_; exact hv0
  clear_value v1; refine Keeps.ite ?_ ?_
  · split
    · refine Keeps.ite ?_ ?_
      · apply diverge_keeps; refine Keeps.of_pair ?_ (by assumption); apply readCopy_keeps; exact hv1
      · intro k3; refine Keeps.of_pair ?_ (by assumption); apply readCopy_keeps; exact hv1
    · apply repairPrimary_keeps; refine Keeps.of_pair ?_ (by assumption); apply readCopy_keeps; exact hv1
    · refine Keeps.of_pair ?_ (by assumption); apply readCopy_keeps; exact hv1
  · intro k4; exact hv1

theorem execScrubRead_keeps {r : State} (c : Fin 128) (errs mErrs : List SymErr) (wrote : Bool) (s : State) (h :
    Keeps r s) : KeepsOut r (execScrubRead c errs mErrs wrote s) := by
  rw [show @execScrubRead = _ from by delta execScrubRead; exact rfl]; extract_lets +onlyGivenNames -underBinder v0
  clear_value v0; split
  · refine KeepsOut.next ?_; exact h
  · extract_lets +onlyGivenNames -underBinder v1 v2
    have hv1 : Keeps r v1 := by unfold v1; apply scrubGranule_keeps; exact h
    clear_value v1
    have hv2 : Keeps r v2 := by unfold v2; apply modRas_keeps; exact hv1
    clear_value v2; refine KeepsOut.next ?_; apply checkLimit_keeps; exact hv2

theorem execScrubPassEnd_keeps {r : State} (c : Fin 128) (s : State) (h : Keeps r s) : KeepsOut r (execScrubPassEnd
    c s) := by
  rw [show @execScrubPassEnd = _ from by delta execScrubPassEnd; exact rfl]; split
  · refine KeepsOut.next ?_; exact h
  · extract_lets +onlyGivenNames -underBinder v0
    have hv0 : Keeps r v0 := by unfold v0; apply bump_keeps; apply checkLimit_keeps; exact h
    clear_value v0; refine KeepsOut.next ?_; apply modRas_keeps; exact hv0

theorem execChannelFailed_keeps {r : State} (c : Fin 128) (phy : Bool) (s : State) (h : Keeps r s) : KeepsOut r
    (execChannelFailed c phy s) := by
  rw [show @execChannelFailed = _ from by delta execChannelFailed; exact rfl]; split
  · refine KeepsOut.next ?_; exact h
  · split
    · extract_lets +onlyGivenNames -underBinder v0
      have hv0 : Keeps r v0 := by unfold v0; apply modRas_keeps; exact h
      clear_value v0; refine KeepsOut.next ?_; refine setDev_keeps _ _ ?_ fun _ _ => modesAgree_faulted _
      apply reportFault_keeps; exact hv0
    · extract_lets +onlyGivenNames -underBinder v1 v2 v3 v4 v5; clear_value v1; clear_value v2
      have hv3 : Keeps r v3 := by unfold v3; apply retireChannel_keeps; exact h
      clear_value v3
      have hv4 : Keeps r v4 := by unfold v4; apply modRas_keeps; exact hv3
      clear_value v4
      have hv5 : Keeps r v5 := by unfold v5; apply setReg_keeps; exact hv4
      clear_value v5; refine KeepsOut.next ?_; apply reportFault_keeps; exact hv5

theorem execRetireCopyDone_keeps {r : State} (c : Fin 128) (s : State) (h : Keeps r s) : KeepsOut r
    (execRetireCopyDone c s) := by
  rw [show @execRetireCopyDone = _ from by delta execRetireCopyDone; exact rfl]; refine KeepsOut.next ?_
  refine Keeps.ite ?_ ?_
  · exact h
  · intro k0; apply retireChannel_keeps; exact k0

theorem execRebuildComplete_keeps {r : State} (c : Fin 128) (s : State) (h : Keeps r s) : KeepsOut r
    (execRebuildComplete c s) := by
  rw [show @execRebuildComplete = _ from by delta execRebuildComplete; exact rfl]; refine KeepsOut.next ?_
  apply modRas_keeps; exact h

theorem loseLink_keeps {r : State} (s : State) (k : Fin 8) (h : Keeps r s) : Keeps r (loseLink s k) := by
  rw [show @loseLink = _ from by delta loseLink; exact rfl]; refine Keeps.ite ?_ ?_
  · extract_lets +onlyGivenNames -underBinder v0
    have hv0 : Keeps r v0 := by unfold v0; apply modRas_keeps; exact h
    clear_value v0; refine Keeps.ite ?_ ?_
    · refine setDev_keeps _ _ ?_ fun _ _ => modesAgree_faulted _; apply reportFault_keeps; exact hv0
    · intro k1; apply reportFault_keeps; exact hv0
  · intro k2; exact h

theorem execFlitRx_keeps {r : State} (k : Fin 8) (crcOk : Bool) (s : State) (h : Keeps r s) : KeepsOut r (execFlitRx
    k crcOk s) := by
  rw [show @execFlitRx = _ from by delta execFlitRx; exact rfl]; split
  · refine KeepsOut.next ?_; exact h
  · extract_lets +onlyGivenNames -underBinder v0
    have hv0 : Keeps r v0 := by unfold v0; apply modRas_keeps; exact h
    clear_value v0; refine KeepsOut.next ?_; apply reportFault_keeps; exact hv0

theorem execD2dLaneFail_keeps {r : State} (k : Fin 8) (s : State) (h : Keeps r s) : KeepsOut r (execD2dLaneFail k s)
    := by
  rw [show @execD2dLaneFail = _ from by delta execD2dLaneFail; exact rfl]; split
  · refine KeepsOut.next ?_; exact h
  · split
    · refine KeepsOut.next ?_; apply loseLink_keeps; exact h
    · extract_lets +onlyGivenNames -underBinder v0
      have hv0 : Keeps r v0 := by unfold v0; apply modRas_keeps; exact h
      clear_value v0; refine KeepsOut.next ?_; apply reportFault_keeps; exact hv0

theorem execD2dLinkLoss_keeps {r : State} (k : Fin 8) (s : State) (h : Keeps r s) : KeepsOut r (execD2dLinkLoss k s)
    := by
  rw [show @execD2dLinkLoss = _ from by delta execD2dLinkLoss; exact rfl]; refine KeepsOut.next ?_
  refine Keeps.ite ?_ ?_
  · apply loseLink_keeps; exact h
  · intro k0; exact h

theorem handOver_keeps {r : State} (s : State) (h : Keeps r s) : Keeps r (handOver s) := by
  rw [show @handOver = _ from by delta handOver; exact rfl]; extract_lets +onlyGivenNames -underBinder v0
  clear_value v0; refine Keeps.ite ?_ ?_
  · apply recTo_keeps; apply modRec_keeps; exact h
  · intro k1; exact h

theorem execMgmtWdtExpiry_keeps {r : State} (late : Bool) (s : State) (h : Keeps r s) : KeepsOut r
    (execMgmtWdtExpiry late s) := by
  rw [show @execMgmtWdtExpiry = _ from by delta execMgmtWdtExpiry; exact rfl]; split
  · refine KeepsOut.next ?_; exact h
  · split
    · refine KeepsOut.next ?_; apply lateAccept_keeps; exact h
    · extract_lets +onlyGivenNames -underBinder v0 v1
      have hv0 : Keeps r v0 := by unfold v0; apply endSessions_keeps; apply handOver_keeps; exact h
      clear_value v0
      have hv1 : Keeps r v1 := by unfold v1; apply modPower_keeps; apply bump_keeps; exact hv0
      clear_value v1; refine KeepsOut.next ?_; apply reportFault_keeps; exact hv1

theorem execDormerRestartDone_keeps {r : State} (s : State) (h : Keeps r s) : KeepsOut r (execDormerRestartDone s)
    := by
  rw [show @execDormerRestartDone = _ from by delta execDormerRestartDone; exact rfl]; refine KeepsOut.next ?_
  refine Keeps.ite ?_ ?_
  · exact h
  · intro k0; apply modPower_keeps; exact k0

theorem execColdStart_keeps {r : State} (x : StartRun) (s : State) (h : Keeps r s) : KeepsOut r (execColdStart x s)
    := by
  rw [show @execColdStart = _ from by delta execColdStart; exact rfl]; split
  · refine KeepsOut.next ?_; exact h
  · extract_lets +onlyGivenNames -underBinder v0
    have hv0 : Keeps r v0 := by unfold v0; apply modPower_keeps; exact h
    clear_value v0; split
    · refine KeepsOut.next ?_; exact hv0
    · refine KeepsOut.next ?_; apply beginStart_keeps; exact hv0

theorem execStop_keeps {r : State} (s : State) (h : Keeps r s) : KeepsOut r (execStop s) := by
  rw [show @execStop = _ from by delta execStop; exact rfl]; extract_lets +onlyGivenNames -underBinder v0
  have hv0 : Keeps r v0 := by unfold v0; apply modPower_keeps; exact h
  clear_value v0; split
  · refine KeepsOut.next ?_; apply modPower_keeps; apply powerOff_keeps; apply endStore_keeps
    apply beginStore_keeps; apply endStore_keeps; exact hv0
  · split
    · refine KeepsOut.next ?_; apply modPower_keeps; apply powerOff_keeps; exact hv0
    · refine KeepsOut.next ?_; exact hv0

theorem execRstNAssert_keeps {r : State} (s : State) (h : Keeps r s) : KeepsOut r (execRstNAssert s) := by
  rw [show @execRstNAssert = _ from by delta execRstNAssert; exact rfl]
  extract_lets +onlyGivenNames -underBinder v0
  have hv0 : Keeps r v0 := by unfold v0; apply modPower_keeps; exact h
  clear_value v0; refine KeepsOut.next ?_; refine Keeps.ite ?_ ?_
  · exact hv0
  · intro k1; apply beginStart_keeps; exact k1

theorem execRstNRelease_keeps {r : State} (x : StartRun) (s : State) (h : Keeps r s) : KeepsOut r (execRstNRelease x
    s) := by
  rw [show @execRstNRelease = _ from by delta execRstNRelease; exact rfl]
  extract_lets +onlyGivenNames -underBinder v0
  have hv0 : Keeps r v0 := by unfold v0; apply modPower_keeps; exact h
  clear_value v0; refine KeepsOut.next ?_; split
  · apply beginStart_keeps; exact hv0
  · exact hv0

theorem execInputInRange_keeps {r : State} (x : StartRun) (s : State) (h : Keeps r s) : KeepsOut r (execInputInRange
    x s) := by
  rw [show @execInputInRange = _ from by delta execInputInRange; exact rfl]
  extract_lets +onlyGivenNames -underBinder v0
  have hv0 : Keeps r v0 := by unfold v0; apply modPower_keeps; exact h
  clear_value v0; refine KeepsOut.next ?_; refine Keeps.ite ?_ ?_
  · exact hv0
  · intro k1; apply beginStart_keeps; exact k1

theorem execReferencePresent_keeps {r : State} (x : StartRun) (s : State) (h : Keeps r s) : KeepsOut r
    (execReferencePresent x s) := by
  rw [show @execReferencePresent = _ from by delta execReferencePresent; exact rfl]
  extract_lets +onlyGivenNames -underBinder v0
  have hv0 : Keeps r v0 := by unfold v0; apply modPower_keeps; exact h
  clear_value v0; refine KeepsOut.next ?_; split
  · apply beginStart_keeps; exact hv0
  · refine Keeps.ite ?_ ?_
    · exact hv0
    · intro k1; apply setReg_keeps; exact k1

theorem sleepLoss_keeps {r : State} (s : State) (h : Keeps r s) : Keeps r (sleepLoss s) := by
  rw [show @sleepLoss = _ from by delta sleepLoss; exact rfl]
  refine setReg_keeps _ _ _ (setReg_keeps _ _ _ (Keeps.foldl (fun t x k => modCore_keeps _ _ _ k) ?_))
  exact h.update (fun k => filter_wf _ k) id

theorem execStateTransitionDone_keeps {r : State} (bad : List (Fin 128)) (s : State) (h : Keeps r s) : KeepsOut r
    (execStateTransitionDone bad s) := by
  rw [show @execStateTransitionDone = _ from by delta execStateTransitionDone; exact rfl]; split
  · refine KeepsOut.next ?_; exact h
  · extract_lets +onlyGivenNames -underBinder v0 v1
    have hv1 : Keeps r v1 := by unfold v1; apply modPower_keeps; exact h
    have m1 : Modes s v1 := by unfold v1; apply modPower_modes; exact Modes.refl s
    clear_value v1; split
    · refine KeepsOut.next ?_; split
      · rename_i hd
        refine setDev_keeps _ _ (sleepLoss_keeps _ hv1) fun k _ => ?_
        have e : (sleepLoss v1).mode = .idle :=
          (sleepLoss_modes _ (Modes.refl v1)).mode.trans (modesAgree.idle (hv1.job k) (by simp [hd]) (by simp [hd]) (by simp [hd]))
        rw [e]; exact modesAgree_idle nofun nofun
      · exact hv1
    · split
      · refine KeepsOut.next ?_; exact hv1
      · rename_i hw
        extract_lets +onlyGivenNames -underBinder v3
        have hv3 : Keeps r v3 := by
          unfold v3; refine Keeps.ite ?_ ?_
          · exact hv1
          · intro k4; refine Keeps.foldl ?_ ?_
            · intro x5 x6 k7; apply retireAtStart_keeps; exact k7
            · apply needStore_keeps; exact hv1
        have m3 : Modes v1 v3 := by
          unfold v3; refine Modes.ite (Modes.refl _) fun _ => Modes.foldl (fun x5 x6 k7 => ?_) ?_
          · apply retireAtStart_modes; exact k7
          · apply needStore_modes; exact Modes.refl _
        clear_value v3; split
        · refine KeepsOut.next ?_; refine setDev_keeps _ _ ?_ fun _ _ => modesAgree_faulted _; apply reportFault_keeps; exact hv3
        · refine KeepsOut.next (setDev_keeps _ _ hv3 fun k _ => ?_)
          have e : v3.mode = .idle := m3.mode.trans
            (modesAgree.idle (hv1.job k) (fun x => by simp [x, v0, ← m1.dev] at hw) (fun x => by simp [x, v0, ← m1.dev] at hw)
              (fun x => by simp [x, v0, ← m1.dev] at hw))
          rw [e]; exact modesAgree_idle nofun nofun
    · refine KeepsOut.next ?_; split
      · rename_i hd
        refine setDev_keeps _ _ hv1 fun k _ => ?_
        have e : v1.mode = .idle := modesAgree.idle (hv1.job k) (by simp [hd]) (by simp [hd]) (by simp [hd])
        rw [e]; exact modesAgree_idle nofun nofun
      · exact hv1

theorem execStoreWrite_keeps {r : State} (s : State) (h : Keeps r s) : KeepsOut r (execStoreWrite s) := by
  rw [show @execStoreWrite = _ from by delta execStoreWrite; exact rfl]; split
  · refine KeepsOut.next ?_; exact h
  · split
    · refine KeepsOut.next ?_; apply endStore_keeps; exact h
    · refine KeepsOut.next ?_; refine Keeps.ite ?_ ?_
      · exact h
      · intro k0; apply endStore_keeps; apply beginStore_keeps; exact k0

theorem execStoreWriteTimer_keeps {r : State} (s : State) (h : Keeps r s) : KeepsOut r (execStoreWriteTimer s) := by
  rw [show @execStoreWriteTimer = _ from by delta execStoreWriteTimer; exact rfl]; refine KeepsOut.next ?_
  refine Keeps.ite ?_ ?_
  · exact h
  · intro k0; apply beginStore_keeps; exact k0

theorem putBank_keeps {r : State} (s : State) (b : Nat) (x : Bank) (h : Keeps r s) : Keeps r (putBank s b x) := by
  rw [show @putBank = _ from by delta putBank; exact rfl]; apply modPower_keeps; exact h

theorem execFwProgramDone_keeps {r : State} (s : State) (h : Keeps r s) : KeepsOut r (execFwProgramDone s) := by
  rw [show @execFwProgramDone = _ from by delta execFwProgramDone; exact rfl]; split
  · refine KeepsOut.next ?_; exact h
  · extract_lets +onlyGivenNames -underBinder v0 v1; clear_value v0
    have hv1 : Keeps r v1 := by unfold v1; apply putBank_keeps; exact h
    clear_value v1; refine KeepsOut.next ?_; apply modPower_keeps; exact hv1

theorem execFwCheckDone_keeps {r : State} (s : State) (h : Keeps r s) : KeepsOut r (execFwCheckDone s) := by
  rw [show @execFwCheckDone = _ from by delta execFwCheckDone; exact rfl]; split
  · refine KeepsOut.next ?_; exact h
  · extract_lets +onlyGivenNames -underBinder v0; clear_value v0; refine KeepsOut.next ?_; refine Keeps.ite ?_ ?_
    · apply setReg_keeps; apply recordOf_keeps; exact h
    · intro k1; apply setReg_keeps; apply recordOf_keeps; exact h

theorem execAntiRollback_keeps {r : State} (s : State) (h : Keeps r s) : KeepsOut r (execAntiRollback s) := by
  rw [show @execAntiRollback = _ from by delta execAntiRollback; exact rfl]; refine KeepsOut.next ?_
  refine Keeps.ite ?_ ?_
  · exact h
  · intro k0; apply setReg_keeps; exact k0

theorem thermalEvent_keeps {r : State} (s : State) (z kind : Nat) (t : W32) (h : Keeps r s) : Keeps r (thermalEvent
    s z kind t) := by
  rw [show @thermalEvent = _ from by delta thermalEvent; exact rfl]; apply raiseEvent_keeps; exact h

theorem moveCap_keeps {r : State} (s : State) (h : Keeps r s) : Keeps r (moveCap s) := by
  rw [show @moveCap = _ from by delta moveCap; exact rfl]; extract_lets +onlyGivenNames -underBinder v0
  clear_value v0; apply modPower_keeps; apply bumpIf_keeps; exact h

theorem thermalPause_keeps {r : State} (s : State) (h : Keeps r s) : Keeps r (thermalPause s) := by
  rw [show @thermalPause = _ from by delta thermalPause; exact rfl]; refine Keeps.ite ?_ ?_
  · extract_lets +onlyGivenNames -underBinder v0
    have hv0 : KeepsP r v0 := by unfold v0; apply beginPause_keeps; exact h
    clear_value v0; refine Keeps.ite ?_ ?_
    · apply modPower_keeps; exact h
    · intro k1; refine KeepsP.fst ?_; exact hv0
  · intro k2; exact h

theorem thermalCross_keeps {r : State} (s : State) (up : List Nat) (h : Keeps r s) : Keeps r (thermalCross s up) :=
    by
  rw [show @thermalCross = _ from by delta thermalCross; exact rfl]; extract_lets +onlyGivenNames -underBinder v0 v1
  have hv0 : Keeps r v0 := by
    unfold v0; refine Keeps.foldl ?_ ?_
    · intro x2 x3 k4; apply thermalEvent_keeps; exact k4
    · exact h
  clear_value v0
  have hv1 : Keeps r v1 := by
    unfold v1; refine Keeps.ite ?_ ?_
    · apply thermalPause_keeps; apply modPower_keeps; exact hv0
    · intro k5; exact hv0
  clear_value v1; refine Keeps.ite ?_ ?_
  · exact hv1
  · intro k6; extract_lets +onlyGivenNames -underBinder v7; clear_value v7; apply modPower_keeps
    apply thermalEvent_keeps; exact k6

theorem execTelemetryUpdate_keeps {r : State} (x : Telemetry) (ends : List (Core × Nat)) (s : State) (h : Keeps r s)
    : KeepsOut r (execTelemetryUpdate x ends s) := by
  rw [show @execTelemetryUpdate = _ from by delta execTelemetryUpdate; exact rfl]; split
  · refine KeepsOut.next ?_; exact h
  · extract_lets +onlyGivenNames -underBinder v0 v1 v2 v3 v4 v5; clear_value v0; clear_value v1; clear_value v2
    have hv3 : Keeps r v3 := by unfold v3; apply setReg_keeps; apply setReg_keeps; apply setReg_keeps; exact h
    clear_value v3
    have hv4 : Keeps r v4 := by unfold v4; apply setElems_keeps; apply bump_keeps; exact hv3
    clear_value v4
    have hv5 : Keeps r v5 := by unfold v5; apply moveCap_keeps; apply thermalCross_keeps; exact hv4
    clear_value v5; refine KeepsOut.next ?_; refine Keeps.foldl ?_ ?_
    · intro x6 x7 k8; apply projectEnd_keeps; exact k8
    · exact hv5

theorem applyThermal_keeps {r : State} (s : State) (b : List Byte) (h : Keeps r s) : Keeps r (applyThermal s b) :=
    by
  rw [show @applyThermal = _ from by delta applyThermal; exact rfl]; refine Keeps.ite ?_ ?_
  · apply modPower_keeps; exact h
  · intro k0; apply modPower_keeps; exact h

theorem shutdown_keeps {r : State} (s : State) (die unit cause : Nat) (locked : Bool) (h : Keeps r s) : Keeps r
    (shutdown s die unit cause locked) := by
  rw [show @shutdown = _ from by delta shutdown; exact rfl]; extract_lets +onlyGivenNames -underBinder v0
  have hv0 : Keeps r v0 := by unfold v0; apply powerOff_keeps; apply reportFault_keeps; exact h
  clear_value v0; apply modPower_keeps; exact hv0

theorem execThermalTrip_keeps {r : State} (z : Fin 6) (t : W32) (s : State) (h : Keeps r s) : KeepsOut r
    (execThermalTrip z t s) := by
  rw [show @execThermalTrip = _ from by delta execThermalTrip; exact rfl]; split
  · refine KeepsOut.next ?_; exact h
  · refine KeepsOut.next ?_; apply shutdown_keeps; apply thermalEvent_keeps; exact h

theorem execInputVoltageFault_keeps {r : State} (vstby : Bool) (s : State) (h : Keeps r s) : KeepsOut r
    (execInputVoltageFault vstby s) := by
  rw [show @execInputVoltageFault = _ from by delta execInputVoltageFault; exact rfl]
  extract_lets +onlyGivenNames -underBinder v0 v1
  have hv0 : Keeps r v0 := by unfold v0; apply modPower_keeps; exact h
  clear_value v0
  have hv1 : Keeps r v1 := by
    unfold v1; refine Keeps.ite ?_ ?_
    · refine Keeps.ite ?_ ?_
      · exact hv0
      · intro k2; apply modPower_keeps; apply powerOff_keeps; exact k2
    · intro k3; apply modPower_keeps; apply shutdown_keeps; exact hv0
  clear_value v1; refine KeepsOut.next ?_; refine Keeps.ite ?_ ?_
  · exact hv1
  · intro k4; apply modPower_keeps; exact k4

theorem execInputOvercurrent_keeps {r : State} (s : State) (h : Keeps r s) : KeepsOut r (execInputOvercurrent s) :=
    by
  rw [show @execInputOvercurrent = _ from by delta execInputOvercurrent; exact rfl]; refine KeepsOut.next ?_
  refine Keeps.ite ?_ ?_
  · refine Keeps.ite ?_ ?_
    · exact h
    · intro k0; apply modPower_keeps; apply powerOff_keeps; exact k0
  · intro k1; apply shutdown_keeps; exact h

theorem execRailFault_keeps {r : State} (s : State) (h : Keeps r s) : KeepsOut r (execRailFault s) := by
  rw [show @execRailFault = _ from by delta execRailFault; exact rfl]; split
  · refine KeepsOut.next ?_; exact h
  · extract_lets +onlyGivenNames -underBinder v0 v1
    have hv0 : Keeps r v0 := by unfold v0; apply reportFault_keeps; exact h
    clear_value v0
    have hv1 : Keeps r v1 := by
      unfold v1; apply modPower_keeps; refine Keeps.setMem ?_ ?_
      · exact hv0
      · intro x2; exact rfl
    clear_value v1; refine KeepsOut.next ?_; refine setDev_keeps _ _ ?_ fun _ _ => modesAgree_faulted _; exact hv1

theorem execReferenceLoss_keeps {r : State} (fast : Bool) (s : State) (h : Keeps r s) : KeepsOut r
    (execReferenceLoss fast s) := by
  rw [show @execReferenceLoss = _ from by delta execReferenceLoss; exact rfl]
  extract_lets +onlyGivenNames -underBinder v0 v1 v2
  have hv0 : Keeps r v0 := by unfold v0; apply modPower_keeps; exact h
  clear_value v0; clear_value v1
  have hv2 : Keeps r v2 := by
    unfold v2; refine Keeps.ite ?_ ?_
    · exact hv0
    · intro k3; refine setDev_keeps _ _ ?_ fun _ _ => modesAgree_faulted _; apply modPower_keeps
      apply reportFault_keeps; exact k3
  clear_value v2; refine KeepsOut.next ?_; refine Keeps.ite ?_ ?_
  · exact hv2
  · intro k4; apply setReg_keeps; exact k4

theorem execNoiseHealthFail_keeps {r : State} (s : State) (h : Keeps r s) : KeepsOut r (execNoiseHealthFail s) := by
  rw [show @execNoiseHealthFail = _ from by delta execNoiseHealthFail; exact rfl]; refine KeepsOut.next ?_
  refine Keeps.ite ?_ ?_
  · exact h
  · intro k0; apply modPower_keeps; exact k0

theorem completeOp_keeps {r : State} (s : State) (l : Core) (f : Flight) (h : Keeps r s) : Keeps r (completeOp s l
    f) := by
  rw [show @completeOp = _ from by delta completeOp; exact rfl]; split
  · refine Keeps.foldl ?_ ?_
    · intro x0 x1 k2; apply momentComplete_keeps; exact k2
    · exact h
  · apply leavePipe_keeps; exact h
  · apply leavePipe_keeps; exact h
  · exact h

theorem execOperationComplete_keeps {r : State} (l : Foreseen Core) (idx : Nat) (s : State) (h : Keeps r s)
    : KeepsOut r (execOperationComplete l idx s) := by
  rw [show @execOperationComplete = _ from by delta execOperationComplete; exact rfl]; split
  · refine KeepsOut.next ?_; exact h
  · split
    · refine KeepsOut.next ?_; exact h
    · extract_lets +onlyGivenNames -underBinder v0 v1
      have hv0 : Keeps r v0 := by unfold v0; apply completeOp_keeps; exact h
      clear_value v0
      have hv1 : Keeps r v1 := by unfold v1; apply modCore_keeps; exact hv0
      clear_value v1; refine KeepsOut.next ?_; apply projectEnd_keeps; apply settle_keeps; apply setTokens_keeps
      exact hv1

theorem timeoutAction_keeps {r : State} (s : State) (p : Pause) (h : Keeps r s) : Keeps r (timeoutAction s p) := by
  rw [show @timeoutAction = _ from by delta timeoutAction; exact rfl]; split
  · apply startRecovery_keeps; exact h
  · apply redrawEntries_keeps; exact h
  · apply decideRetire_keeps; exact h
  · apply modPower_keeps; exact h
  · apply advanceBoundary_keeps; exact h

theorem endPause_keeps {r : State} (s : State) (p : Pause) (h : Keeps r s) : Keeps r (endPause s p) := by
  rw [show @endPause = _ from by delta endPause; exact rfl]; apply timeoutAction_keeps; apply modPause_keeps
  exact h

theorem applyFetch_keeps {r : State} (s : State) (e : Nat) (h : Keeps r s) : Keeps r (applyFetch s e) := by
  rw [show @applyFetch = _ from by delta applyFetch; exact rfl]; refine Keeps.foldl ?_ ?_
  · intro x0 x1 k2; extract_lets +onlyGivenNames -underBinder v3
    have hv3 : Keeps r v3 := by unfold v3; apply modFetch_keeps; apply bump_keeps; exact k2
    clear_value v3; apply sendFetch_keeps; exact hv3
  · exact h

theorem applyDecision_keeps {r : State} (s : State) (p : Pause) (b : List Byte) (h : Keeps r s) : Keeps r
    (applyDecision s p b) := by
  rw [show @applyDecision = _ from by delta applyDecision; exact rfl]; split
  · apply applyRecovery_keeps; exact h
  · apply redrawEntries_keeps; apply logDecision_keeps; exact h
  · refine Keeps.ite ?_ ?_
    · apply keepChannel_keeps; exact h
    · intro k0; apply decideRetire_keeps; exact h
  · apply advanceBoundary_keeps; apply applyFetch_keeps; exact h
  · apply applyThermal_keeps; exact h
  · apply advanceBoundary_keeps; exact h

theorem judge_keeps {r : State} (s : State) (p : Pause) (b : List Byte) (h : Keeps r s) : KeepsP r (judge s p b) :=
    by
  rw [show @judge = _ from by delta judge; exact rfl]; extract_lets +onlyGivenNames -underBinder v0; clear_value v0
  refine KeepsP.ite ?_ ?_
  · refine KeepsP.mk ?_; apply endPause_keeps; exact h
  · intro k1; refine KeepsP.mk ?_; apply applyDecision_keeps; apply modPause_keeps; exact h

theorem decideReq_keeps {r : State} (m : DReq) (s : State) (x : Session) (h : Keeps r s) : Keeps r (decideReq m s x)
    := by
  rw [show @decideReq = _ from by delta decideReq; exact rfl]; refine Keeps.ite ?_ ?_
  · split
    · apply reply_keeps; exact h
    · refine Keeps.ite ?_ ?_
      · refine Keeps.ite ?_ ?_
        · extract_lets +onlyGivenNames -underBinder v0; clear_value v0; refine Keeps.ite ?_ ?_
          · refine Keeps.ite ?_ ?_
            · refine Keeps.ite ?_ ?_
              · extract_lets +onlyGivenNames -underBinder v1 v2
                have hv1 : Keeps r v1 := by
                  unfold v1; refine Keeps.ite ?_ ?_
                  · exact h
                  · intro k3; apply lateAccept_keeps; exact k3
                clear_value v1
                have hv2 : KeepsP r v2 := by unfold v2; apply judge_keeps; exact hv1
                clear_value v2; apply reply_keeps; refine KeepsP.fst ?_; exact hv2
              · intro k4; apply reply_keeps; apply endPause_keeps; exact h
            · intro k5; apply reply_keeps; apply modPause_keeps; exact h
          · intro k6; apply reply_keeps; apply endPause_keeps; exact h
        · intro k7; apply reply_keeps; exact h
      · intro k8; apply reply_keeps; exact h
  · intro k9; apply reply_keeps; exact h

theorem execDecide_keeps {r : State} (m : DReq) (s : State) (h : Keeps r s) : KeepsOut r (execDecide m s) := by
  rw [show @execDecide = _ from by delta execDecide; exact rfl]; refine KeepsOut.next ?_; refine Keeps.ite ?_ ?_
  · exact h
  · intro k0; apply receive_keeps
    · exact k0
    · intro x1 x2 k3; apply decideReq_keeps; exact k3

theorem execPauseTimeout_keeps {r : State} (id : Nat) (s : State) (h : Keeps r s) : KeepsOut r (execPauseTimeout id
    s) := by
  rw [show @execPauseTimeout = _ from by delta execPauseTimeout; exact rfl]; split
  · refine KeepsOut.next ?_; exact h
  · refine KeepsOut.next ?_; refine Keeps.ite ?_ ?_
    · exact h
    · intro k0; apply endPause_keeps; exact k0

theorem transmit_keeps {r : State} (s : State) (h : Keeps r s) : Keeps r (transmit s) := by
  rw [show @transmit = _ from by delta transmit; exact rfl]; refine Keeps.ite ?_ ?_
  · split
    · exact h
    · refine Keeps.mk_iff.mpr ?_; exact h
  · intro k0; exact h

theorem feedStaged_keeps {r : State} (s : State) (l : Core) (h : Keeps r s) : Keeps r (feedStaged s l) := by
  rw [show @feedStaged = _ from by delta feedStaged; exact rfl]; split
  · refine Keeps.ite ?_ ?_
    · refine Keeps.ite ?_ ?_
      · apply bump_keeps; exact h
      · intro k0; apply modSlate_keeps; exact h
    · intro k1; exact h
  · exact h

theorem coreWaits_keeps {r : State} (s : State) (l : Core) (h : Keeps r s) : Keeps r (coreWaits s l) := by
  rw [show @coreWaits = _ from by delta coreWaits; exact rfl]; extract_lets +onlyGivenNames -underBinder v0 v1
  clear_value v0
  have hv1 : Keeps r v1 := by unfold v1; apply bumpIf_keeps; exact h
  clear_value v1; apply restCore_keeps; apply feedStaged_keeps; exact hv1

theorem tick_keeps (s : State) : Keeps (countClock s) (tick s) := by
  rw [show @tick = _ from by delta tick; exact rfl]; extract_lets +onlyGivenNames -underBinder v0
  have hv0 : Keeps (countClock s) v0 := by unfold v0; apply transmit_keeps; exact Keeps.refl _
  clear_value v0; exact Keeps.ite hv0 fun k => Keeps.foldl (fun t x h => coreWaits_keeps _ _ h) k

end Sys2Proof.Machine
end

