-- ==== Sys2Proof/Laws/State.lean ====
section
/-!
SUPPORT. What each update of one part of the state leaves in every field, and what a register reads after a write.
-/
namespace Sys2Proof.Machine

/-! ### setReg -/

@[simp] theorem setReg_pending (s : State) (k v : Nat) : (setReg s k v).pending = s.pending := rfl
@[simp] theorem setReg_clk (s : State) (k v : Nat) : (setReg s k v).clk = s.clk := rfl
@[simp] theorem setReg_part (s : State) (k v : Nat) : (setReg s k v).part = s.part := rfl
@[simp] theorem setReg_dev (s : State) (k v : Nat) : (setReg s k v).dev = s.dev := rfl
@[simp] theorem setReg_mode (s : State) (k v : Nat) : (setReg s k v).mode = s.mode := rfl
@[simp] theorem setReg_fresh (s : State) (k v : Nat) : (setReg s k v).fresh = s.fresh := rfl
@[simp] theorem setReg_mem (s : State) (k v : Nat) : (setReg s k v).mem = s.mem := rfl
@[simp] theorem setReg_cores (s : State) (k v : Nat) : (setReg s k v).cores = s.cores := rfl
@[simp] theorem setReg_num (s : State) (k v : Nat) : (setReg s k v).num = s.num := rfl
@[simp] theorem setReg_kv (s : State) (k v : Nat) : (setReg s k v).kv = s.kv := rfl
@[simp] theorem setReg_job (s : State) (k v : Nat) : (setReg s k v).job = s.job := rfl
@[simp] theorem setReg_dunrel (s : State) (k v : Nat) : (setReg s k v).dunrel = s.dunrel := rfl
@[simp] theorem setReg_ras (s : State) (k v : Nat) : (setReg s k v).ras = s.ras := rfl
@[simp] theorem setReg_net (s : State) (k v : Nat) : (setReg s k v).net = s.net := rfl
@[simp] theorem setReg_recov (s : State) (k v : Nat) : (setReg s k v).recov = s.recov := rfl
@[simp] theorem setReg_power (s : State) (k v : Nat) : (setReg s k v).power = s.power := rfl
@[simp] theorem setReg_sent (s : State) (k v : Nat) : (setReg s k v).sent = s.sent := rfl
@[simp] theorem setReg_egress (s : State) (k v : Nat) : (setReg s k v).egress = s.egress := rfl
@[simp] theorem setReg_coreOf (s : State) (k v : Nat) (c : Core) : coreOf (setReg s k v) c = coreOf s c := rfl

/-! ### bump -/

@[simp] theorem bump_pending (s : State) (k n : Nat) : (bump s k n).pending = s.pending := rfl
@[simp] theorem bump_clk (s : State) (k n : Nat) : (bump s k n).clk = s.clk := rfl
@[simp] theorem bump_part (s : State) (k n : Nat) : (bump s k n).part = s.part := rfl
@[simp] theorem bump_dev (s : State) (k n : Nat) : (bump s k n).dev = s.dev := rfl
@[simp] theorem bump_mode (s : State) (k n : Nat) : (bump s k n).mode = s.mode := rfl
@[simp] theorem bump_fresh (s : State) (k n : Nat) : (bump s k n).fresh = s.fresh := rfl
@[simp] theorem bump_mem (s : State) (k n : Nat) : (bump s k n).mem = s.mem := rfl
@[simp] theorem bump_cores (s : State) (k n : Nat) : (bump s k n).cores = s.cores := rfl
@[simp] theorem bump_num (s : State) (k n : Nat) : (bump s k n).num = s.num := rfl
@[simp] theorem bump_kv (s : State) (k n : Nat) : (bump s k n).kv = s.kv := rfl
@[simp] theorem bump_job (s : State) (k n : Nat) : (bump s k n).job = s.job := rfl
@[simp] theorem bump_dunrel (s : State) (k n : Nat) : (bump s k n).dunrel = s.dunrel := rfl
@[simp] theorem bump_ras (s : State) (k n : Nat) : (bump s k n).ras = s.ras := rfl
@[simp] theorem bump_net (s : State) (k n : Nat) : (bump s k n).net = s.net := rfl
@[simp] theorem bump_recov (s : State) (k n : Nat) : (bump s k n).recov = s.recov := rfl
@[simp] theorem bump_power (s : State) (k n : Nat) : (bump s k n).power = s.power := rfl
@[simp] theorem bump_sent (s : State) (k n : Nat) : (bump s k n).sent = s.sent := rfl
@[simp] theorem bump_egress (s : State) (k n : Nat) : (bump s k n).egress = s.egress := rfl
@[simp] theorem bump_coreOf (s : State) (k n : Nat) (c : Core) : coreOf (bump s k n) c = coreOf s c := rfl

/-! ### modCore -/

@[simp] theorem modCore_pending (s : State) (l : Core) (f : CoreState → CoreState) : (modCore s l f).pending = s.pending := rfl
@[simp] theorem modCore_clk (s : State) (l : Core) (f : CoreState → CoreState) : (modCore s l f).clk = s.clk := rfl
@[simp] theorem modCore_part (s : State) (l : Core) (f : CoreState → CoreState) : (modCore s l f).part = s.part := rfl
@[simp] theorem modCore_dev (s : State) (l : Core) (f : CoreState → CoreState) : (modCore s l f).dev = s.dev := rfl
@[simp] theorem modCore_mode (s : State) (l : Core) (f : CoreState → CoreState) : (modCore s l f).mode = s.mode := rfl
@[simp] theorem modCore_fresh (s : State) (l : Core) (f : CoreState → CoreState) : (modCore s l f).fresh = s.fresh := rfl
@[simp] theorem modCore_regs (s : State) (l : Core) (f : CoreState → CoreState) : (modCore s l f).regs = s.regs := rfl
@[simp] theorem modCore_mem (s : State) (l : Core) (f : CoreState → CoreState) : (modCore s l f).mem = s.mem := rfl
@[simp] theorem modCore_num (s : State) (l : Core) (f : CoreState → CoreState) : (modCore s l f).num = s.num := rfl
@[simp] theorem modCore_kv (s : State) (l : Core) (f : CoreState → CoreState) : (modCore s l f).kv = s.kv := rfl
@[simp] theorem modCore_job (s : State) (l : Core) (f : CoreState → CoreState) : (modCore s l f).job = s.job := rfl
@[simp] theorem modCore_dunrel (s : State) (l : Core) (f : CoreState → CoreState) : (modCore s l f).dunrel = s.dunrel := rfl
@[simp] theorem modCore_ras (s : State) (l : Core) (f : CoreState → CoreState) : (modCore s l f).ras = s.ras := rfl
@[simp] theorem modCore_net (s : State) (l : Core) (f : CoreState → CoreState) : (modCore s l f).net = s.net := rfl
@[simp] theorem modCore_recov (s : State) (l : Core) (f : CoreState → CoreState) : (modCore s l f).recov = s.recov := rfl
@[simp] theorem modCore_power (s : State) (l : Core) (f : CoreState → CoreState) : (modCore s l f).power = s.power := rfl
@[simp] theorem modCore_sent (s : State) (l : Core) (f : CoreState → CoreState) : (modCore s l f).sent = s.sent := rfl
@[simp] theorem modCore_egress (s : State) (l : Core) (f : CoreState → CoreState) : (modCore s l f).egress = s.egress := rfl
@[simp] theorem modCore_reg (s : State) (l : Core) (f : CoreState → CoreState) (x : Nat) : reg (modCore s l f) x = reg s x := rfl

/-! ### modSess -/

@[simp] theorem modSess_pending (s : State) (i : Sess) (f : Session → Session) : (modSess s i f).pending = s.pending := rfl
@[simp] theorem modSess_clk (s : State) (i : Sess) (f : Session → Session) : (modSess s i f).clk = s.clk := rfl
@[simp] theorem modSess_part (s : State) (i : Sess) (f : Session → Session) : (modSess s i f).part = s.part := rfl
@[simp] theorem modSess_dev (s : State) (i : Sess) (f : Session → Session) : (modSess s i f).dev = s.dev := rfl
@[simp] theorem modSess_mode (s : State) (i : Sess) (f : Session → Session) : (modSess s i f).mode = s.mode := rfl
@[simp] theorem modSess_fresh (s : State) (i : Sess) (f : Session → Session) : (modSess s i f).fresh = s.fresh := rfl
@[simp] theorem modSess_regs (s : State) (i : Sess) (f : Session → Session) : (modSess s i f).regs = s.regs := rfl
@[simp] theorem modSess_mem (s : State) (i : Sess) (f : Session → Session) : (modSess s i f).mem = s.mem := rfl
@[simp] theorem modSess_cores (s : State) (i : Sess) (f : Session → Session) : (modSess s i f).cores = s.cores := rfl
@[simp] theorem modSess_num (s : State) (i : Sess) (f : Session → Session) : (modSess s i f).num = s.num := rfl
@[simp] theorem modSess_kv (s : State) (i : Sess) (f : Session → Session) : (modSess s i f).kv = s.kv := rfl
@[simp] theorem modSess_job (s : State) (i : Sess) (f : Session → Session) : (modSess s i f).job = s.job := rfl
@[simp] theorem modSess_ras (s : State) (i : Sess) (f : Session → Session) : (modSess s i f).ras = s.ras := rfl
@[simp] theorem modSess_net (s : State) (i : Sess) (f : Session → Session) : (modSess s i f).net = s.net := rfl
@[simp] theorem modSess_recov (s : State) (i : Sess) (f : Session → Session) : (modSess s i f).recov = s.recov := rfl
@[simp] theorem modSess_power (s : State) (i : Sess) (f : Session → Session) : (modSess s i f).power = s.power := rfl
@[simp] theorem modSess_sent (s : State) (i : Sess) (f : Session → Session) : (modSess s i f).sent = s.sent := rfl
@[simp] theorem modSess_egress (s : State) (i : Sess) (f : Session → Session) : (modSess s i f).egress = s.egress := rfl
@[simp] theorem modSess_reg (s : State) (i : Sess) (f : Session → Session) (x : Nat) : reg (modSess s i f) x = reg s x := rfl
@[simp] theorem modSess_coreOf (s : State) (i : Sess) (f : Session → Session) (c : Core) : coreOf (modSess s i f) c = coreOf s c := rfl

/-! ### send -/

@[simp] theorem send_pending (s : State) (m : OutMsg) : (send s m).pending = s.pending := rfl
@[simp] theorem send_clk (s : State) (m : OutMsg) : (send s m).clk = s.clk := rfl
@[simp] theorem send_part (s : State) (m : OutMsg) : (send s m).part = s.part := rfl
@[simp] theorem send_dev (s : State) (m : OutMsg) : (send s m).dev = s.dev := rfl
@[simp] theorem send_mode (s : State) (m : OutMsg) : (send s m).mode = s.mode := rfl
@[simp] theorem send_fresh (s : State) (m : OutMsg) : (send s m).fresh = s.fresh := rfl
@[simp] theorem send_regs (s : State) (m : OutMsg) : (send s m).regs = s.regs := rfl
@[simp] theorem send_mem (s : State) (m : OutMsg) : (send s m).mem = s.mem := rfl
@[simp] theorem send_cores (s : State) (m : OutMsg) : (send s m).cores = s.cores := rfl
@[simp] theorem send_num (s : State) (m : OutMsg) : (send s m).num = s.num := rfl
@[simp] theorem send_kv (s : State) (m : OutMsg) : (send s m).kv = s.kv := rfl
@[simp] theorem send_job (s : State) (m : OutMsg) : (send s m).job = s.job := rfl
@[simp] theorem send_dunrel (s : State) (m : OutMsg) : (send s m).dunrel = s.dunrel := rfl
@[simp] theorem send_ras (s : State) (m : OutMsg) : (send s m).ras = s.ras := rfl
@[simp] theorem send_net (s : State) (m : OutMsg) : (send s m).net = s.net := rfl
@[simp] theorem send_recov (s : State) (m : OutMsg) : (send s m).recov = s.recov := rfl
@[simp] theorem send_power (s : State) (m : OutMsg) : (send s m).power = s.power := rfl
@[simp] theorem send_reg (s : State) (m : OutMsg) (x : Nat) : reg (send s m) x = reg s x := rfl
@[simp] theorem send_coreOf (s : State) (m : OutMsg) (c : Core) : coreOf (send s m) c = coreOf s c := rfl

/-! ### dropTxn -/

@[simp] theorem dropTxn_pending (s : State) (h : Nat) : (dropTxn s h).pending = s.pending := rfl
@[simp] theorem dropTxn_clk (s : State) (h : Nat) : (dropTxn s h).clk = s.clk := rfl
@[simp] theorem dropTxn_part (s : State) (h : Nat) : (dropTxn s h).part = s.part := rfl
@[simp] theorem dropTxn_dev (s : State) (h : Nat) : (dropTxn s h).dev = s.dev := rfl
@[simp] theorem dropTxn_mode (s : State) (h : Nat) : (dropTxn s h).mode = s.mode := rfl
@[simp] theorem dropTxn_fresh (s : State) (h : Nat) : (dropTxn s h).fresh = s.fresh := rfl
@[simp] theorem dropTxn_regs (s : State) (h : Nat) : (dropTxn s h).regs = s.regs := rfl
@[simp] theorem dropTxn_mem (s : State) (h : Nat) : (dropTxn s h).mem = s.mem := rfl
@[simp] theorem dropTxn_cores (s : State) (h : Nat) : (dropTxn s h).cores = s.cores := rfl
@[simp] theorem dropTxn_num (s : State) (h : Nat) : (dropTxn s h).num = s.num := rfl
@[simp] theorem dropTxn_kv (s : State) (h : Nat) : (dropTxn s h).kv = s.kv := rfl
@[simp] theorem dropTxn_job (s : State) (h : Nat) : (dropTxn s h).job = s.job := rfl
@[simp] theorem dropTxn_ras (s : State) (h : Nat) : (dropTxn s h).ras = s.ras := rfl
@[simp] theorem dropTxn_net (s : State) (h : Nat) : (dropTxn s h).net = s.net := rfl
@[simp] theorem dropTxn_recov (s : State) (h : Nat) : (dropTxn s h).recov = s.recov := rfl
@[simp] theorem dropTxn_power (s : State) (h : Nat) : (dropTxn s h).power = s.power := rfl
@[simp] theorem dropTxn_sent (s : State) (h : Nat) : (dropTxn s h).sent = s.sent := rfl
@[simp] theorem dropTxn_egress (s : State) (h : Nat) : (dropTxn s h).egress = s.egress := rfl
@[simp] theorem dropTxn_reg (s : State) (h : Nat) (x : Nat) : reg (dropTxn s h) x = reg s x := rfl
@[simp] theorem dropTxn_coreOf (s : State) (h : Nat) (c : Core) : coreOf (dropTxn s h) c = coreOf s c := rfl

/-! ### modLayer -/

@[simp] theorem modLayer_pending (s : State) (i : Nat) (f : Layer → Layer) : (modLayer s i f).pending = s.pending := rfl
@[simp] theorem modLayer_clk (s : State) (i : Nat) (f : Layer → Layer) : (modLayer s i f).clk = s.clk := rfl
@[simp] theorem modLayer_part (s : State) (i : Nat) (f : Layer → Layer) : (modLayer s i f).part = s.part := rfl
@[simp] theorem modLayer_dev (s : State) (i : Nat) (f : Layer → Layer) : (modLayer s i f).dev = s.dev := rfl
@[simp] theorem modLayer_mode (s : State) (i : Nat) (f : Layer → Layer) : (modLayer s i f).mode = s.mode := rfl
@[simp] theorem modLayer_fresh (s : State) (i : Nat) (f : Layer → Layer) : (modLayer s i f).fresh = s.fresh := rfl
@[simp] theorem modLayer_regs (s : State) (i : Nat) (f : Layer → Layer) : (modLayer s i f).regs = s.regs := rfl
@[simp] theorem modLayer_mem (s : State) (i : Nat) (f : Layer → Layer) : (modLayer s i f).mem = s.mem := rfl
@[simp] theorem modLayer_cores (s : State) (i : Nat) (f : Layer → Layer) : (modLayer s i f).cores = s.cores := rfl
@[simp] theorem modLayer_kv (s : State) (i : Nat) (f : Layer → Layer) : (modLayer s i f).kv = s.kv := rfl
@[simp] theorem modLayer_job (s : State) (i : Nat) (f : Layer → Layer) : (modLayer s i f).job = s.job := rfl
@[simp] theorem modLayer_dunrel (s : State) (i : Nat) (f : Layer → Layer) : (modLayer s i f).dunrel = s.dunrel := rfl
@[simp] theorem modLayer_ras (s : State) (i : Nat) (f : Layer → Layer) : (modLayer s i f).ras = s.ras := rfl
@[simp] theorem modLayer_net (s : State) (i : Nat) (f : Layer → Layer) : (modLayer s i f).net = s.net := rfl
@[simp] theorem modLayer_recov (s : State) (i : Nat) (f : Layer → Layer) : (modLayer s i f).recov = s.recov := rfl
@[simp] theorem modLayer_power (s : State) (i : Nat) (f : Layer → Layer) : (modLayer s i f).power = s.power := rfl
@[simp] theorem modLayer_sent (s : State) (i : Nat) (f : Layer → Layer) : (modLayer s i f).sent = s.sent := rfl
@[simp] theorem modLayer_egress (s : State) (i : Nat) (f : Layer → Layer) : (modLayer s i f).egress = s.egress := rfl
@[simp] theorem modLayer_reg (s : State) (i : Nat) (f : Layer → Layer) (x : Nat) : reg (modLayer s i f) x = reg s x := rfl
@[simp] theorem modLayer_coreOf (s : State) (i : Nat) (f : Layer → Layer) (c : Core) : coreOf (modLayer s i f) c = coreOf s c := rfl

/-! ### modSlot -/

@[simp] theorem modSlot_pending (s : State) (i : Nat) (f : VSlot → VSlot) : (modSlot s i f).pending = s.pending := rfl
@[simp] theorem modSlot_clk (s : State) (i : Nat) (f : VSlot → VSlot) : (modSlot s i f).clk = s.clk := rfl
@[simp] theorem modSlot_part (s : State) (i : Nat) (f : VSlot → VSlot) : (modSlot s i f).part = s.part := rfl
@[simp] theorem modSlot_dev (s : State) (i : Nat) (f : VSlot → VSlot) : (modSlot s i f).dev = s.dev := rfl
@[simp] theorem modSlot_mode (s : State) (i : Nat) (f : VSlot → VSlot) : (modSlot s i f).mode = s.mode := rfl
@[simp] theorem modSlot_fresh (s : State) (i : Nat) (f : VSlot → VSlot) : (modSlot s i f).fresh = s.fresh := rfl
@[simp] theorem modSlot_regs (s : State) (i : Nat) (f : VSlot → VSlot) : (modSlot s i f).regs = s.regs := rfl
@[simp] theorem modSlot_mem (s : State) (i : Nat) (f : VSlot → VSlot) : (modSlot s i f).mem = s.mem := rfl
@[simp] theorem modSlot_cores (s : State) (i : Nat) (f : VSlot → VSlot) : (modSlot s i f).cores = s.cores := rfl
@[simp] theorem modSlot_kv (s : State) (i : Nat) (f : VSlot → VSlot) : (modSlot s i f).kv = s.kv := rfl
@[simp] theorem modSlot_job (s : State) (i : Nat) (f : VSlot → VSlot) : (modSlot s i f).job = s.job := rfl
@[simp] theorem modSlot_dunrel (s : State) (i : Nat) (f : VSlot → VSlot) : (modSlot s i f).dunrel = s.dunrel := rfl
@[simp] theorem modSlot_ras (s : State) (i : Nat) (f : VSlot → VSlot) : (modSlot s i f).ras = s.ras := rfl
@[simp] theorem modSlot_net (s : State) (i : Nat) (f : VSlot → VSlot) : (modSlot s i f).net = s.net := rfl
@[simp] theorem modSlot_recov (s : State) (i : Nat) (f : VSlot → VSlot) : (modSlot s i f).recov = s.recov := rfl
@[simp] theorem modSlot_power (s : State) (i : Nat) (f : VSlot → VSlot) : (modSlot s i f).power = s.power := rfl
@[simp] theorem modSlot_sent (s : State) (i : Nat) (f : VSlot → VSlot) : (modSlot s i f).sent = s.sent := rfl
@[simp] theorem modSlot_egress (s : State) (i : Nat) (f : VSlot → VSlot) : (modSlot s i f).egress = s.egress := rfl
@[simp] theorem modSlot_reg (s : State) (i : Nat) (f : VSlot → VSlot) (x : Nat) : reg (modSlot s i f) x = reg s x := rfl
@[simp] theorem modSlot_coreOf (s : State) (i : Nat) (f : VSlot → VSlot) (c : Core) : coreOf (modSlot s i f) c = coreOf s c := rfl

/-! ### modRun -/

@[simp] theorem modRun_pending (s : State) (q : Nat) (f : QRun → QRun) : (modRun s q f).pending = s.pending := rfl
@[simp] theorem modRun_clk (s : State) (q : Nat) (f : QRun → QRun) : (modRun s q f).clk = s.clk := rfl
@[simp] theorem modRun_part (s : State) (q : Nat) (f : QRun → QRun) : (modRun s q f).part = s.part := rfl
@[simp] theorem modRun_dev (s : State) (q : Nat) (f : QRun → QRun) : (modRun s q f).dev = s.dev := rfl
@[simp] theorem modRun_mode (s : State) (q : Nat) (f : QRun → QRun) : (modRun s q f).mode = s.mode := rfl
@[simp] theorem modRun_fresh (s : State) (q : Nat) (f : QRun → QRun) : (modRun s q f).fresh = s.fresh := rfl
@[simp] theorem modRun_regs (s : State) (q : Nat) (f : QRun → QRun) : (modRun s q f).regs = s.regs := rfl
@[simp] theorem modRun_mem (s : State) (q : Nat) (f : QRun → QRun) : (modRun s q f).mem = s.mem := rfl
@[simp] theorem modRun_cores (s : State) (q : Nat) (f : QRun → QRun) : (modRun s q f).cores = s.cores := rfl
@[simp] theorem modRun_num (s : State) (q : Nat) (f : QRun → QRun) : (modRun s q f).num = s.num := rfl
@[simp] theorem modRun_job (s : State) (q : Nat) (f : QRun → QRun) : (modRun s q f).job = s.job := rfl
@[simp] theorem modRun_dunrel (s : State) (q : Nat) (f : QRun → QRun) : (modRun s q f).dunrel = s.dunrel := rfl
@[simp] theorem modRun_ras (s : State) (q : Nat) (f : QRun → QRun) : (modRun s q f).ras = s.ras := rfl
@[simp] theorem modRun_net (s : State) (q : Nat) (f : QRun → QRun) : (modRun s q f).net = s.net := rfl
@[simp] theorem modRun_recov (s : State) (q : Nat) (f : QRun → QRun) : (modRun s q f).recov = s.recov := rfl
@[simp] theorem modRun_power (s : State) (q : Nat) (f : QRun → QRun) : (modRun s q f).power = s.power := rfl
@[simp] theorem modRun_sent (s : State) (q : Nat) (f : QRun → QRun) : (modRun s q f).sent = s.sent := rfl
@[simp] theorem modRun_egress (s : State) (q : Nat) (f : QRun → QRun) : (modRun s q f).egress = s.egress := rfl
@[simp] theorem modRun_reg (s : State) (q : Nat) (f : QRun → QRun) (x : Nat) : reg (modRun s q f) x = reg s x := rfl
@[simp] theorem modRun_coreOf (s : State) (q : Nat) (f : QRun → QRun) (c : Core) : coreOf (modRun s q f) c = coreOf s c := rfl

/-! ### modNet -/

@[simp] theorem modNet_pending (s : State) (f : NetState → NetState) : (modNet s f).pending = s.pending := rfl
@[simp] theorem modNet_clk (s : State) (f : NetState → NetState) : (modNet s f).clk = s.clk := rfl
@[simp] theorem modNet_part (s : State) (f : NetState → NetState) : (modNet s f).part = s.part := rfl
@[simp] theorem modNet_dev (s : State) (f : NetState → NetState) : (modNet s f).dev = s.dev := rfl
@[simp] theorem modNet_mode (s : State) (f : NetState → NetState) : (modNet s f).mode = s.mode := rfl
@[simp] theorem modNet_fresh (s : State) (f : NetState → NetState) : (modNet s f).fresh = s.fresh := rfl
@[simp] theorem modNet_regs (s : State) (f : NetState → NetState) : (modNet s f).regs = s.regs := rfl
@[simp] theorem modNet_mem (s : State) (f : NetState → NetState) : (modNet s f).mem = s.mem := rfl
@[simp] theorem modNet_cores (s : State) (f : NetState → NetState) : (modNet s f).cores = s.cores := rfl
@[simp] theorem modNet_num (s : State) (f : NetState → NetState) : (modNet s f).num = s.num := rfl
@[simp] theorem modNet_kv (s : State) (f : NetState → NetState) : (modNet s f).kv = s.kv := rfl
@[simp] theorem modNet_job (s : State) (f : NetState → NetState) : (modNet s f).job = s.job := rfl
@[simp] theorem modNet_dunrel (s : State) (f : NetState → NetState) : (modNet s f).dunrel = s.dunrel := rfl
@[simp] theorem modNet_ras (s : State) (f : NetState → NetState) : (modNet s f).ras = s.ras := rfl
@[simp] theorem modNet_recov (s : State) (f : NetState → NetState) : (modNet s f).recov = s.recov := rfl
@[simp] theorem modNet_power (s : State) (f : NetState → NetState) : (modNet s f).power = s.power := rfl
@[simp] theorem modNet_sent (s : State) (f : NetState → NetState) : (modNet s f).sent = s.sent := rfl
@[simp] theorem modNet_egress (s : State) (f : NetState → NetState) : (modNet s f).egress = s.egress := rfl
@[simp] theorem modNet_reg (s : State) (f : NetState → NetState) (x : Nat) : reg (modNet s f) x = reg s x := rfl
@[simp] theorem modNet_coreOf (s : State) (f : NetState → NetState) (c : Core) : coreOf (modNet s f) c = coreOf s c := rfl

/-! ### modRec -/

@[simp] theorem modRec_pending (s : State) (f : RecovState → RecovState) : (modRec s f).pending = s.pending := rfl
@[simp] theorem modRec_clk (s : State) (f : RecovState → RecovState) : (modRec s f).clk = s.clk := rfl
@[simp] theorem modRec_part (s : State) (f : RecovState → RecovState) : (modRec s f).part = s.part := rfl
@[simp] theorem modRec_dev (s : State) (f : RecovState → RecovState) : (modRec s f).dev = s.dev := rfl
@[simp] theorem modRec_mode (s : State) (f : RecovState → RecovState) : (modRec s f).mode = s.mode := rfl
@[simp] theorem modRec_fresh (s : State) (f : RecovState → RecovState) : (modRec s f).fresh = s.fresh := rfl
@[simp] theorem modRec_regs (s : State) (f : RecovState → RecovState) : (modRec s f).regs = s.regs := rfl
@[simp] theorem modRec_mem (s : State) (f : RecovState → RecovState) : (modRec s f).mem = s.mem := rfl
@[simp] theorem modRec_cores (s : State) (f : RecovState → RecovState) : (modRec s f).cores = s.cores := rfl
@[simp] theorem modRec_num (s : State) (f : RecovState → RecovState) : (modRec s f).num = s.num := rfl
@[simp] theorem modRec_kv (s : State) (f : RecovState → RecovState) : (modRec s f).kv = s.kv := rfl
@[simp] theorem modRec_job (s : State) (f : RecovState → RecovState) : (modRec s f).job = s.job := rfl
@[simp] theorem modRec_dunrel (s : State) (f : RecovState → RecovState) : (modRec s f).dunrel = s.dunrel := rfl
@[simp] theorem modRec_ras (s : State) (f : RecovState → RecovState) : (modRec s f).ras = s.ras := rfl
@[simp] theorem modRec_net (s : State) (f : RecovState → RecovState) : (modRec s f).net = s.net := rfl
@[simp] theorem modRec_power (s : State) (f : RecovState → RecovState) : (modRec s f).power = s.power := rfl
@[simp] theorem modRec_sent (s : State) (f : RecovState → RecovState) : (modRec s f).sent = s.sent := rfl
@[simp] theorem modRec_egress (s : State) (f : RecovState → RecovState) : (modRec s f).egress = s.egress := rfl
@[simp] theorem modRec_reg (s : State) (f : RecovState → RecovState) (x : Nat) : reg (modRec s f) x = reg s x := rfl
@[simp] theorem modRec_coreOf (s : State) (f : RecovState → RecovState) (c : Core) : coreOf (modRec s f) c = coreOf s c := rfl

/-! ### modDun -/

@[simp] theorem modDun_pending (s : State) (f : DunrelState → DunrelState) : (modDun s f).pending = s.pending := rfl
@[simp] theorem modDun_clk (s : State) (f : DunrelState → DunrelState) : (modDun s f).clk = s.clk := rfl
@[simp] theorem modDun_part (s : State) (f : DunrelState → DunrelState) : (modDun s f).part = s.part := rfl
@[simp] theorem modDun_dev (s : State) (f : DunrelState → DunrelState) : (modDun s f).dev = s.dev := rfl
@[simp] theorem modDun_mode (s : State) (f : DunrelState → DunrelState) : (modDun s f).mode = s.mode := rfl
@[simp] theorem modDun_fresh (s : State) (f : DunrelState → DunrelState) : (modDun s f).fresh = s.fresh := rfl
@[simp] theorem modDun_regs (s : State) (f : DunrelState → DunrelState) : (modDun s f).regs = s.regs := rfl
@[simp] theorem modDun_mem (s : State) (f : DunrelState → DunrelState) : (modDun s f).mem = s.mem := rfl
@[simp] theorem modDun_cores (s : State) (f : DunrelState → DunrelState) : (modDun s f).cores = s.cores := rfl
@[simp] theorem modDun_num (s : State) (f : DunrelState → DunrelState) : (modDun s f).num = s.num := rfl
@[simp] theorem modDun_kv (s : State) (f : DunrelState → DunrelState) : (modDun s f).kv = s.kv := rfl
@[simp] theorem modDun_job (s : State) (f : DunrelState → DunrelState) : (modDun s f).job = s.job := rfl
@[simp] theorem modDun_ras (s : State) (f : DunrelState → DunrelState) : (modDun s f).ras = s.ras := rfl
@[simp] theorem modDun_net (s : State) (f : DunrelState → DunrelState) : (modDun s f).net = s.net := rfl
@[simp] theorem modDun_recov (s : State) (f : DunrelState → DunrelState) : (modDun s f).recov = s.recov := rfl
@[simp] theorem modDun_power (s : State) (f : DunrelState → DunrelState) : (modDun s f).power = s.power := rfl
@[simp] theorem modDun_sent (s : State) (f : DunrelState → DunrelState) : (modDun s f).sent = s.sent := rfl
@[simp] theorem modDun_egress (s : State) (f : DunrelState → DunrelState) : (modDun s f).egress = s.egress := rfl
@[simp] theorem modDun_reg (s : State) (f : DunrelState → DunrelState) (x : Nat) : reg (modDun s f) x = reg s x := rfl
@[simp] theorem modDun_coreOf (s : State) (f : DunrelState → DunrelState) (c : Core) : coreOf (modDun s f) c = coreOf s c := rfl

/-! ### modPower -/

@[simp] theorem modPower_pending (s : State) (f : PowerState → PowerState) : (modPower s f).pending = s.pending := rfl
@[simp] theorem modPower_clk (s : State) (f : PowerState → PowerState) : (modPower s f).clk = s.clk := rfl
@[simp] theorem modPower_part (s : State) (f : PowerState → PowerState) : (modPower s f).part = s.part := rfl
@[simp] theorem modPower_dev (s : State) (f : PowerState → PowerState) : (modPower s f).dev = s.dev := rfl
@[simp] theorem modPower_mode (s : State) (f : PowerState → PowerState) : (modPower s f).mode = s.mode := rfl
@[simp] theorem modPower_fresh (s : State) (f : PowerState → PowerState) : (modPower s f).fresh = s.fresh := rfl
@[simp] theorem modPower_regs (s : State) (f : PowerState → PowerState) : (modPower s f).regs = s.regs := rfl
@[simp] theorem modPower_mem (s : State) (f : PowerState → PowerState) : (modPower s f).mem = s.mem := rfl
@[simp] theorem modPower_cores (s : State) (f : PowerState → PowerState) : (modPower s f).cores = s.cores := rfl
@[simp] theorem modPower_num (s : State) (f : PowerState → PowerState) : (modPower s f).num = s.num := rfl
@[simp] theorem modPower_kv (s : State) (f : PowerState → PowerState) : (modPower s f).kv = s.kv := rfl
@[simp] theorem modPower_job (s : State) (f : PowerState → PowerState) : (modPower s f).job = s.job := rfl
@[simp] theorem modPower_dunrel (s : State) (f : PowerState → PowerState) : (modPower s f).dunrel = s.dunrel := rfl
@[simp] theorem modPower_ras (s : State) (f : PowerState → PowerState) : (modPower s f).ras = s.ras := rfl
@[simp] theorem modPower_net (s : State) (f : PowerState → PowerState) : (modPower s f).net = s.net := rfl
@[simp] theorem modPower_recov (s : State) (f : PowerState → PowerState) : (modPower s f).recov = s.recov := rfl
@[simp] theorem modPower_sent (s : State) (f : PowerState → PowerState) : (modPower s f).sent = s.sent := rfl
@[simp] theorem modPower_egress (s : State) (f : PowerState → PowerState) : (modPower s f).egress = s.egress := rfl
@[simp] theorem modPower_reg (s : State) (f : PowerState → PowerState) (x : Nat) : reg (modPower s f) x = reg s x := rfl
@[simp] theorem modPower_coreOf (s : State) (f : PowerState → PowerState) (c : Core) : coreOf (modPower s f) c = coreOf s c := rfl

/-! ### modRas -/

@[simp] theorem modRas_pending (s : State) (f : RasState → RasState) : (modRas s f).pending = s.pending := rfl
@[simp] theorem modRas_clk (s : State) (f : RasState → RasState) : (modRas s f).clk = s.clk := rfl
@[simp] theorem modRas_part (s : State) (f : RasState → RasState) : (modRas s f).part = s.part := rfl
@[simp] theorem modRas_dev (s : State) (f : RasState → RasState) : (modRas s f).dev = s.dev := rfl
@[simp] theorem modRas_mode (s : State) (f : RasState → RasState) : (modRas s f).mode = s.mode := rfl
@[simp] theorem modRas_fresh (s : State) (f : RasState → RasState) : (modRas s f).fresh = s.fresh := rfl
@[simp] theorem modRas_regs (s : State) (f : RasState → RasState) : (modRas s f).regs = s.regs := rfl
@[simp] theorem modRas_mem (s : State) (f : RasState → RasState) : (modRas s f).mem = s.mem := rfl
@[simp] theorem modRas_cores (s : State) (f : RasState → RasState) : (modRas s f).cores = s.cores := rfl
@[simp] theorem modRas_num (s : State) (f : RasState → RasState) : (modRas s f).num = s.num := rfl
@[simp] theorem modRas_kv (s : State) (f : RasState → RasState) : (modRas s f).kv = s.kv := rfl
@[simp] theorem modRas_job (s : State) (f : RasState → RasState) : (modRas s f).job = s.job := rfl
@[simp] theorem modRas_dunrel (s : State) (f : RasState → RasState) : (modRas s f).dunrel = s.dunrel := rfl
@[simp] theorem modRas_net (s : State) (f : RasState → RasState) : (modRas s f).net = s.net := rfl
@[simp] theorem modRas_recov (s : State) (f : RasState → RasState) : (modRas s f).recov = s.recov := rfl
@[simp] theorem modRas_power (s : State) (f : RasState → RasState) : (modRas s f).power = s.power := rfl
@[simp] theorem modRas_sent (s : State) (f : RasState → RasState) : (modRas s f).sent = s.sent := rfl
@[simp] theorem modRas_egress (s : State) (f : RasState → RasState) : (modRas s f).egress = s.egress := rfl
@[simp] theorem modRas_reg (s : State) (f : RasState → RasState) (x : Nat) : reg (modRas s f) x = reg s x := rfl
@[simp] theorem modRas_coreOf (s : State) (f : RasState → RasState) (c : Core) : coreOf (modRas s f) c = coreOf s c := rfl

/-! ### What an update leaves in its own field -/

@[simp] theorem setReg_regs (s : State) (k v : Nat) : (setReg s k v).regs = regPut s.regs k v := rfl
@[simp] theorem modNet_net (s : State) (f : NetState → NetState) : (modNet s f).net = f s.net := rfl
@[simp] theorem modRec_recov (s : State) (f : RecovState → RecovState) : (modRec s f).recov = f s.recov := rfl
@[simp] theorem modDun_dunrel (s : State) (f : DunrelState → DunrelState) : (modDun s f).dunrel = f s.dunrel := rfl
@[simp] theorem modPower_power (s : State) (f : PowerState → PowerState) : (modPower s f).power = f s.power := rfl
@[simp] theorem modRas_ras (s : State) (f : RasState → RasState) : (modRas s f).ras = f s.ras := rfl
@[simp] theorem send_sent (s : State) (m : OutMsg) : (send s m).sent = m :: s.sent := rfl

/-- The core changed holds its change. -/
@[simp] theorem coreOf_modCore_self (s : State) (l : Core) (f : CoreState → CoreState) :
    coreOf (modCore s l f) l = f (coreOf s l) := by
  show (s.cores.set l (f s.cores[l]))[l] = f s.cores[l]
  simp

/-- The other cores are as they were. -/
theorem coreOf_modCore_other (s : State) {l c : Core} (f : CoreState → CoreState) (h : c ≠ l) :
    coreOf (modCore s l f) c = coreOf s c := by
  show (s.cores.set l (f s.cores[l]))[c] = s.cores[c]
  have : l.val ≠ c.val := fun e => h (Fin.ext e.symm)
  simp [this]

/-! ### Registers -/

theorem regFind_regPut (l : List (Nat × Nat)) (k v x : Nat) :
    regFind (regPut l k v) x = if x = k then some v else regFind l x := by
  induction l with
  | nil =>
    by_cases h : k = x
    · simp [regPut, regFind, h]
    · simp [regPut, regFind, h, Ne.symm h]
  | cons c r ih =>
    obtain ⟨a, u⟩ := c
    simp only [regPut]
    split
    · rename_i hk
      by_cases h : k = x
      · simp [regFind, h]
      · simp [regFind, h, Ne.symm h]
    · split
      · rename_i _ e
        subst e
        by_cases h : a = x
        · simp [regFind, h]
        · simp [regFind, h, Ne.symm h]
      · rename_i _ hne
        simp only [regFind, ih]
        by_cases h : a = x
        · subst h; simp [hne]
        · simp [h]

/-- A register reads what was last written to it. -/
@[simp] theorem reg_setReg_self (s : State) (k v : Nat) : reg (setReg s k v) k = v := by
  simp [reg, regFind_regPut]

/-- A write leaves the other registers as they were. -/
theorem reg_setReg_other (s : State) {k x : Nat} (v : Nat) (h : x ≠ k) : reg (setReg s k v) x = reg s x := by
  simp [reg, regFind_regPut, h]

/-- A counter after it advanced (R484). -/
@[simp] theorem reg_bump_self (s : State) (k n : Nat) : reg (bump s k n) k = (reg s k + n) % 2 ^ (8 * keySize k) :=
  reg_setReg_self s k _

/-- A counter that advances leaves the other registers as they were. -/
theorem reg_bump_other (s : State) {k x : Nat} (n : Nat) (h : x ≠ k) : reg (bump s k n) x = reg s x :=
  reg_setReg_other s _ h

/-! ### Memory -/

theorem foldl_mem {α : Type} {f : State → α → State} (hf : ∀ t x, (f t x).mem = t.mem) (l : List α) (s : State) :
    (l.foldl f s).mem = s.mem := by
  induction l generalizing s with
  | nil => rfl
  | cons x l ih => rw [List.foldl_cons, ih, hf]

/-- The comparators that see a write change no byte (R309, R312). -/
@[simp] theorem notice_mem (s : State) (a n : Nat) : (notice s a n).mem = s.mem := by
  unfold notice
  split
  · rfl
  · refine foldl_mem (fun t l => ?_) _ _
    simp only [noticeCore]
    split <;> split <;> rfl

@[simp] theorem freshGranule_mem (s : State) (a n g : Nat) : (freshGranule s a n g).mem = s.mem := rfl

/-- What a write does to the condition of its granules changes no byte. -/
@[simp] theorem freshSpan_mem (s : State) (a n : Nat) : (freshSpan s a n).mem = s.mem := by
  unfold freshSpan
  split
  · refine foldl_mem (fun t g => ?_) _ _
    dsimp only
    split <;> rfl
  · rfl

/-- Memory after a write: the bytes stored, and their copies where the span is mirrored (R343). -/
theorem writeBytes_mem (s : State) (a : Nat) (b : List Byte) : (writeBytes s a b).mem =
    if spanMirrored s a b.length then mirrorBytes s (memWrite s.mem a b) a b else memWrite s.mem a b := by
  unfold writeBytes
  split
  · rename_i h
    have : b = [] := List.isEmpty_iff.mp h
    subst this
    simp [memWrite, mirrorBytes]
  · simp

/-- A byte outside a span that is not mirrored is unchanged by a write of the span. -/
theorem memGet_writeBytes_outside (s : State) (a x : Nat) (b : List Byte) (h : s.MemOk)
    (hm : spanMirrored s a b.length = false) (hx : x < a ∨ a + b.length ≤ x) :
    memGet (writeBytes s a b).mem x = memGet s.mem x := by
  rw [writeBytes_mem, hm]
  exact memGet_memWrite_outside a x b h hx

/-- A byte of a span that is not mirrored holds what a write of the span stored. -/
theorem memGet_writeBytes_inside (s : State) (a i : Nat) (b : List Byte) (h : s.MemOk)
    (hm : spanMirrored s a b.length = false) (hi : i < b.length) : memGet (writeBytes s a b).mem (a + i) = b[i] := by
  rw [writeBytes_mem, hm]
  exact memGet_memWrite_inside a i b h hi

end Sys2Proof.Machine
end

