-- ==== Sys2Proof/WellFormed.lean ====
section
/-!
DEFINITION. Which commands are well formed: every field fits the width that the manual gives it.
-/
namespace Sys2Proof.Machine

/-- A Dunrel header's fields have the widths of R463. -/
def DReq.wf (m : DReq) : Bool :=
  decide (m.type < 2 ^ 8) && decide (m.ver < 2 ^ 4) && decide (m.reqId < 2 ^ 32) && decide (m.index < 2 ^ 16) &&
  decide (m.sub < 2 ^ 8) && decide (m.txn < 2 ^ 8) && decide (m.element < 2 ^ 32) && decide (m.count < 2 ^ 32) &&
  decide (m.offset < 2 ^ 32) && decide (m.total < 2 ^ 32) && decide (m.payload.length < 2 ^ 32)

/-- Peer addresses have 128 bits and a key hash 32 bytes (R459, R460). -/
def Handshake.wf (h : Handshake) : Bool :=
  decide (h.peer < 2 ^ 128) && (match h.key with | some k => k.length == 32 | none => true)

/-- SRC names a rank of 15 bits or an endpoint of 10 (R366). -/
def Peer.wf : Peer → Bool
  | .rank n => decide (n < 2 ^ 15)
  | .endpoint e => decide (e < 2 ^ 10)

/-- The common header's fields have the widths of R366. -/
def TbkHdr.wf (h : TbkHdr) : Bool :=
  decide (h.ver < 2 ^ 4) && decide (h.path < 2) && h.src.wf && decide (h.dstCtx < 2 ^ 14) && decide (h.psn < 2 ^ 32) &&
  decide (h.job < 2 ^ 16) && decide (h.epoch < 2 ^ 16) && decide (h.ipSrc < 2 ^ 128) && decide (h.udpSrc < 2 ^ 16)

/-- The DATA extension's fields have the widths of R369. -/
def DataExt.wf (e : DataExt) : Bool :=
  decide (e.msg < 2 ^ 32) && decide (e.offset < 2 ^ 32) && decide (e.mlen < 2 ^ 32) && decide (e.kind < 2 ^ 4) &&
  decide (e.plan < 2 ^ 16) && decide (e.payload.length < 2 ^ 16)

/-- The fields of ACK and NAK have the widths of R372. -/
def AckExt.wf (e : AckExt) : Bool :=
  decide (e.next < 2 ^ 32) && decide (e.limit < 2 ^ 32) && decide (e.code < 2 ^ 8) && decide (e.repoch < 2 ^ 16)

/-- The fields of OPEN, OPEN_ACK and CLOSE have the widths of R378. -/
def OpenExt.wf (e : OpenExt) : Bool :=
  decide (e.ctx < 2 ^ 14) && decide (e.kind < 2 ^ 4) && decide (e.code < 2 ^ 8) && decide (e.psn < 2 ^ 32) &&
  decide (e.limit < 2 ^ 32) && decide (e.nonce < 2 ^ 32)

/-- The heartbeat's fields have the widths of R380. -/
def HeartbeatExt.wf (e : HeartbeatExt) : Bool :=
  decide (e.time < 2 ^ 64) && decide (e.step < 2 ^ 64) && decide (e.state < 2 ^ 8) && decide (e.mode < 2 ^ 8) &&
  decide (e.seq < 2 ^ 32)

/-- The stretch request's fields have the widths and the range of R382. -/
def StretchMsg.wf (m : StretchMsg) : Bool :=
  decide (m.origin < 2 ^ 15) && decide (1 ≤ m.quanta) && decide (m.quanta ≤ 255) && decide (m.reqId < 2 ^ 32) &&
  decide (m.step < 2 ^ 64) && decide (m.phase < 2 ^ 16)

/-- A frame fits the largest Ethernet frame field, and its port is a UDP port. -/
def Frame.wf (f : Frame) : Bool :=
  decide (f.len < 2 ^ 16) && (match f.port with | some p => decide (p < 2 ^ 16) | none => true)

/-- Six zones report (R517). -/
def Telemetry.wf (x : Telemetry) : Bool := x.temps.length == 6

/-- A join's transaction is well formed, its rank has 15 bits (R444). -/
def JoinSide.wf : JoinSide → Bool
  | .spare m => m.wf
  | .answered r => decide (r < 2 ^ 15)

/-- An image has a stream and a descriptor table for every logical core (R282, R290). -/
def Image.wf (i : Image) : Bool := i.streams.length == 128 && i.tables.length == 128

/-- No codeword names a stored symbol twice, and an error changes its symbol (R333). -/
def symErrsWf (l : List SymErr) : Bool :=
  l.all (fun e => e.2.2 != 0#8) && decide ((l.map fun e => (e.1, e.2.1)).Nodup)

/-- Entries of the sequence table with counts of tokens (R267, R269). -/
def planWf (l : List (Nat × Nat)) : Bool := l.all fun x => decide (x.1 < 8192) && decide (x.2 < 2 ^ 16)

/-- A projected end is a PTP time. -/
def endWf : Option Nat → Bool
  | some e => decide (e < 2 ^ 64)
  | none => true

end Sys2Proof.Machine

namespace Sys2Proof
open Sys2Proof.Machine

/-- A command whose fields fit their widths. -/
def Instr.WellFormed (i : Instr) : Bool :=
  match i with
  | .dtlsHandshake h => h.wf
  | .read m => m.wf
  | .write m => m.wf
  | .txnOpen m => m.wf
  | .txnCommit m => m.wf
  | .txnAbort m => m.wf
  | .subscribe m => m.wf
  | .eventAck m => m.wf
  | .decide m => m.wf
  | .attest m => m.wf
  | .close m => m.wf
  | .closeNotify _ => true
  | .sessionIdleExpiry _ => true
  | .txnIdleExpiry h => Nat.blt h 256
  | .txnDeferLimitExpiry h _ => Nat.blt h 256
  | .eventResend _ num => Nat.blt num (2 ^ 32)
  | .accessListWrite m => m.wf
  | .jobStart m plan => m.wf && planWf plan
  | .jobModeSwitch m => m.wf
  | .jobEnd m => m.wf
  | .joinTransaction x => x.wf
  | .joinTimeout rank => Nat.blt rank 32768
  | .rankMapRedraw m => m.wf
  | .endpointWrite m => m.wf
  | .admitSeq m => m.wf
  | .fork m => m.wf
  | .evict m => m.wf
  | .retire m => m.wf
  | .imageLoad m => m.wf
  | .imageLoadDone img => img.wf
  | .imageSwap m => m.wf
  | .imageSwapCheckDone img => img.wf
  | .stateReqAsleep m => m.wf
  | .stateReqReady m => m.wf
  | .stateReqMaint m => m.wf
  | .stateTransitionDone _ => true
  | .restoreDefaults m => m.wf
  | .resetReq m _ => m.wf
  | .memAccessWrite m => m.wf
  | .fwStageWrite m => m.wf
  | .fwProgramDone => true
  | .fwCheck m => m.wf
  | .fwCheckDone => true
  | .fwSelect m => m.wf
  | .nop _ idx => Nat.blt idx 65536
  | .fwd _ idx => Nat.blt idx 65536
  | .bwd _ idx => Nat.blt idx 65536
  | .bpair _ idx => Nat.blt idx 65536
  | .tiedsum f idx => Nat.blt idx 65536 && endWf f.ending
  | .convert f idx => Nat.blt idx 65536 && endWf f.ending
  | .append _ idx => Nat.blt idx 65536
  | .attn _ idx => Nat.blt idx 65536
  | .sample _ idx => Nat.blt idx 65536
  | .optstep _ idx => Nat.blt idx 65536
  | .copy _ idx => Nat.blt idx 65536
  | .copyRowPublish f idx => Nat.blt idx 65536 && endWf f.ending
  | .prefetch _ idx => Nat.blt idx 65536
  | .prefetchRefetch _ idx e => Nat.blt idx 65536 && endWf e
  | .save _ idx => Nat.blt idx 65536
  | .load _ idx => Nat.blt idx 65536
  | .fillDropout _ idx => Nat.blt idx 65536
  | .fillInit _ idx => Nat.blt idx 65536
  | .fillNoise _ idx => Nat.blt idx 65536
  | .sloeEvaluation _ _ _ => true
  | .coll _ idx => Nat.blt idx 65536
  | .normSquares _ idx => Nat.blt idx 65536
  | .normAdd _ idx => Nat.blt idx 65536
  | .normLayerSums _ idx => Nat.blt idx 65536
  | .wait _ idx => Nat.blt idx 65536
  | .signal _ idx => Nat.blt idx 65536
  | .signalArrival f => endWf f.ending
  | .fence _ idx => Nat.blt idx 65536
  | .phaseOpen _ idx => Nat.blt idx 65536
  | .phaseClose _ idx e => Nat.blt idx 65536 && endWf e
  | .microbatchOpen _ idx => Nat.blt idx 65536
  | .microbatchClose _ idx => Nat.blt idx 65536
  | .stepClose _ idx => Nat.blt idx 65536
  | .ctxsave _ idx e => Nat.blt idx 65536 && endWf e
  | .operationComplete f idx => Nat.blt idx 65536 && endWf f.ending
  | .tokenTimeout _ _ => true
  | .memRequestTimeout _ slot _ => Nat.blt slot 64
  | .memReadResponse _ slot errs mErrs => Nat.blt slot 64 && symErrsWf errs && symErrsWf mErrs
  | .memWriteAck _ slot => Nat.blt slot 64
  | .reedBankSwap f held => Nat.blt held (2 ^ 64) && endWf f.ending
  | .skipMiss _ e => endWf e
  | .reedVerdict _ row _ e => Nat.blt row (2 ^ 16) && endWf e
  | .coreMoveDone _ => true
  | .slateBankSwap f => endWf f.ending
  | .slateVerdict _ row _ e => Nat.blt row (2 ^ 16) && endWf e
  | .slateBorrowIssue f _ => endWf f.ending
  | .quinceBankSwap _ waits => Nat.blt waits (2 ^ 64)
  | .quinceVerdict _ _ e => endWf e
  | .activityWindow f real straw => Nat.blt real (80 * 131072 + 1) && Nat.blt straw 81 && endWf f.ending
  | .arrayRampDown _ => true
  | .wakeTimer f => endWf f.ending
  | .tsSwitch f => endWf f.ending
  | .sparPassTest _ idx k e => Nat.blt idx 65536 && Nat.blt k (2 ^ 16) && endWf e
  | .shadowCompare slot => Nat.blt slot (2 ^ 32)
  | .engineCheck _ _ _ => true
  | .stepBoundary plan => planWf plan
  | .pauseTimeout id => Nat.blt id (2 ^ 32)
  | .secureCaptureDone e => endWf e
  | .secureCommit => true
  | .logEntryAck => true
  | .buddyStreamRx => true
  | .frameRx f => f.wf
  | .dataRx h e => h.wf && e.wf
  | .ackRx h e => h.wf && e.wf
  | .nakRx h e => h.wf && e.wf
  | .openCtx h e => h.wf && e.wf
  | .openAck h e => h.wf && e.wf
  | .tbkClose h e => h.wf && e.wf
  | .heartbeat h e => h.wf && e.wf
  | .stretch h m => h.wf && m.wf
  | .ackTimer n => Nat.blt n 16384
  | .tbkRtoExpiry n _ => Nat.blt n 16384
  | .heartbeatTimer => true
  | .heartbeatLoss rank _ => Nat.blt rank 32768
  | .heldBoundaryStretch => true
  | .linkLoss => true
  | .linkUp => true
  | .gatewayResolve _ => true
  | .neighbourResolution _ requester target => Nat.blt requester (2 ^ 128) && Nat.blt target (2 ^ 128)
  | .icmpEcho src payload => Nat.blt src (2 ^ 128) && Nat.blt payload.length 65536
  | .ptpMessage src domain _ => Nat.blt src (2 ^ 128) && Nat.blt domain 256
  | .ptpAnnounceTimeout => true
  | .ptpHoldoverExpiry => true
  | .fetchResponse => true
  | .fetchTimeout entry _ => Nat.blt entry (2 ^ 32)
  | .servingRequestAdmit => true
  | .servingRequestFork => true
  | .servingRequestRetire => true
  | .faultMessage => true
  | .rollback => true
  | .redraw => true
  | .restored => true
  | .startMsg => true
  | .replayResult => true
  | .resume => true
  | .halt => true
  | .secured => true
  | .takeover => true
  | .imageReq => true
  | .scrubRead _ errs mErrs _ => symErrsWf errs && symErrsWf mErrs
  | .scrubPassEnd _ => true
  | .channelFailed _ _ => true
  | .retireCopyDone _ => true
  | .flitRx _ _ => true
  | .d2dLaneFail _ => true
  | .d2dLinkLoss _ => true
  | .mgmtWdtExpiry _ => true
  | .dormerRestartDone => true
  | .coldStart _ => true
  | .stop => true
  | .rstNAssert => true
  | .rstNRelease _ => true
  | .antiRollback => true
  | .storeWrite => true
  | .storeWriteTimer => true
  | .telemetryUpdate x ends => x.wf && (ends.all fun x => Nat.blt x.2 (2 ^ 64))
  | .thermalTrip _ _ => true
  | .inputVoltageFault _ => true
  | .inputOvercurrent => true
  | .railFault => true
  | .referenceLoss _ => true
  | .noiseHealthFail => true
  | .inputInRange _ => true
  | .referencePresent _ => true
  | .restoreComplete => true
  | .rebuildComplete _ => true
  | .otherTypeRequest m => m.wf

end Sys2Proof
end

