-- ==== Sys2Proof/Tests/Slice0.lean ====
section
/-!
SUPPORT. The author's tests: the refusals of well-formedness, a witness for every statement that has hypotheses and for each of its
clauses (`wit_…`), and small steps whose results the manual gives (`test_…`).
-/
namespace Sys2Proof.Tests

set_option Elab.async false
open Sys2Proof Sys2Proof.Machine Sys2Proof.Slice0

/-! ### States and words -/

/-- The state that an outcome answers, or s. -/
def after (o : Host.Outcome State Fault Refusal) (s : State) : State :=
  match o with
  | .next t => t
  | _ => s

/-- A stream word: an opcode and its other bits (R284). -/
def word (op : Nat) (rest : Nat := 0) : BitVec 256 := BitVec.ofNat 256 (op * 2 ^ 248 + rest)

/-- A phase mark: its kind, the phase and the lag (R286). -/
def mark (kind ph : Nat) (lag : Nat := 0) : BitVec 256 := word 0x2C (kind + 16 * lag + 2 ^ 16 * ph)

/-- The argument k of a word of form D. -/
def arg (k v : Nat) : Nat := v * 2 ^ (176 - 16 * k)

/-- The cells that bytes from an address fill. -/
def cells (x : Nat × List Byte) : Mem := x.2.zipIdx.filterMap fun (b, i) => if b = 0#8 then none else some (x.1 + i, b)

/-- The cells of a schedule stream that lies at 0x1000 of the Thatch of die 0 (R282, R284). -/
def streamCells (ws : List (BitVec 256)) : Mem := cells (thatchAddr 0 + 0x1000, ws.flatMap fun w => leBytes 32 w.toNat)

/-- A module that runs a training job whose core 0 has a schedule stream. -/
def run (ws : List (BitVec 256)) (f : CoreState → CoreState := id) : State :=
  { State.reset with
    dev := .running, mode := .train, mem := streamCells ws
    job := { State.reset.job with
      streams := [(0x1000, ws.length)], tables := List.replicate 128 (0x1000, 16), windows := [(0x1000000, 0x1000000), (sramAddr 0, sramSize)]
      phases := [{ start := 0, base := 1000, reserve := 100 }, { start := 5000, base := 1000, reserve := 100, timed := true }]
      shifts := [0, 0], step := 3 }
    cores := State.reset.cores.set 0 (f {}) }

/-- The same with registers set. -/
def withRegs (s : State) (l : List (Nat × Nat)) : State := l.foldl (fun t x => setReg t x.1 x.2) s

/-- The same with bytes in memory. -/
def withBytes (s : State) (a : Nat) (b : List Byte) : State := { s with mem := memWrite s.mem a b }

/-- A state with its condition, or its power part, changed. -/
def withRas (s : State) (f : RasState → RasState) : State := { s with ras := f s.ras }
def withPower (s : State) (f : PowerState → PowerState) : State := { s with power := f s.power }

/-! ### Witnesses: the block and its queue -/

theorem wit_idle : State.reset.pending = [] := rfl
theorem wit_keeps : State.reset.MemOk ∧ State.reset.RegsOk ∧ State.reset.JobOk ∧ (run [mark 0 0]).JobOk :=
  ⟨rfl, List.Pairwise.nil, ⟨by decide, by decide⟩, ⟨by decide, by decide⟩⟩
theorem wit_step_answers : ∃ t, step State.reset = .next t := ⟨_, rfl⟩
theorem wit_step_command : ∃ t, step { State.reset with pending := [.halt] } = .next t := ⟨_, rfl⟩

/-! ### Witnesses: schedule streams -/

theorem wit_may_not_issue :
    issuesAt (.nop 0 32) = some (0, 32) ∧ executing State.reset = false ∧
    (coreOf (run [] fun c => { c with base := 1 }) 0).base = 1 ∧ (coreOf (run []) 0).base + 32 ≤ 32 ∧
    streamWord (run [word 0]) 0 1 = none ∧ (coreOf (run [] fun c => { c with halted := true }) 0).halted = true := by
  decide +kernel

theorem wit_precedes : earlierReady (run [word 0, word 0]) 0 1 = true ∧ issuesAt (.nop 0 1) = some (0, 1) := by decide +kernel

theorem wit_token_clear : streamWord (run [word 0 (2 ^ 245 + 7 * 2 ^ 232)]) 0 0 = some (word 0 (2 ^ 245 + 7 * 2 ^ 232)) ∧
    7 ∈ opWaits (word 0 (2 ^ 245 + 7 * 2 ^ 232)) ∧
    tokenSet (coreOf (run [word 0 (2 ^ 245 + 7 * 2 ^ 232)]) 0) 7 = false := by decide +kernel

theorem wit_may_issue : canIssue (run [word 0]) 0 0 (word 0) .nop = true ∧ canIssue (run [word 0x28]) 0 0 (word 0x28) .wait = true ∧
    canIssue (run [word 0x29]) 0 0 (word 0x29) .signal = true ∧ canIssue (run [word 0x2A]) 0 0 (word 0x2A) .fence = true ∧
    canIssue (run (List.replicate 32 (word 0)) fun c => { c with ahead := List.range 31 }) 0 31 (word 0) .nop = true := by
  decide +kernel

theorem wit_tokens : tokenSet (coreOf (run [] fun c => { c with tokens := 1#256 <<< 255 }) 0) 255 = true ∧
    tokenSet (coreOf (run []) 0) 0 = false := by decide +kernel

theorem wit_signal : (∀ x ∈ [(5, 1)], x.1 ≠ (0 : Core).val) ∧ [(5, 1), (0, 255)] = [(5, 1)] ++ ((0 : Core).val, (255 : Fin 256).val) :: [] := by
  decide +kernel

/-! ### Witnesses: marks -/

/-- A state with one weight version in use. -/
def versioned (ws : List (BitVec 256)) (refs : Nat) (st : SlotState := .current) : State :=
  { run ws with num := { State.reset.num with slots := [{ state := st, refs := refs, version := 0 }] } }

theorem wit_microbatch :
    lagSlot (versioned [mark 2 0] 0) (opImm (mark 2 0) 5 4) = some 0 ∧ markReady (versioned [mark 2 0] 0) 0 0 2 = some (mark 2 0) ∧
    lagSlot (versioned [mark 3 0] 1) (opImm (mark 3 0) 5 4) = some 0 ∧ markReady (versioned [mark 3 0] 1) 0 0 3 = some (mark 3 0) ∧
    0 < ((versioned [mark 3 0] 1).num.slots.getD 0 {}).refs ∧
    markReady (versioned [mark 3 0] 0) 0 0 3 = some (mark 3 0) ∧ ((versioned [mark 3 0] 0).num.slots.getD 0 {}).refs = 0 := by
  decide +kernel

theorem wit_phase_untimed : markReady (run [mark 0 0]) 0 0 0 = some (mark 0 0) ∧ phaseMayOpen (run [mark 0 0]) 0 = true ∧
    (phaseAt (run [mark 0 0]) 0).timed = false := by decide +kernel

theorem wit_phase_on_time : markReady { run [mark 0 1] with clk := 8000 } 0 0 0 = some (mark 0 1) ∧
    phaseMayOpen { withRegs (run [mark 0 1]) [(Obj.stepPeriod, 0)] with clk := 8000 } 1 = true ∧
    ptpNow { withRegs (run [mark 0 1]) [(Obj.stepPeriod, 0)] with clk := 8000 } =
      currentStart { withRegs (run [mark 0 1]) [(Obj.stepPeriod, 0)] with clk := 8000 } 1 := by decide +kernel

theorem wit_phase_early : ptpNow (withRegs (run [mark 0 1]) [(Obj.stepPeriod, 0)]) <
    currentStart (withRegs (run [mark 0 1]) [(Obj.stepPeriod, 0)]) 1 := by decide +kernel

theorem wit_phase_late : phaseMayOpen { withRegs (run [mark 0 1]) [(Obj.stepPeriod, 0)] with clk := 8002 } 1 = true ∧
    currentStart { withRegs (run [mark 0 1]) [(Obj.stepPeriod, 0)] with clk := 8002 } 1 <
      ptpNow { withRegs (run [mark 0 1]) [(Obj.stepPeriod, 0)] with clk := 8002 } := by decide +kernel

theorem wit_marks_close : markReady (run [mark 1 0]) 0 0 1 = some (mark 1 0) ∧ markReady (run [mark 4 0]) 0 0 4 = some (mark 4 0) := by
  decide +kernel

/-- A data-fetch phase that closes, the last of the step or not. -/
def fetchPhase (last : Bool) : State :=
  let s := run [mark 1 0]
  { s with job := { s.job with phases := { start := 0, base := 1000, reserve := 100, kind := 2 } :: if last then [] else s.job.phases.drop 1 } }

theorem wit_fetch_close : markReady (run [mark 1 0]) 0 0 1 = some (mark 1 0) ∧ (phaseAt (run [mark 1 0]) 0).kind ≠ 2 ∧
    markReady (fetchPhase true) 0 0 1 = some (mark 1 0) ∧ markReady (fetchPhase false) 0 0 1 = some (mark 1 0) ∧
    (phaseAt (fetchPhase true) 0).kind = 2 ∧ (phaseAt (fetchPhase false) 0).kind = 2 ∧ shardsLogged (fetchPhase true) = false ∧
    shardsLogged (fetchPhase false) = false ∧ reg (fetchPhase true) Obj.fetchMode = 0 ∧ (fetchPhase true).job.sums = [] ∧
    (fetchPhase true).job.phases.length = 1 ∧ markPhase (mark 1 0) + 1 < (fetchPhase false).job.phases.length ∧
    shardsLogged { fetchPhase true with net := { (fetchPhase true).net with fetchDone := true } } = true ∧
    reg (withRegs (fetchPhase true) [(Obj.fetchMode, 1)]) Obj.fetchMode ≠ 0 := by decide +kernel

/-! ### Witnesses: engine operations -/

/-- The bytes of a descriptor (R291). -/
def descB (d : Desc) : List Byte :=
  leBytes 6 d.base ++ leBytes 1 d.format ++ leBytes 1 (d.blk + 16 * d.lag + if d.versioned then 64 else 0) ++ leBytes 6 d.splane
    ++ leBytes 1 d.kind ++ leBytes 1 0 ++ leBytes 4 d.dim0 ++ leBytes 4 d.dim1 ++ leBytes 4 d.dim2 ++ leBytes 4 d.dim3
    ++ leBytes 8 d.stride1 ++ leBytes 8 d.stride2 ++ leBytes 8 d.stride3 ++ leBytes 4 d.tscale.toNat ++ leBytes 4 d.ident

/-- The k-th area of core 0's local SRAM. -/
def area (k : Nat) : Nat := sramAddr 0 + 0x10000 * (k + 1)

/-- A region of n bytes in area k. -/
def region (k n : Nat) : Desc := { base := area k, kind := 1, dim0 := n }

/-- A vector of n elements in area k, its scale plane in area p. -/
def vec (k fmt n : Nat) (p : Nat := 9) : Desc := { base := area k, format := fmt, splane := area p, dim0 := n, tscale := w32One }

/-- A word of form D with its arguments, the others naming no descriptor (R285). -/
def wordD (op : Nat) (args : List Nat) (imm : Nat := 0) (opf : Nat := 0) : BitVec 256 :=
  word op (opf * 2 ^ 240 + ((List.range 8).map fun k => arg k (args.getD k noDesc)).foldl (· + ·) imm)

/-- A running job whose core 0 issues one word with a table of descriptors, and bytes in memory below and above the table. -/
def opState (w : BitVec 256) (ds : List Desc) (high : List (Nat × List Byte) := []) (low : List (Nat × List Byte) := []) : State :=
  { run [w] with mem := (low.filter fun x => x.1 < thatchAddr 0 + 0x1000).flatMap cells ++ streamCells [w] ++
      (low.filter fun x => thatchAddr 0 + 0x1000 ≤ x.1).flatMap cells ++ cells (sramAddr 0 + 0x1000, ds.flatMap descB) ++ high.flatMap cells }

/-- What is read answers, and the answer has a property. -/
def okAnd {ε α : Type} (e : Except ε α) (p : α → Bool) : Bool :=
  match e with
  | .ok a => p a
  | .error _ => false

/-- COPY, PREFETCH, NORM and FILL between two regions. -/
def moveState (op imm n : Nat) : State := opState (wordD op [0, 1] imm) [region 0 n, region 1 n]

theorem wit_copy : canIssue (moveState 0x14 0 4) 0 0 (wordD 0x14 [0, 1]) .copy = true ∧ Memory.wf (moveState 0x14 0 4).mem = true ∧
    okAnd (operand! (moveState 0x14 0 4) 0 (opArg (wordD 0x14 [0, 1]) 0)) (fun d => d == region 0 4) = true ∧
    okAnd (dest! (moveState 0x14 0 4) 0 (opArg (wordD 0x14 [0, 1]) 1)) (fun d => d == region 1 4) = true ∧
    spanMirrored (moveState 0x14 0 4) (area 1) 4 = false := by decide +kernel
theorem wit_prefetch : canIssue (moveState 0x15 0 4) 0 0 (wordD 0x15 [0, 1]) .prefetch = true ∧
    comparators (coreOf (moveState 0x15 0 4) 0) < 64 ∧
    okAnd (operand! (moveState 0x15 0 4) 0 0) (fun d => d.kind == 1) = true := by decide +kernel
theorem wit_norm : canIssue (moveState 0x24 0 88) 0 0 (wordD 0x24 [0, 1]) .norm = true ∧
    canIssue (moveState 0x24 1 88) 0 0 (wordD 0x24 [0, 1] 1) .norm = true ∧
    canIssue (moveState 0x24 2 176) 0 0 (wordD 0x24 [0, 1] 2) .norm = true ∧ opImm (wordD 0x24 [0, 1] 2) 1 0 = 2 ∧
    okAnd (dest! (moveState 0x24 2 176) 0 1) (fun d => d == region 1 176) = true ∧
    spanMirrored (moveState 0x24 1 88) (area 1) 88 = false := by decide +kernel
theorem wit_dropout : canIssue (opState (wordD 0x1C [0] 1) [region 0 2]) 0 0 (wordD 0x1C [0] 1) .fill = true ∧
    fillPurpose (wordD 0x1C [0] 1) = 1 ∧ okAnd (dest! (opState (wordD 0x1C [0] 1) [region 0 2]) 0 0 false) (fun d => fillCount d true == 16)
      = true := by decide +kernel

/-- A word whose first operand is the descriptor beyond the end of the table. -/
def badState (op imm : Nat) : State := opState (wordD op [16, 16, 16] imm) []

theorem wit_refused_operand :
    (match operand! (badState 0x14 0) 0 (opArg (wordD 0x14 [16, 16, 16]) 0) with | .ok _ => false | .error e => e.1 == .sched) = true ∧
    (match operand! (badState 0x14 0) 0 15 with | .ok _ => false | .error e => e.1 == .sched) = true ∧
    canIssue (badState 0x14 0) 0 0 (wordD 0x14 [16, 16, 16]) .copy = true ∧
    canIssue (badState 0x15 0) 0 0 (wordD 0x15 [16, 16, 16]) .prefetch = true ∧
    canIssue (badState 0x18 0) 0 0 (wordD 0x18 [16, 16, 16]) .save = true ∧
    canIssue (badState 0x19 0) 0 0 (wordD 0x19 [16, 16, 16]) .load = true ∧
    canIssue (badState 0x24 2) 0 0 (wordD 0x24 [16, 16, 16] 2) .norm = true ∧
    canIssue (badState 0x09 0) 0 0 (wordD 0x09 [16, 16, 16]) .append = true ∧
    canIssue (badState 0x0D 0) 0 0 (wordD 0x0D [16, 16, 16]) .sample = true ∧
    freePipe (badState 0x0D 0) (0 : Core).die = some 0 := by decide +kernel

/-! ### Witnesses: products -/

/-- A product block of one row, one reduction element and one column (R288). -/
def prodB (shape : Nat) (entries : List (List Nat)) (deriv : Nat := 0) : List Byte :=
  leBytes 1 shape ++ leBytes 1 1 ++ leBytes 1 deriv ++ leBytes 1 0 ++ leBytes 2 1 ++ leBytes 2 1 ++ leBytes 2 1 ++ leBytes 2 0 ++ leBytes 4 1
    ++ leBytes 4 1 ++ leBytes 4 0 ++ leBytes 2 noDesc ++ leBytes 2 noDesc ++ leBytes 4 0
    ++ entries.flatMap fun e => (List.range 16).flatMap fun k => leBytes 2 (e.getD k noDesc)

/-- A product on two W16 operands, its block at offset 0x400. -/
def prodState (op shape : Nat) (entries : List (List Nat)) (deriv : Nat := 0) : State :=
  opState (word op (16 * 2 ^ 175)) [vec 0 7 1, vec 1 7 1, region 2 4, region 3 4, region 4 4116]
    [] [(sramAddr 0 + 0x400, prodB shape entries deriv)]

/-- The word of the product of `prodState`. -/
def fwdW : BitVec 256 := word 1 (16 * 2 ^ 175)

theorem wit_fwd : canIssue (prodState 1 0 [[0, 1, noDesc, 2, 3]]) 0 0 (word 1 (16 * 2 ^ 175)) .fwd = true ∧
    (coreOf (prodState 1 0 [[0, 1, noDesc, 2, 3]]) 0).reed = none ∧
    okAnd (loadSplits (prodState 1 0 [[0, 1, noDesc, 2, 3]]) 0 (prodBlock (prodState 1 0 [[0, 1, noDesc, 2, 3]]) 0 (word 1 (16 * 2 ^ 175))))
      (fun ds => ds.length == 1 && badScale (prodBlock (prodState 1 0 [[0, 1, noDesc, 2, 3]]) 0 fwdW)
        (fwdPlaces (prodState 1 0 [[0, 1, noDesc, 2, 3]]) 0 0 fwdW (prodBlock (prodState 1 0 [[0, 1, noDesc, 2, 3]]) 0 fwdW) ds) == none) = true := by
  decide +kernel

/-- Whether a product may issue on Slate: its geometry's scales are in order. -/
def slateReady (s : State) (w : BitVec 256) : Bool :=
  slateFree s 0 && okAnd (loadSplits s 0 (prodBlock s 0 w)) fun ds => badScale (prodBlock s 0 w) (slateScales (prodBlock s 0 w) ds) == none

theorem wit_bwd : canIssue (prodState 2 8 [[0, 1, noDesc, 2, 3]]) 0 0 (word 2 (16 * 2 ^ 175)) .bwd = true ∧
    slateReady (prodState 2 8 [[0, 1, noDesc, 2, 3]]) (word 2 (16 * 2 ^ 175)) = true := by decide +kernel
theorem wit_bpair : canIssue (prodState 3 10 [[0, 1, noDesc, 2, 3], [0, noDesc, noDesc, 2, 3]]) 0 0 (word 3 (16 * 2 ^ 175)) .bpair = true ∧
    slateReady (prodState 3 10 [[0, 1, noDesc, 2, 3], [0, noDesc, noDesc, 2, 3]]) (word 3 (16 * 2 ^ 175)) = true := by decide +kernel
/-- The product of `prodState` with tensor scales whose product is too small, and with a derivative table at 0. -/
def tinyState (op shape : Nat) (entries : List (List Nat)) : State :=
  let d := fun (k : Nat) => { vec k 5 1 with tscale := 0x00800000#32 }
  opState (word op (16 * 2 ^ 175)) [d 0, d 1, region 2 4, region 3 4, region 4 4116] [] [(sramAddr 0 + 0x400, prodB shape entries)]

theorem wit_bad_scale :
    okAnd (loadSplits (tinyState 1 0 [[0, 1, noDesc, 2, 3]]) 0 (prodBlock (tinyState 1 0 [[0, 1, noDesc, 2, 3]]) 0 fwdW)) (fun ds =>
      badScale (prodBlock (tinyState 1 0 [[0, 1, noDesc, 2, 3]]) 0 fwdW)
        (fwdPlaces (tinyState 1 0 [[0, 1, noDesc, 2, 3]]) 0 0 fwdW (prodBlock (tinyState 1 0 [[0, 1, noDesc, 2, 3]]) 0 fwdW) ds) == some 0) = true ∧
    okAnd (loadSplits (tinyState 2 8 [[0, 1, noDesc, 2, 3]]) 0 (prodBlock (tinyState 2 8 [[0, 1, noDesc, 2, 3]]) 0 (word 2 (16 * 2 ^ 175)))) (fun ds =>
      badScale (prodBlock (tinyState 2 8 [[0, 1, noDesc, 2, 3]]) 0 (word 2 (16 * 2 ^ 175)))
        (slateScales (prodBlock (tinyState 2 8 [[0, 1, noDesc, 2, 3]]) 0 (word 2 (16 * 2 ^ 175))) ds) == some 0) = true ∧
    canIssue (tinyState 1 0 [[0, 1, noDesc, 2, 3]]) 0 0 fwdW .fwd = true ∧ slateFree (tinyState 2 8 [[0, 1, noDesc, 2, 3]]) 0 = true ∧
    canIssue (tinyState 2 8 [[0, 1, noDesc, 2, 3]]) 0 0 (word 2 (16 * 2 ^ 175)) .bwd = true := by decide +kernel

/-- A backward product whose derivative table, in area 4, holds no value: its ends do not rise (R131). -/
def tableState : State := prodState 2 8 [[0, 1, noDesc, 2, 3, noDesc, noDesc, noDesc, noDesc, 4]] 7

theorem wit_table : canIssue tableState 0 0 (word 2 (16 * 2 ^ 175)) .bwd = true ∧ slateReady tableState (word 2 (16 * 2 ^ 175)) = true ∧
    (prodBlock tableState 0 (word 2 (16 * 2 ^ 175))).deriv = 7 ∧
    okAnd (loadSplits tableState 0 (prodBlock tableState 0 (word 2 (16 * 2 ^ 175)))) (fun ds =>
      (ds.head?.bind fun d => d.saved).any fun v => !tableOk tableState v.base) = true := by decide +kernel

theorem wit_tiedsum : canIssue (opState (wordD 4 [0, 1] 1) [region 0 4, region 1 2, region 2 4] [(area 1, [2#8, 0#8])]) 0 0
      (wordD 4 [0, 1] 1) .tiedsum = true ∧
    okAnd (tiedOperands (opState (wordD 4 [0, 1] 1) [region 0 4, region 1 2, region 2 4] [(area 1, [2#8, 0#8])]) 0 (wordD 4 [0, 1] 1))
      (fun x => x.1 == region 0 4 && x.2 == [region 2 4]) = true := by decide +kernel

/-! ### Witnesses: conversions -/

/-- A conversion of a W32 vector to K8 with a tracker, which the image names or not. -/
def convState (ladder : Bool) (fmt : Nat := 5) : State :=
  let s := opState (wordD 8 [0, 1]) [vec 0 8 2, vec 1 fmt 2]
  { s with
    num := { s.num with trackers := [[{ tscale := w32One, format := 5, valid := true, hist := List.replicate 8 {}, blocks := [{}] }]]
                        layers := [{}] }
    job := { s.job with opInfo := if ladder then [{ core := 0, idx := 0, chain := 0, staging := {}, k8 := {}, cluster := 0, tracker := 0, conv := 0, layer := 0, mb := 0 }] else [] } }

theorem wit_convert : canIssue (convState true) 0 0 (wordD 8 [0, 1]) .convert = true ∧
    okAnd (convSpec (convState true) 0 0 (wordD 8 [0, 1])) (fun c => c.dst.fmt.isScaled && (trackerAt (convState true) c.cluster c.tracker).isSome
      && ladderOf (convState true) 0 0 c == some (0, 0)) = true ∧
    okAnd (convSpec (convState false) 0 0 (wordD 8 [0, 1])) (fun c => (ladderOf (convState false) 0 0 c).isNone) = true ∧
    okAnd (convSpec (convState true 7) 0 0 (wordD 8 [0, 1])) (fun c => !c.dst.fmt.isScaled) = true := by decide +kernel

/-- An attention operation on one query, one key and one value of one W16 element, its block at offset 0x400 (R289). -/
def attnState (nk : Nat) : State :=
  opState (word 0x0C (16 * 2 ^ 175)) [vec 0 7 1, region 1 4, vec 2 7 1, vec 3 7 1, region 4 64] []
    [(sramAddr 0 + 0x400, leBytes 2 0 ++ leBytes 2 1 ++ leBytes 4 w32One.toNat ++ leBytes 4 0 ++ leBytes 4 nk ++ leBytes 8 0 ++
      [0, 1, 2, 3, 4, 4, 4, 4, 4].flatMap fun k => leBytes 2 k)]

theorem wit_attn : canIssue (attnState 1) 0 0 (word 0x0C (16 * 2 ^ 175)) .attn = true ∧ freePipe (attnState 1) (0 : Core).die = some 0 ∧
    okAnd (loadAttn (attnState 1) 0 (word 0x0C (16 * 2 ^ 175))) (fun a => w32IsFin a.b.sigma && w32Lt 0#32 a.b.sigma && scaleOk a.scale
      && !a.walkOver && (a.blocks (attnState 1)).1 == [0]) = true := by decide +kernel

theorem wit_sample : canIssue (opState (wordD 0x0D [0, 1]) [vec 0 8 2, region 1 4]) 0 0 (wordD 0x0D [0, 1]) .sample = true ∧
    okAnd (operand! (opState (wordD 0x0D [0, 1]) [vec 0 8 2, region 1 4]) 0 0) (fun d => d.dim0 == 2) = true ∧
    sampleRecordOk (readW32 (run []) (thatchAddr 0)) (readLE (run []) (thatchAddr 0 + 4) 4) = true ∧
    (opState (wordD 0x0D [0, 1]) []).kv.sampleRecords = 0 := by decide +kernel

/-- An optimizer step with hyperparameter record 0 in Thatch (R193). -/
def optState (known : Bool) : State :=
  let s := opState (wordD 0x10 [0, 1, 2, 3, 4, 5, 6]) [vec 0 8 1, vec 1 7 1, vec 2 11 1, vec 3 9 1, vec 4 10 1, region 5 16, region 6 16]
    [] [(thatchAddr 0, leBytes 12 0 ++ leBytes 4 w32One.toNat ++ leBytes 4 0 ++ leBytes 4 1)]
  { s with
    num := { s.num with norm := { known := known }, layers := [{}] }
    job := { s.job with hyperBase := thatchAddr 0, hyperCount := 1 } }

theorem wit_optstep : (optState false).num.norm.known = false ∧ (optState true).num.norm.known = true ∧
    canIssue (optState true) 0 0 (wordD 0x10 [0, 1, 2, 3, 4, 5, 6]) .optstep = true ∧
    okAnd (optArgs (optState true) 0 (wordD 0x10 [0, 1, 2, 3, 4, 5, 6])) (fun a => a.v8.isSome && a.vrec.isSome) = true ∧
    hyperOk (optState true) (thatchAddr 0) (parseHyper (readBytes (optState true) (thatchAddr 0) 64)) = true := by decide +kernel

theorem wit_save : canIssue (opState (wordD 0x18 [0, 1, 2]) [vec 0 7 1, region 1 4096, region 2 64]) 0 0 (wordD 0x18 [0, 1, 2]) .save = true ∧
    okAnd (dest! (opState (wordD 0x18 [0, 1, 2]) [vec 0 7 1, region 1 4096, region 2 64]) 0 2) (fun d => d == region 2 64) = true ∧
    canIssue (opState (wordD 0x19 [0, 1, 2]) [region 0 4096, vec 1 7 1, region 2 64]) 0 0 (wordD 0x19 [0, 1, 2]) .load = true ∧
    okAnd (dest! (opState (wordD 0x19 [0, 1, 2]) [region 0 4096, vec 1 7 1, region 2 64]) 0 1) (fun d => d.dim0 == 1) = true := by
  decide +kernel

theorem wit_fill : canIssue (opState (wordD 0x1C [0, 1] 2) [region 0 4, region 1 8]) 0 0 (wordD 0x1C [0, 1] 2) .fill = true ∧
    canIssue (opState (wordD 0x1C [0, 1] 5) [region 0 4, region 1 8]) 0 0 (wordD 0x1C [0, 1] 5) .fill = true ∧
    fillPurpose (wordD 0x1C [0, 1] 2) = 2 ∧ fillPurpose (wordD 0x1C [0, 1] 5) = 5 ∧ fillFormatOk (region 0 4) = true ∧
    okAnd (dest! (opState (wordD 0x1C [0, 1] 5) [region 0 4, region 1 8]) 0 0 false) (fun d => d == region 0 4) = true ∧
    okAnd (operand! (opState (wordD 0x1C [0, 1] 5) [region 0 4, region 1 8]) 0 1) (fun d => d == region 1 8) = true ∧
    w32IsFin (readW32 (run []) (area 1)) = true := by decide +kernel

/-- An append of position 0 of a running sequence whose step appends one token. -/
def appendState : State :=
  let s := opState (wordD 0x09 [0]) [vec 0 8 1]
  { setRegBytes s Obj.seqEntry ({ parseSeq [] with append := 1 } : Seq).bytes with kv := { s.kv with ran := [0] } }

theorem wit_append : canIssue appendState 0 0 (wordD 0x09 [0]) .append = true ∧ (seqAt appendState 0).len = 0 ∧
    (seqAt appendState 0).append = 1 ∧ appendState.kv.ran.contains 0 = true ∧
    okAnd (operand! appendState 0 0) (fun d => d.dim0 == 1) = true := by decide +kernel

/-- A collective in a group of one. -/
def collState : State :=
  let s := opState (wordD 0x20 []) []
  { s with net := { s.net with groups := [[0]] } }

theorem wit_coll : canIssue collState 0 0 (wordD 0x20 []) .coll = true ∧ (planAt collState 0).kind ≤ 7 ∧
    0 < (collState.net.groups.getD (planAt collState 0).group []).length ∧
    okAnd (operand collState 0 (opArg (wordD 0x20 []) 0)) (fun d => d.isNone) = true ∧ opArg (wordD 0x20 []) 1 = noDesc := by decide +kernel
theorem wit_ctxsave : canIssue (opState (wordD 0x2E []) []) 0 0 (wordD 0x2E []) .ctxsave = true ∧
    okAnd ((List.range 8).mapM fun k => operand (opState (wordD 0x2E []) []) 0 (opArg (wordD 0x2E []) k) false)
      (fun ds => ds == List.replicate 8 none) = true ∧ (opState (wordD 0x2E []) []).recov.securing = none := by decide +kernel

/-- The state while generation 2 is secured. -/
def securingState (w : BitVec 256) (f : Securing → Securing := id) : State :=
  let s := opState w []
  { s with recov := { s.recov with securing := some (f { gen := 2, since := 0, snap := [], parts := [] }) } }

theorem wit_context_save : secures (opState (wordD 0x2E []) []) = false ∧ secures (securingState (wordD 0x2E [])) = true ∧
    canIssue (securingState (wordD 0x2E [])) 0 0 (wordD 0x2E []) .ctxsave = true := by decide +kernel

/-! ### Witnesses: requests, timeouts and completion -/

/-- Core 0 with one operation in flight, done or not, and one request in a slot. -/
def slotState (w : BitVec 256) (write : Bool) (clk : Nat := 0) (done : Bool := true) : State :=
  { run [w] fun c => { c with base := 1, flight := [{ idx := 0, word := w, queue := .gutter, done := done }]
                              slots := [{ req := { op := 0, unit := .gutter, addr := 0x1000000, write := write }, since := 0 }] }
    with clk := clk }

theorem wit_complete : (coreOf (run [word 0x14] fun c => { c with flight := [{ idx := 0, word := word 0x14, queue := .gutter, done := true }] }) 0).flight.find?
      (fun x => x.idx == 0) = some { idx := 0, word := word 0x14, queue := .gutter, done := true } ∧
    hasRequests (coreOf (run [word 0x14] fun c => { c with flight := [{ idx := 0, word := word 0x14, queue := .gutter, done := true }] }) 0) 0 = false ∧
    (run []).dunrel.txns = [] ∧ opcodeOf (word 0x14) = some .copy := by decide +kernel

theorem wit_responses : (coreOf (slotState (word 0x14) false) 0).slots[0]?.map (fun x => x.req.write) = some false ∧
    (readGranule (slotState (word 0x14) false) 0x1000000 [] [] 0).2.isSome = true ∧
    (coreOf (slotState (word 0x14) true) 0).slots[0]?.map (fun x => x.req.write) = some true ∧
    (coreOf (slotState (word 0x14) true) 0).reqs = [] := by decide +kernel

theorem wit_lost_read : (coreOf (slotState (word 0x14) false) 0).slots[0]?.map (fun x => x.req.write) = some false ∧
    (readGranule (withRas (slotState (word 0x14) false) fun r => { r with lost := [0x1000000] }) 0x1000000 [] [] 0).2 = none := by decide +kernel

theorem wit_unanswered : elapsed (slotState (word 0x14) true 79999) 0 50000 = false ∧
    elapsed (slotState (word 0x14) true 80000) 0 50000 = true := by decide +kernel

theorem wit_watchdog :
    streamWord (run [word 0x28 (2 ^ 245)]) 0 0 = some (word 0x28 (2 ^ 245)) ∧ 0 ∈ opWaits (word 0x28 (2 ^ 245)) ∧
    tokenSet (coreOf (run [word 0x28 (2 ^ 245)]) 0) 0 = false ∧ (run []).job.held = false ∧ executing (run []) = true ∧
    elapsed { run [] with clk := reg (run []) Obj.tokenTimeout * 8 / 5 } 0 (reg (run []) Obj.tokenTimeout) = true ∧
    ({ (run [word 0x28]) with job := { (run []).job with held := true } } : State).job.held = true := by decide +kernel

/-- A consumer at index 1 that has its tokens and a prefetched buffer that is stale. -/
def staleState (strict : Nat) : State :=
  let s := opState (wordD 0x15 [0, 1]) [region 0 4, region 1 4]
  withRegs { s with
    mem := streamCells [wordD 0x15 [0, 1], word 1] ++ s.mem.drop (streamCells [wordD 0x15 [0, 1]]).length
    job := { s.job with streams := [(0x1000, 2)] }
    cores := s.cores.set 0 { base := 1, guards := [{ op := 0, consumer := 1, base := area 0, len := 4, buffer := area 1, stale := some (area 0) }] } }
    [(Obj.prefetchStrict, strict)]

theorem wit_stale : streamWord (staleState 0) 0 1 = some (word 1) ∧
    ((coreOf (staleState 0) 0).guards.find? (fun x => x.consumer == 1 && x.stale.isSome)).map (fun g => (g.op, g.stale)) = some (0, some (area 0)) ∧
    executing (staleState 0) = true ∧ issuedAt (coreOf (staleState 0) 0) 1 = false ∧ opWaits (word 1) = [] ∧
    reg (staleState 0) Obj.prefetchStrict ≠ 1 ∧ reg (staleState 1) Obj.prefetchStrict = 1 ∧
    okAnd (operand (staleState 0) 0 0) (fun d => d == some (region 0 4)) = true ∧
    spanMirrored (staleState 0) (area 1) 4 = false ∧ overlaps (area 1) 4 (area 0) 4 = false := by decide +kernel

/-- A transposing copy in flight whose rows are not all published. -/
def copyState : State :=
  let s := opState (wordD 0x14 [0, 1] 0 1) [vec 0 7 2, vec 1 7 2]
  { s with cores := s.cores.set 0 { base := 1, flight := [{ idx := 0, word := wordD 0x14 [0, 1] 0 1, queue := .gutter }] } }

theorem wit_publish : ((coreOf copyState 0).flight.find? fun x => x.idx == 0 && opcodeOf x.word == some .copy && !x.done).isSome = true ∧
    okAnd (operand copyState 0 0) (fun d => d.map (fun x => x.dim0 * x.dim2 * x.dim3) == some 2) = true ∧
    ((coreOf copyState 0).published.find? fun p => p.1 == area 1) = none := by decide +kernel

/-! ### Witnesses: arrays, pipelines and Spar -/

/-- A state with core 0 changed. -/
def withCore (s : State) (f : CoreState → CoreState) : State := { s with cores := s.cores.set 0 (f s.cores[0]) }

/-- Reed and Slate in the middle of a tile of that product. -/
def reedState (f : TileRun → TileRun := id) : State :=
  withCore (prodState 1 0 [[0, 1, noDesc, 2, 3]]) fun c => { c with reed := some (f { idx := 0, word := fwdW }), slate := some (f { idx := 0, word := fwdW }) }

/-- An attention operation whose first key block awaits its verdicts. -/
def pipeState (swaps : Nat) : State :=
  { attnState 1 with kv := { (attnState 1).kv with runs := [{ pipe := 0, core := 0, idx := 0, word := word 0x0C (16 * 2 ^ 175), fed := [0], swaps := swaps }] } }

theorem wit_verdict : (coreOf (reedState) 0).moving = false ∧ (coreOf reedState 0).reed = some { idx := 0, word := fwdW } ∧
    (coreOf reedState 0).slate = some { idx := 0, word := fwdW } ∧
    (pipeState 0).kv.runs.find? (fun y => y.pipe == (0 : Pipe).val) =
      some { pipe := 0, core := 0, idx := 0, word := word 0x0C (16 * 2 ^ 175), fed := [0], swaps := 0 } := by decide +kernel

theorem wit_failing :
    okAnd (loadSplits (reportFault (bump (bump reedState Obj.reedResidueErr 1) Obj.reedTileRepeat 1) 0x04 0 0 0 0 0) 0
      (prodBlock (reportFault (bump (bump reedState Obj.reedResidueErr 1) Obj.reedTileRepeat 1) 0x04 0 0 0 0 0) 0 fwdW))
      (fun ds => ds.length == 1) = true ∧
    (coreOf (reedState fun r => { r with fails := 1 }) 0).reed = some { idx := 0, word := fwdW, fails := 1 } ∧
    (coreOf (reedState fun r => { r with fails := 1 }) 0).slate = some { idx := 0, word := fwdW, fails := 1 } ∧
    (pipeState 1).kv.runs.find? (fun y => y.pipe == (0 : Pipe).val) =
      some { pipe := 0, core := (0 : Core).val, idx := 0, word := word 0x0C (16 * 2 ^ 175), fed := [0], swaps := 1 } := by decide +kernel

theorem wit_tiles_finish :
    (coreOf (reedState fun r => { r with verdict := true }) 0).reed = some { idx := 0, word := fwdW, verdict := true } ∧
    (coreOf (reedState fun r => { r with verdict := true }) 0).slate = some { idx := 0, word := fwdW, verdict := true } ∧
    (coreOf (reedState fun r => { r with miss := some (0, 0) }) 0).reed = some { idx := 0, word := fwdW, miss := some (0, 0) } ∧
    okAnd (loadSplits (bump (bump (reedState fun r => { r with miss := some (0, 0) }) Obj.reedSkipMiss 1) Obj.reedTileRepeat 1) 0
      (prodBlock (bump (bump (reedState fun r => { r with miss := some (0, 0) }) Obj.reedSkipMiss 1) Obj.reedTileRepeat 1) 0 fwdW))
      (fun ds => ds.length == 1) = true ∧
    (coreOf (run [] fun c => { c with repeats := [{ idx := 0, word := fwdW }] }) 0).repeats = { idx := 0, word := fwdW } :: [] ∧
    (coreOf (run [] fun c => { c with repeats := [{ idx := 0, word := fwdW }] }) 0).slate = none ∧
    okAnd (loadAttn (pipeState 1) 0 (word 0x0C (16 * 2 ^ 175))) (fun _ => true) = true := by decide +kernel

/-- The tables of descriptors are empty: no operand can be read. -/
def noTable (s : State) : State := { s with job := { s.job with tables := [] } }

theorem wit_lost_operand :
    okAnd (loadSplits (reportFault (bump (bump (noTable reedState) Obj.reedResidueErr 1) Obj.reedTileRepeat 1) 0x04 0 0 0 0 0) 0
      (prodBlock (reportFault (bump (bump (noTable reedState) Obj.reedResidueErr 1) Obj.reedTileRepeat 1) 0x04 0 0 0 0 0) 0 fwdW)) (fun _ => true) = false ∧
    (coreOf (noTable reedState) 0).reed = some { idx := 0, word := fwdW } := by decide +kernel

theorem wit_swaps : shadowReady (reedState fun r => { r with verdict := true }) 0 { idx := 0, word := fwdW, verdict := true } = true ∧
    (coreOf (reedState fun r => { r with verdict := true }) 0).moving = false ∧
    ownSlateReady (prodState 2 8 [[0, 1, noDesc, 2, 3]]) 0 = true ∧ (coreOf (prodState 2 8 [[0, 1, noDesc, 2, 3]]) 0).repeats = [] ∧
    (pipeState 0).kv.runs.find? (fun y => y.pipe == (0 : Pipe).val) =
      some { pipe := 0, core := 0, idx := 0, word := word 0x0C (16 * 2 ^ 175), fed := [0], swaps := 0 } ∧
    (coreOf (reedState fun r => { r with waiting := true }) 0).slate = some { idx := 0, word := fwdW, waiting := true } := by decide +kernel

theorem wit_moved : (coreOf (withCore (reedState fun r => { r with fails := 1 }) fun c => { c with moving := true, slate := none }) 0).moving = true ∧
    (coreOf (withCore (reedState fun r => { r with fails := 1 }) fun c => { c with moving := true, slate := none }) 0).reed =
      some { idx := 0, word := fwdW, fails := 1 } := by decide +kernel

theorem wit_rest : (run []).pending = [] ∧ ({ run [] with clk := 1 } : State).clk % 2 = 1 ∧ (coreOf (run []) 0).reedAct.on = false ∧
    (coreOf (run []) 0).slateAct.on = false ∧ (coreOf (run []) 0).flight = [] ∧ someUnheld { run [] with clk := 2 } 0 = false ∧
    (actOf (withCore (run []) fun c => { c with reedAct := { on := true, last := 5, up := true } }) (.reed 0)).up = true ∧
    (actOf (withCore (run []) fun c => { c with reedAct := { on := true, down := true } }) (.reed 0)).down = true ∧
    strawDue (pipeState 0) (.quince 0) = true := by decide +kernel

/-- A shadow-check sample whose narrow and shadow results are there, or whose rows alone are. -/
def sampleState (both : Bool) : State :=
  let r := fun (x : List W32) => if both then some x else none
  { run [] with num := { (run []).num with
      samples := [{ step := 3, layer := 0, mb := 0, core := 0, chain := 0, band := 0, rows := some [[0]]
                    narrow := r [w32One], shadow := r [w32One], shadowDone := both }] } }

theorem wit_shadow : (coreOf (sampleState false) 0).slate = none ∧ (coreOf (sampleState false) 0).repeats = [] ∧
    ownSlateReady (sampleState false) 0 = false ∧ nextSample (sampleState false) 0 = some 0 ∧
    (sampleState true).num.samples[0]?.map (fun x => (x.narrow, x.shadow, x.compared, x.shadowDone)) = some (some [w32One], some [w32One], false, true) ∧
    (coreOf (sampleState true) 0).slate = none := by decide +kernel

theorem wit_activity :
    (actOf (withCore (run []) fun c => { c with reedAct := { on := true, last := fullActivity } }) (.reed 0)).on = true ∧
    elapsed { withCore (run []) (fun c => { c with slateAct := { on := true } }) with clk := 4000 * 8 } 0 4000 = true ∧
    fullActivity - slewOf (run []) (.reed 0) ≤ actUnit * (run []).power.cap := by decide +kernel

theorem wit_wake : executing (run [mark 0 1]) = true ∧ streamWord (run [mark 0 1]) 0 0 = some (mark 0 1) ∧ isMark (mark 0 1) = true ∧
    opImm (mark 0 1) 3 0 = 0 ∧ issuedAt (coreOf (run [mark 0 1]) 0) 0 = false ∧
    currentStart (withRegs (run [mark 0 1]) [(Obj.stepPeriod, 0)]) (markPhase (mark 0 1)) = 5000 ∧
    ptpNow { withRegs (run [mark 0 1]) [(Obj.stepPeriod, 0)] with clk := 2880 } = 1800 := by decide +kernel

/-- Two cores on one host, core 0 switched out. -/
def sharedState : State :=
  let s := withRegs (run [word 0] fun c => { c with switchedOut := true }) [(Obj.logicalCoreMap + 1, 0)]
  { s with job := { s.job with swapAreas := [0x1000000, 0x2000000] } }

theorem wit_switch : hostPartner sharedState 0 = some 1 ∧ (coreOf sharedState 0).switchedOut = true ∧ (coreOf sharedState 1).flight = [] ∧
    (coreOf sharedState 1).guards = [] ∧ someReady sharedState 0 = true ∧ anyIssue sharedState 1 = false ∧
    (coreOf (run [] fun c => { c with moving := true }) 0).moving = true ∧
    (coreOf (run [] fun c => { c with moving := true }) 0).halted = false := by decide +kernel

/-- A conversion tile that Spar has not accepted. -/
def tileState (ovf : Nat) : State :=
  { convState true with
    num := { (convState true).num with tiles := [{ core := 0, op := 0, word := wordD 8 [0, 1], cluster := 0, row0 := 0, rowN := 1, lane0 := 0, laneN := 2, rung := 0
                                                   started := true, measured := false, layer := some (0, 0), ovf := ovf }] } }

theorem wit_spar : ((tileState 0).num.tiles.filter fun t => t.core == (0 : Core).val && t.op == 0)[0]?.map (fun t => (t.layer, (sparTest (tileState 0) t).next))
      = some (some (0, 0), 0) ∧
    ((tileState 1000000).num.tiles[0]?.map fun t => (sparTest (tileState 1000000) t).next) = some 1 ∧
    okAnd (convSpec (tileState 0) 0 0 (wordD 8 [0, 1])) (fun c => c.cluster == 0) = true := by decide +kernel

theorem wit_checks : engineId 0 .damson ∉ State.reset.ras.engineFails ∧ bitOf (reg State.reset Obj.sloeLaneMap) 1023 = false ∧
    (0 : Die).val * 1024 + (1023 : Fin 1024).val ∉ State.reset.ras.laneFails ∧
    engineId 0 (.gutter 3) ∈ ({ State.reset with ras := { State.reset.ras with engineFails := [11], laneFails := [1023] } } : State).ras.engineFails ∧
    (∀ g, EngineKind.damson ≠ .gutter g) := by
  decide +kernel

/-! ### Witnesses: the boundary, pauses and securing -/

/-- A module at its boundary: everything is done, and the next step's data are here or not. -/
def edge (fetched : Bool) : State := { run [] with net := { State.reset.net with fetchDone := fetched } }

/-- A log of written entries and others. -/
def withLog (s : State) (l : List Bool) : State :=
  { s with recov := { s.recov with log := l.map fun a => { kind := 5, step := 3, payload := [], acked := a } } }

/-- A pause of the table. -/
def pauseOf (selector : Nat) (st : PauseState) (deadline : Nat) (id : Nat := 1) : Pause :=
  { slot := id - 1, id := id, selector := selector, state := st, step := 3, deadline := deadline, report := [] }

/-- The pause table set. -/
def withPauses (s : State) (l : List Pause) : State := { s with dunrel := { s.dunrel with pauses := l } }

theorem wit_boundary : executing (edge false) = true ∧ (edge false).job.stage = 0 ∧ workDone (edge false) = true ∧
    (edge false).net.fetchDone = false ∧ hostMode (edge false) 0xA01A = false ∧ (edge true).net.fetchDone = true ∧
    workDone (edge true) = true ∧ logWritten (edge true) = true ∧ logWritten (withLog (edge true) [true, false]) = false ∧
    boundaryHeld (openBoundary (withRegs (edge true) [(modeKey 0xA011, 1)]) []) = true := by decide +kernel

theorem wit_fetch_hold : shardsReady (edge false) = false ∧ shardsReady (edge true) = true ∧
    hostMode (withRegs (edge false) [(modeKey 0xA01A, 1)]) 0xA01A = true ∧ replayed (edge false) = false ∧ (edge false).dunrel.pauses = [] ∧
    (pauseSlot (edge false)).isSome = true ∧ (fetchReport (edge false)).length ≤ reportMax ∧
    shardsReady { edge true with recov := { (edge true).recov with log := [{ kind := 1, step := 3, payload := [], acked := false }] } } = false := by
  decide +kernel

/-- The boundary of step 3 whose record is written, with an entry that waits for the buddy and one that waits for room. -/
def committing (acked wait : Bool) (sec : Option Securing := none) : State :=
  let s := withLog (edge true) [false]
  { s with job := { s.job with stage := 2 }
           recov := { s.recov with
             log := s.recov.log ++ [{ kind := 5, step := 3, payload := [], acked := acked }], securing := sec
             waiting := if wait then [{ kind := 1, step := 3, payload := [], acked := false }] else [] } }

theorem wit_commits : boundaryHeld (committing true false) = false ∧
    (∀ k ∈ [0xA010, 0xA017, 0xA013], decisionNow (committing true false) k = none) := by decide +kernel

theorem wit_slots : (∀ x ∈ [({ state := .current } : VSlot), { state := .free }, { state := .free }], x.state ≠ .filling) ∧
    [({ state := .current } : VSlot), { state := .free }, { state := .free }].findIdx? (fun x => x.state == .free) = some 1 ∧
    (∀ x ∈ [({ state := .current } : VSlot)], x.state ≠ .filling ∧ x.state ≠ .free) := by decide +kernel

theorem wit_log_ack : (withLog (edge true) [true, false]).recov.log =
      [{ kind := 5, step := 3, payload := [], acked := true }] ++ { kind := 5, step := 3, payload := [], acked := false } :: [] ∧
    (∀ x ∈ [({ kind := 5, step := 3, payload := [], acked := true } : LogEntry)], x.acked = true) ∧
    boundaryHeld (withPauses (edge true) [pauseOf 0xA010 .waiting 9]) = true ∧ (edge true).job.stage = 0 ∧
    ({ withLog (edge true) [true, false] with job := { (edge true).job with stage := 2 } } : State).job.stage = 2 ∧
    boundaryHeld (withLog (edge true) [true, false]) = false := by decide +kernel

theorem wit_flip : [({ state := .current, refs := 1, base := 0 } : VSlot), { state := .filling }].findIdx? (fun x => x.state == .filling) = some 1 := by
  decide +kernel

theorem wit_pauses : (withPauses (run []) [pauseOf 0xA01B .waiting 5000]).dunrel.pauses.find? (fun q => q.id == 1) = some (pauseOf 0xA01B .waiting 5000) ∧
    ptpNow (run []) < 5000 ∧ ptpNow { run [] with clk := 8000 } = 5000 ∧ atBoundary 0xA010 = true ∧
    boundaryHeld (withPauses (run []) [pauseOf 0xA010 .timedOut 5000, pauseOf 0xA011 .waiting 9000 2]) = true := by decide +kernel

/-- A module with an open session 0 of an access level. -/
def withSession (s : State) (level : Nat) : State :=
  { s with dunrel := { s.dunrel with sessions := s.dunrel.sessions.set 0 (some { level := level }) } }

/-- A decision of the pause 1 with a payload. -/
def decision (b : List Byte) : DReq := { sess := 0, type := 9, reqId := 7, index := 0xA014, element := 1, total := b.length, payload := b }

theorem wit_decisions :
    (withSession (withPauses (run []) [pauseOf 0xA014 .waiting 5000]) 3).dunrel.sessions[(decision []).sess] = some { level := 3 } ∧
    (∀ k ∈ ({ level := 3 } : Session).kept, k.1 ≠ 7) ∧ (decision [0xFF#8, 0xFF#8]).payload.length ≤ segMax (run []) ∧
    checkDecision (lateAccept (modSess (withSession (run []) 3) 0 fun y => { y with last := 0 }) 2) 0xA014 [0xFF#8, 0xFF#8] = eOK ∧
    checkDecision (modSess (withSession (run []) 3) 0 fun y => { y with last := 0 }) 0xA014 [0xFF#8, 0xFF#8] = eOK ∧
    checkDecision (modSess (withSession (run []) 3) 0 fun y => { y with last := 0 }) 0xA014 [5#8, 0#8] ≠ eOK ∧
    ptpNow { run [] with clk := 8000 } = 5000 ∧ 5000 < ptpNow { run [] with clk := 8002 } := by decide +kernel

theorem wit_securing : saveWaits (run []) = false ∧ saveWaits (run [word 0x2E]) = true ∧ 1 < reg (withRegs (run []) [(Obj.jobModules, 2)]) Obj.jobModules ∧
    reg (run []) Obj.jobModules ≤ 1 ∧ (run []).recov.waiting = [] ∧ (run []).recov.reported ≠ some 3 ∧
    (({ gen := 3, since := 0, snap := [], parts := [] } : Securing).captured = false) := by decide +kernel

theorem wit_captures : (securingState (word 0)).recov.securing = some { gen := 2, since := 0, snap := [], parts := [] } ∧
    (securingState (word 0)).job.stage = 0 ∧ saveWaits (securingState (word 0)) = false ∧ saveWaits (securingState (word 0x2E)) = true ∧
    (securingState (word 0) fun x => { x with captured := true }).recov.securing.map Securing.captured = some true ∧
    (securingState (word 0)).recov.waiting = [] ∧ reg (securingState (word 0)) Obj.jobModules ≤ 1 ∧
    1 < reg (withRegs (securingState (word 0)) [(Obj.jobModules, 2)]) Obj.jobModules ∧ (securingState (word 0)).recov.reported ≠ some 2 := by
  decide +kernel

/-! ### Witnesses: recovery -/

/-- A state whose inbox holds one message. -/
def inbox (s : State) (kind : Nat) (b : List Byte) : State :=
  { s with net := { s.net with inbox := [{ ctx := 0, src := .rank 0, kind := kind, bytes := b }] } }

/-- It is taken, and nothing else of the state moves. -/
theorem takes_only (s : State) (kind : Nat) (b : List Byte) (p : InMsg → Bool) (h : p { ctx := 0, src := .rank 0, kind := kind, bytes := b } = true) :
    Takes (inbox s kind b) p { ctx := 0, src := .rank 0, kind := kind, bytes := b } { s with net := { s.net with inbox := [] } } :=
  ⟨[], [], rfl, (fun _ hx => absurd hx List.not_mem_nil), h, rfl⟩

/-- A recovery control message, and a state whose inbox holds it. -/
def control (s : State) (m : RecMsg) : State := inbox s 6 m.bytes

theorem takes_control (s : State) (m : RecMsg) (op : Nat) (h : (byteAt m.bytes 0 == op) = true) :
    TakesRec (control s m) op (parseRec m.bytes) { s with net := { s.net with inbox := [] } } :=
  ⟨_, takes_only s 6 m.bytes _ (by simpa using h), rfl⟩

/-- Every control message is taken: the ones that the statements name. -/
theorem wit_taken : ∀ op ∈ [0, 1, 2, 3, 4, 5, 6, 7, 8, 9, 10], ∃ s m u, TakesRec s op m u :=
  fun op h => ⟨_, _, _, takes_control State.reset { op := op } op
    (by revert op; decide)⟩

/-- A module in RECOVERING that restores, or waits for its buddy, or does neither. -/
def recState (restoring buddy : Option Nat) : State :=
  { run [] with dev := .recovering, recov := { State.reset.recov with restoring := restoring, fromBuddy := buddy } }

theorem wit_rollback : (parseRec ({ op := 1, step := 2 } : RecMsg).bytes).step = 2 ∧ (run []).dev = .running ∧ (recState none none).dev = .recovering ∧
    State.reset.dev ≠ .running ∧ State.reset.dev ≠ .recovering ∧ reg (withRegs (run []) [(Obj.localImageStep, 2)]) Obj.localImageStep = 2 := by
  decide +kernel

/-- An image without content of generation 2 of rank 1; the digest is that of the empty string (FIPS 180-4). -/
def emptyImage : List Byte :=
  leBytes 8 2 ++ leBytes 2 1 ++ List.replicate 38 0#8
    ++ beBytes 32 0xE3B0C44298FC1C149AFBF4C8996FB92427AE41E4649B934CA495991B7852B855 ++ List.replicate 16 0#8

theorem wit_restores : (localImage (withBytes (recState (some 2) none) 0 emptyImage)).2 = true ∧
    (localImage (withBytes (recState (some 2) none) 0 emptyImage)).1.step = 2 ∧
    (localImage (recState (some 2) none)).1.step ≠ 2 ∧ (recState (some 2) none).recov.restoring = some 2 := by decide +kernel

theorem wit_images : (decodeImage emptyImage []).2 = true ∧ (decodeImage emptyImage []).1.rank ≠ ownRank (run []) ∧
    (decodeImage (List.replicate 96 0#8) []).2 = false ∧ (run []).recov.fromBuddy = none ∧
    (withLog (run []) [true]).recov.log ≠ [] ∧
    [({ step := 2, rank := 1, content := [] } : Gen)].find? (fun g => g.step == 2 && g.rank == 1) = some { step := 2, rank := 1, content := [] } ∧
    (parseRec ({ op := 10, step := 2, rank := 1 } : RecMsg).bytes).rank = 1 ∧ (parseRec ({ op := 10, code := 3 } : RecMsg).bytes).code ≠ 0 := by
  decide +kernel

theorem wit_start : (recState none none).recov.restoring = none ∧ (recState none none).recov.fromBuddy = none ∧
    ((recState none (some 2)).recov.restoring.isSome || (recState none (some 2)).recov.fromBuddy.isSome) = true := by decide +kernel

/-- The coordinator, alone or of two ranks, that has a target. -/
def chief (ranks : Nat) : State :=
  let s := withRegs (recState none none) [(Obj.jobModules, ranks), (Obj.rankMap, 2 ^ 192)]
  { s with recov := { s.recov with target := some 2 } }

theorem wit_coordinator : inCharge (chief 2) = true ∧ (gather (chief 2) { op := 3, step := 2 }).2.1 < reg (chief 2) Obj.jobModules ∧
    ¬ (gather (chief 1) { op := 3, step := 2 }).2.1 < reg (chief 1) Obj.jobModules ∧ (gather (chief 1) { op := 5, step := 3, code := 9 }).2.2 ≠ 0 ∧
    (chief 2).recov.target.map (· + 1) = some 3 ∧ (chief 2).recov.ups = [] ∧
    inCharge (withRegs (chief 2) [(Obj.coordRank, 1)]) = false ∧ relaySpan (withRegs (chief 2) [(Obj.coordRank, 1)]) = 1 := by decide +kernel

theorem wit_faults : (run []).mode ≠ .idle ∧ takesSpare 0x0F = true ∧ inCharge (run []) = true ∧ (run []).recov.target = none ∧
    (run []).recov.lastSched ≠ some (schedKey { op := 0, fault := 0x10 }) ∧
    ({ (run []) with recov := { (run []).recov with lastSched := some (schedKey { op := 0, fault := 0x10 }) } } : State).recov.lastSched =
      some (schedKey { op := 0, fault := 0x10 }) ∧ (∀ p ∈ (run []).dunrel.pauses, p.state ≠ .waiting ∨ p.selector ≠ 0xA015) ∧
    ownRank (withRegs (run []) [(Obj.coordRank, 1)]) = reg (withRegs (run []) [(Obj.coordRank, 1)]) Obj.standbyRank ∧
    coordOf (withRegs (run []) [(Obj.coordRank, 1)]) ≠ ownRank (withRegs (run []) [(Obj.coordRank, 1)]) ∧
    (parseRec ({ op := 0, fault := 0x0F, rank := 1 } : RecMsg).bytes).rank = reg (withRegs (run []) [(Obj.coordRank, 1)]) Obj.coordRank ∧
    (parseRec ({ op := 0, fault := 0x11 } : RecMsg).bytes).fault = 0x11 := by decide +kernel

/-- The coordinator that asked spare 0 at clock 0 to take rank 1. -/
def joining (clk : Nat) : State :=
  { chief 2 with clk := clk, recov := { (chief 2).recov with joins := [{ rank := 1, spare := 0, since := 0 }] } }

theorem wit_reports : ownRank (chief 2) = coordOf (chief 2) ∧ (parseRec ({ op := 8 } : RecMsg).bytes).count ≤ 1 ∧
    ownRank (withRegs (chief 2) [(Obj.coordRank, 1), (Obj.standbyRank, 1)]) ≠ coordOf (withRegs (chief 2) [(Obj.coordRank, 1), (Obj.standbyRank, 1)]) ∧
    relaySpan (withRegs (chief 2) [(Obj.coordRank, 1), (Obj.standbyRank, 1)]) = 1 ∧
    (joining 0).recov.joins.find? (fun j => j.rank == 1 && !j.done) = some { rank := 1, spare := 0, since := 0 } ∧
    elapsed (joining 0) 0 5000000 = false ∧ elapsed (joining 8000000) 0 5000000 = true ∧ inCharge (joining 8000000) = true := by decide +kernel

theorem wit_redraw : (parseRec ({ op := 2, rank := 1 } : RecMsg).bytes).rank ≠ ownRank (recState none none) ∧
    (parseRec ({ op := 2, rank := 32767 } : RecMsg).bytes).rank = 32767 ∧ hostMode (recState none none) 0xA016 = false := by decide +kernel

/-! ### Witnesses: the port and Tabbakan -/

/-- A module of a job of four whose link is up and which knows rank 1 and endpoint 0 (a storage and a serving endpoint). -/
def linked (ctxs : List Ctx := []) : State :=
  let s := withRegs (run []) [(Obj.linkState, 2), (Obj.jobModules, 4), (Obj.rankMap + 2, 2 ^ 192), (Obj.endpoint, 2 ^ 152 + 2 ^ 144)]
  { s with net := { s.net with ctxs := ctxs } }

/-- The frame checks and their results each have a frame. -/
theorem wit_frames : reg (run []) Obj.linkState ≠ 2 ∧ reg linked Obj.linkState = 2 ∧ reg linked Obj.maxFrame < 20000 ∧ 64 ≤ reg linked Obj.maxFrame ∧
    servedPort linked 319 = true ∧ servedPort linked 7 = false ∧ linked.net.unreachAt = none ∧ elapsed linked 0 1000000000 = false := by
  decide +kernel

/-- The header of a packet of rank 1, its number and context. -/
def hdr (psn ctx : Nat := 0) : TbkHdr := { src := .rank 1, psn := psn, dstCtx := ctx }

/-- A packet of each failing kind. -/
theorem wit_packets : packetOf (.dataRx (hdr) { msg := 0, offset := 0, mlen := 1, kind := 1, payload := [0#8] }) =
      some (.data, hdr, true) ∧
    (hdr.ver = 1 ∧ hdr.lenOk = true ∧ TbkType.data.from hdr.src = true) ∧ hdr.icrcOk = true ∧ hdr.job = reg linked Obj.jobTag % 2 ^ 16 ∧
    sourceKnown linked hdr = true ∧ sourceKnown linked { src := .rank 2 } = false ∧ TbkType.data.epochChecked = true ∧ hdr.src.isRank = true ∧
    hdr.epoch ≠ reg (withRegs linked [(Obj.jobEpoch, 9)]) Obj.jobEpoch ∧ hdr.epoch = reg linked Obj.jobEpoch ∧
    1 ≠ reg linked Obj.jobTag % 2 ^ 16 ∧ ctxOf linked 0 = none ∧ packetOf (.heartbeat { src := .endpoint 0 } {}) = some (.heartbeat, { src := .endpoint 0 }, true) ∧
    TbkType.heartbeat.from (.endpoint 0) = false := by decide +kernel

/-- The checks of R368 up to the context, computed. -/
def passes (s : State) (t : TbkType) (h : TbkHdr) (ok : Bool) : Bool :=
  decide (reg s Obj.linkState = 2 ∧ (h.ver = 1 ∧ h.lenOk = true ∧ ok = true ∧ t.from h.src = true) ∧ h.icrcOk = true ∧ h.job = reg s Obj.jobTag % 2 ^ 16 ∧
    sourceKnown s h = true ∧ (t.epochChecked = true → h.src.isRank = true → h.epoch = reg s Obj.jobEpoch)) &&
  (!t.ctxChecked || match ctxOf s h.dstCtx with | some c => c.peer == h.src | none => false)

theorem passes_spec {s : State} {t : TbkType} {h : TbkHdr} {ok : Bool} (hp : passes s t h ok = true) : Passes s t h ok := by
  simp only [passes, Bool.and_eq_true, decide_eq_true_eq, Bool.or_eq_true, Bool.not_eq_true'] at hp
  obtain ⟨⟨a, b, c, d, e, f⟩, g⟩ := hp
  refine ⟨a, b, c, d, e, f, fun hc => ?_⟩
  rcases g with g | g
  · rw [hc] at g; cases g
  · cases hx : ctxOf s h.dstCtx with
    | none => rw [hx] at g; cases g
    | some x => rw [hx] at g; exact ⟨x, rfl, by simpa using g⟩

/-- Context 0 with rank 1: the next number, the limit, and what it has sent. -/
def ctx (next limit : Nat) (f : Ctx → Ctx := id) : Ctx := f { num := 0, peer := .rank 1, credit := 1, nextPsn := next, limit := limit }

/-- A packet of the buddy stream of 10 bytes. -/
def ten : DataExt := { msg := 0, offset := 0, mlen := 10, kind := 1, payload := List.replicate 10 0#8 }

theorem wit_data : Passes (linked [ctx 0 1]) .data (hdr) ten.ok ∧ Passes (linked [ctx 1 9]) .data (hdr 7) ten.ok ∧
    ctxOf (linked [ctx 0 1]) 0 = some (ctx 0 1) ∧ (linked [ctx 0 1]).net.colls = [] ∧ (ctx 0 1).recvUnits + unitsOf ten.payload.length ≤ 1 ∧
    (ctx 0 1).arriving = none ∧ atMost 0 1 = true ∧ atMost 7 1 = false ∧ (ctx 1 9).nakAt = none ∧
    0 < (ctx 0 0).recvUnits + unitsOf ten.payload.length :=
  ⟨passes_spec (by decide +kernel), passes_spec (by decide +kernel), by decide +kernel⟩

theorem wit_acks : Passes (linked [ctx 0 1]) .ack (hdr) true ∧ Passes (linked [ctx 0 1]) .nak (hdr) true ∧
    (ctx 0 1 fun c => { c with outstanding := [{ psn := 0, ext := ten }] }).outstanding = { psn := 0, ext := ten } :: [] ∧
    ((1 : Nat) + 2 ^ 32 - 0) % 2 ^ 32 ≤ 1 ∧ (ctx 0 1).queue = [] :=
  ⟨passes_spec (by decide +kernel), passes_spec (by decide +kernel), by decide +kernel⟩

/-- The header of a packet of endpoint 0. -/
def ehdr : TbkHdr := { src := .endpoint 0 }

/-- The state of a module with a receive pool. -/
def pooled (n : Nat) : State := { linked with net := { linked.net with pool := n } }

theorem wit_contexts : Passes (pooled 0) .open ehdr true ∧ Passes (linked [ctx 0 1 fun c => { c with opening := true }]) .openAck (hdr) true ∧
    Passes (linked [ctx 0 1]) .close (hdr) true ∧
    (bitOf (byteAt (regBytes (pooled 0) (Obj.endpoint + ehdr.src.num)) 0x12) 0 = true ∧
      bitOf (byteAt (regBytes (pooled 0) (Obj.endpoint + ehdr.src.num)) 0x12) 1 = false) ∧
    (pooled 0).net.pool < reg (pooled 0) Obj.endpointGrant ∧ reg (pooled 100000) Obj.endpointGrant ≤ (pooled 100000).net.pool ∧
    freeCtx (pooled 100000) = some 0 ∧
    elapsed { linked with clk := 800 } 0 500 = true ∧ elapsed linked 0 (reg linked Obj.tbkRto) = false ∧
    elapsed { linked with clk := 10 ^ 9 } 0 (reg linked Obj.tbkRto) = true :=
  ⟨passes_spec (by decide +kernel), passes_spec (by decide +kernel), passes_spec (by decide +kernel), by decide +kernel⟩

/-- Rank 1 watched since clock 0, at a clock. -/
def watcher (clk : Nat) : State := { linked with clk := clk, net := { linked.net with watches := [{ rank := 1, last := (0, 0) }] } }

theorem wit_heartbeats : Passes linked .heartbeat (hdr) true ∧ Passes linked .stretch (hdr) true ∧ watchIndex linked 1 = some 2 ∧ 1 ≠ ownRank linked ∧
    linked.mode ≠ .idle ∧ elapsed { linked with clk := 320000 } 0 200000 = true ∧ watchers linked ≠ [] ∧ elapsed linked 0 200000 = false ∧
    (watcher 0).net.watches.find? (fun w => w.rank == 1) = some { rank := 1, last := (0, 0) } ∧
    elapsed (watcher 960000) 0 600000 = true ∧ elapsed (watcher 960000) 960000 600000 = false ∧ pathDown (watcher 960000) 1 0 = false ∧
    ({ linked with job := { linked.job with held := true } } : State).job.held = true ∧
    nextStepStart (withRegs linked [(Obj.stepPeriod, 0), (Obj.stretchLead, 10)]) ≤ ptpNow (withRegs linked [(Obj.stepPeriod, 0), (Obj.stretchLead, 10)]) + 10 :=
  ⟨passes_spec (by decide +kernel), passes_spec (by decide +kernel), by decide +kernel⟩

theorem wit_paths : watching linked = true ∧ watching { linked with dev := .ready } = false ∧
    elapsed (watcher 960000) 960000 600000 = false ∧
    pathDown (markPathDown linked 1 0) 1 0 = true ∧ elapsed { watcher 960000 with net := { (watcher 960000).net with watches := [{ rank := 1, last := (0, 960000) }] } } 0 600000 = true ∧
    ({ rank := 1, last := (0, 960000) } : Watch).on 1 = 960000 ∧ ({ rank := 1, last := (0, 960000) } : Watch).on 0 = 0 := by decide +kernel

/-- The same with the port changed. -/
def withPort (s : State) (f : EgressState → EgressState) : State := { s with egress := f s.egress }

/-- A frame of a queue. -/
def frame (q : Nat) (retx : Bool := false) : EgressFrame := { queue := q, retx := retx, bytes := 64, msg := .neighbour 0 0 }

theorem wit_port : linked.pending = [] ∧ reg linked Obj.linkState = 2 ∧ linked.egress.lineFree ≤ linked.clk + 1 ∧ linked.egress.waiting = [] ∧
    (withPort linked fun x => { x with lineFree := 2 }).clk + 1 < (withPort linked fun x => { x with lineFree := 2 }).egress.lineFree ∧
    ([frame 3, frame 2, frame 2 true].find? fun x => x.queue == 2) = some (frame 2) ∧
    ([frame 3, frame 0].find? fun x => x.queue == 0) = some (frame 0) ∧
    (∀ x ∈ [frame 3, frame 2, frame 2 true], 2 ≤ x.queue) ∧
    ((∀ x ∈ [frame 1 true, frame 0], x.queue ≠ (frame 1 true).queue ∨ x.retx = true) ∧ (frame 1 true).retx = true ∧
      ∀ x, [frame 1].head? = some x → x.queue = (frame 1 true).queue ∧ x.retx = false) := by
  refine ⟨rfl, by decide +kernel, by decide +kernel, rfl, by decide +kernel, by decide +kernel, by decide +kernel, by decide +kernel,
    by decide +kernel, rfl, fun x hx => ?_⟩
  cases hx; exact ⟨rfl, rfl⟩

theorem wit_link : reg linked Obj.linkState = 2 ∧ reg (withRegs linked [(Obj.linkState, 1)]) Obj.linkState = 1 ∧
    elapsed { linked with clk := 48 * 10 ^ 9 } 0 30000000000 = true ∧ elapsed linked 0 30000000000 = false ∧
    reg (withRegs linked [(Obj.pathGateway, 5)]) Obj.pathGateway ≠ 0 ∧ reg (withRegs linked [(Obj.jobModules, 1)]) Obj.jobModules = 1 ∧
    reg (withRegs linked [(Obj.pathAddr + 1, 9)]) (Obj.pathAddr + (1 : Fin 2).val) = 9 ∧ reg linked Obj.pathAddr ≠ 9 ∧ linked.net.icmpSent < 1000 ∧
    elapsed linked 0 1000000000 = false := by decide +kernel

theorem wit_ptp : (∀ i < 4, reg linked (Obj.ptpMaster + i) = 0 ∨ reg linked (Obj.ptpMaster + i) ≠ 5) ∧
    reg (withRegs linked [(Obj.ptpMaster + 3, 5)]) (Obj.ptpMaster + 3) = 5 ∧ 255 ≠ reg linked Obj.ptpDomain ∧
    (linked).net.ptpBest = none ∧ ({ linked with net := { linked.net with ptpBest := some (5, 7) } } : State).net.ptpBest.map Prod.fst = some 5 ∧
    (999 : Int).natAbs < 1000 ∧ 2000 < (-2001 : Int).natAbs ∧ reg (withRegs linked [(Obj.ptpState, 3)]) Obj.ptpState = 3 ∧
    elapsed { linked with clk := 16 * 10 ^ 9 } 0 10000000000 = true ∧ elapsed linked 0 10000000000 = false := by decide +kernel

/-- A fetch of shard 0 under way, of one byte at 0x1000000, its entry at 0x2000000. -/
def fetching : State :=
  let s := withBytes linked 0x2000010 [1#8]
  { s with net := { s.net with fetchBase := 0x2000000, shards := 1, fetches := [{ entry := 0, endpoint := 0, sent := 1 }] } }

/-- A fetch response: the code and the data after a CRC. -/
def response (code : Nat) (crc : Nat) (data : List Byte) : List Byte :=
  beBytes 4 0 ++ beBytes 1 code ++ beBytes 11 0 ++ beBytes 4 crc ++ beBytes 4 0 ++ data

theorem wit_fetch : (fetchOf fetching (fieldBE (response 0 0 []) 0 4)).map (fun f => f.entry) = some 0 ∧ byteAt (response 3 0 []) 4 ≠ 0 ∧
    (response 0 0 [7#8]).length - 24 = readLE fetching (fetchEntry fetching fetching.net.fetchFor 0 + 0x10) 4 ∧
    (response 0 0 []).length - 24 ≠ readLE fetching (fetchEntry fetching fetching.net.fetchFor 0 + 0x10) 4 ∧
    fieldBE (response 0 0 [7#8]) 0x10 4 ≠ (crc32c ((response 0 0 [7#8]).drop 24)).toNat ∧
    fieldBE (response 0 (crc32c [7#8]).toNat [7#8]) 0x10 4 = (crc32c ((response 0 (crc32c [7#8]).toNat [7#8]).drop 24)).toNat ∧
    (fetching.net.fetches.find? fun f => f.entry == 0 && f.sent != 0 && !f.done).isSome = true ∧
    elapsed fetching 0 (reg fetching Obj.fetchTimeout) = false ∧ elapsed { fetching with clk := 10 ^ 12 } 0 (reg fetching Obj.fetchTimeout) = true ∧
    (fetchCtx (linked [{ num := 0, plan := false, peer := .endpoint 0, kind := 2, credit := 1 }]) 0).isSome = true := by decide +kernel

theorem wit_serving : (Takes (inbox { linked with mode := .serve } 4 [0#8]) (fun x => x.kind == 4 && (byteAt x.bytes 0 == 0 || decide (2 < byteAt x.bytes 0)))
      { ctx := 0, src := .rank 0, kind := 4, bytes := [0#8] } { linked with mode := .serve, net := { linked.net with inbox := [] } }) ∧
    linked.mode ≠ .serve ∧ linked.job.step + 1 < 9 ∧ ((4 : Nat) == 4 && byteAt [1#8] 0 == 1) = true ∧ ((4 : Nat) == 4 && byteAt [2#8] 0 == 2) = true :=
  ⟨takes_only { linked with mode := .serve } 4 [0#8] _ (by decide +kernel), by decide +kernel⟩

/-! ### Witnesses: Dunrel -/

/-- A request of session 0. -/
def req (type : Nat) (index : Nat := 0) (p : List Byte := []) : DReq := { sess := 0, type := type, reqId := 7, index := index, total := p.length, payload := p }

/-- An open session 0 with the request heard. -/
def live (s : State) (level : Nat) (f : Session → Session := id) : State :=
  { s with dunrel := { s.dunrel with sessions := s.dunrel.sessions.set 0 (some (f { level := level })) } }

theorem live_spec (s : State) (level : Nat) (m : DReq) (h : m.sess = 0) (h1 : m.ver = 1) (h2 : m.lenOk = true)
    (h3 : m.payload.length ≤ segMax (live s level)) : Live (live s level) m { level := level } := by
  refine ⟨?_, h1, h2, h3, fun k hk => absurd hk List.not_mem_nil⟩
  simp [live, h]

theorem wit_live : Live (live (run []) 4) (req 1 0x1030) { level := 4 } ∧ Live (live (run []) 3) (req 11) { level := 3 } :=
  ⟨live_spec _ _ _ rfl rfl rfl (by decide +kernel), live_spec _ _ _ rfl rfl rfl (by decide +kernel)⟩

/-- A handshake that offers version 1.3 and a certificate. -/
def hello : Handshake := { peer := 9, vendor := true, key := some [1#8] }

/-- The module with Dormer running. -/
def served : State := { linked with power := { linked.power with dormer := true } }

theorem wit_handshakes : dunrelUp State.reset = false ∧ dunrelUp served = true ∧ freeSession linked = some 0 ∧ hello.inProgress ≤ 4 ∧
    linked.power.noiseBad = false ∧ hello.version13 = true ∧ hello.suiteOk = true ∧ hello.certOk = true ∧
    handshakeLevel linked hello [1#8] ≠ 0 ∧ handshakeLevel (withRegs linked [(Obj.openObserver, 0)]) { hello with vendor := false } [1#8] = 0 := by
  decide +kernel

theorem wit_requests : requestOf (.read (req 1)) = some (req 1) ∧ requestOf (.otherTypeRequest (req 12)) = some (req 12) ∧
    (linked.dunrel.sessions[(req 1).sess] = none) ∧
    segMax (run []) < (List.replicate 9000 0#8).length ∧
    (∃ k ∈ ([(7, answer (req 1) 0)] : List (Nat × DMsg)), k.1 = (req 1).reqId) ∧ (req 1).type ≠ 8 ∧
    (findRow 0x1004 0).isSome = true := by decide +kernel

/-- The rows of UPTIME, which anyone may read, and of an object that no session may. -/
theorem wit_reads : NoHandleZero (live (run []) 1) ∧ (req 1 0x1004).index < 0xF000 ∧
    readCheck (live (run []) 1) { level := 1 } (req 1 0x1004) = eOK ∧ readCheck (live (run []) 1) { level := 1 } (req 1 0xEFFF) ≠ eOK ∧
    (run []).part = .production ∧ 0xF000 ≤ (req 1 0xF000).index :=
  ⟨fun _ h => absurd h List.not_mem_nil, by decide +kernel⟩

/-- The engineering sample with a session 0. -/
def sample (level : Nat) : State := { live (run []) level with part := .sample }

theorem wit_sample_part : (sample 4).part = .sample ∧ Live (sample 4) (req 1 0xF000) { level := 4 } ∧ NoHandleZero (sample 4) ∧ (sample 4).dunrel.txns = [] ∧
    Live (sample 4) (req 2 0xFFFF [1#8]) { level := 4 } ∧ Live (sample 3) (req 2 0xF000 [1#8]) { level := 3 } :=
  ⟨rfl, live_spec { run [] with part := .sample } 4 _ rfl rfl rfl (by decide +kernel), fun _ h => absurd h List.not_mem_nil, rfl,
    live_spec { run [] with part := .sample } 4 _ rfl rfl rfl (by decide +kernel), live_spec { run [] with part := .sample } 3 _ rfl rfl rfl (by decide +kernel)⟩

/-- A module with a transaction 1 of session 0. -/
def dealing (st : TxnState) (clk : Nat := 0) : State :=
  { live (run []) 4 with clk := clk, dunrel := { (live (run []) 4).dunrel with txns := [{ handle := 1, sess := 0, state := st }] } }

theorem wit_txns : freeHandle (live (run []) 4) = some 1 ∧ freeHandle (dealing .open) = some 2 ∧
    (ownTxn (dealing .open) { req 5 with txn := 1 }).map (fun t => t.state) = some .open ∧
    (ownTxn (dealing .due) { req 5 with txn := 1 }).map (fun t => t.state) = some .due ∧ ownTxn (dealing .due) { req 5 with txn := 2 } = none ∧
    ((dealing .open).dunrel.txns.find? (fun t => t.handle == 1 && t.state == .open)).isSome = true ∧
    elapsed (dealing .open) 0 (reg (dealing .open) Obj.txnIdle) = false ∧ elapsed (dealing .open (10 ^ 12)) 0 (reg (dealing .open) Obj.txnIdle) = true ∧
    ((dealing (.deferred 0)).dunrel.txns.find? (fun t => t.handle == 1)).map (fun t => t.state) = some (.deferred 0) ∧
    elapsed (dealing .open) 0 (reg (dealing .open) Obj.txnDeferLimit) = false ∧
    elapsed (dealing .open (10 ^ 15)) 0 (reg (dealing .open) Obj.txnDeferLimit) = true := by decide +kernel

/-- A WRITE of TXN_IDLE in transaction 1. -/
def staged : DReq := { req 2 0x1041 [0, 0, 0, 0, 0, 0, 0, 9] with txn := 1 }

theorem wit_staged : (ownTxn (dealing .open) staged).map (fun t => t.state) = some .open ∧
    ((findRow staged.index staged.sub).map fun r =>
      let z := stageWrite { ({ handle := 1, sess := 0 } : Txn) with last := 0 } r staged
      (z.within, writeCheck (touchTxn (heard (dealing .open) staged) staged) { level := 4, last := 0 } z r staged)) = some (true, eOK) := by decide +kernel

theorem wit_events : bitOf (reg (run []) Obj.retainedStatus) 2 = false ∧ (run []).power.noiseBad = false ∧
    ({ (run []) with power := { (run []).power with noiseBad := true } } : State).power.noiseBad = true ∧
    (List.replicate 32 0#8).length = 32 ∧
    [({ num := 1, record := [], sends := 1, last := 0 } : PendEvent)].find? (fun y => y.num == 1) = some { num := 1, record := [], sends := 1, last := 0 } ∧
    elapsed { run [] with clk := 32000000 } 0 20000000 = true ∧ elapsed (run []) 0 20000000 = false := by decide +kernel

/-! ### Witnesses: object writes and commits -/

/-- A write of one element. -/
def put (idx elem : Nat) (b : List Byte) : ObjWrite :=
  { index := idx, sub := 0, vals := [{ elem := elem, total := b.length, segs := [(0, b)] }] }

/-- A transaction 1 of session 0 with its writes, which has its place in the order. -/
def txn (ws : List ObjWrite) (order : Nat := 0) (st : TxnState := .open) : Txn := { handle := 1, sess := 0, writes := ws, order := order, state := st }

/-- A module with a session 0 at VENDOR and that transaction. -/
def deal (s : State) (ws : List ObjWrite) : State :=
  { live s 4 with dunrel := { (live s 4).dunrel with txns := [txn ws] } }

/-- The TXN_COMMIT of that transaction. -/
def commit : DReq := { req 4 with txn := 1 }

/-- A module in READY that runs no job, an image loaded or not. -/
def ready (image : Nat := 0) : State := withRegs { State.reset with dev := .ready, job := (run []).job } [(Obj.imageState, image)]

/-- The transactions that store bytes, make a part of firmware, set a rank-map entry and edit a sequence. -/
def memTxn : List ObjWrite := [put 0x3200 16 [1#8, 2#8]]
def fwTxn : List ObjWrite := [put 0x9012 0 (List.replicate 4 1#8)]
def mapTxn : List ObjWrite := [put 0x4800 2 (List.replicate 32 0#8)]

theorem wit_commit : CommitOf (deal (ready) memTxn) commit { level := 4 } (txn memTxn) := by
  unfold CommitOf CommitsLone Live; decide +kernel

theorem wit_commit_now : CommitsNow (deal (ready) memTxn) commit { level := 4 } (txn memTxn) := by
  unfold CommitsNow CommitOf CommitsLone Live; decide +kernel

theorem wit_commit_applies :
    okAnd (applyTxn (atCommit (deal (ready) memTxn) commit) (committed (deal (ready) memTxn) (txn memTxn))) (fun v => v.dunrel.txns == []) = true ∧
    (txn memTxn).writesTo 0x3200 anyValue = true := by decide +kernel

theorem wit_commit_refused : firstBad [objChecks (deal (run []) [put 0x1011 0 [2#8]]) (txn [put 0x1011 0 [2#8]]),
      jobRules (deal (run []) [put 0x1011 0 [2#8]]) (txn [put 0x1011 0 [2#8]])] ≠ eOK := by decide +kernel

theorem wit_commit_due : objChecks (deal (run []) mapTxn) (txn mapTxn) = eOK ∧ jobRules (deal (run []) mapTxn) (txn mapTxn) = eOK ∧
    commitPoint (deal (run []) mapTxn) (txn mapTxn) ≠ .now := by decide +kernel

/-- An OPTSTEP in flight reads the hyperparameter record that the transaction writes. -/
def readRecord : State :=
  let s := optState true
  { withCore s (fun c => { c with flight := [{ idx := 0, word := wordD 0x10 [0, 1, 2, 3, 4, 5, 6], queue := .damson }] }) with
    dev := .ready, job := { s.job with hyperBase := memElement 16 } }

theorem wit_commit_pinned : objChecks (deal readRecord memTxn) (txn memTxn) = eOK ∧
    jobRules (deal readRecord memTxn) (txn memTxn) = eOK ∧ commitPoint (deal readRecord memTxn) (txn memTxn) = .now ∧
    pinned (deal readRecord memTxn) (txn memTxn) = true := by decide +kernel

/-- The writes of a join: the mode, both entries of the rank, the generation and the epoch. -/
def joinTxn : List ObjWrite := [put 0x1011 0 [1#8], put 0x4800 2 (List.replicate 32 0#8), put 0x4803 0 [0#8, 0#8, 0#8, 1#8], put 0x7013 0 [0#8, 5#8]]

theorem wit_effects : (ready).dunrel.txns = [] ∧ Memory.wf (ready).mem = true ∧
    memTxn = [{ index := 0x3200, sub := 0, vals := [{ elem := 16, total := 2, segs := [(0, [1#8, 2#8])] }] }] ∧
    spanMirrored (ready) (memElement 16) 2 = false ∧ (2 : Nat) < 65536 ∧
    (ready).mode = .idle ∧ (ready).dev = .ready ∧ (txn joinTxn).joins = true ∧ (txn joinTxn).touches 0x2410 = false ∧
    (txn joinTxn).touches 0x6030 = false ∧ (txn joinTxn).scalar 0x1011 0 = some 1 ∧ modeOf 1 ≠ .idle ∧
    (∀ w ∈ joinTxn, w.index = 0x1011 ∨ w.index = 0x4800 ∨ w.index = 0x4803 ∨ w.index = 0x7013) ∧
    (∀ w ∈ joinTxn, ∀ y ∈ w.vals, y.elem < 65536) := by decide +kernel

/-- A retirement of sequence 0, which no sequence's entry holds. -/
def editTxn : List ObjWrite := [put 0x6030 0 (leBytes 48 3)]

theorem wit_edits : (∀ w ∈ editTxn, w.index = 0x6030) ∧ editTxn ≠ [] ∧ okAnd (applyEdits (ready) (txn editTxn).edits []) (fun _ => true) = false ∧
    okAnd (applyEdits (setRegBytes ready Obj.seqEntry ({ state := 1 } : Seq).bytes) (txn editTxn).edits []) (fun _ => true) = true := by decide +kernel

/-- Sequence 9 in entry 0 with three pages. -/
def serving : State := setRegBytes ready Obj.seqEntry ({ id := 9, state := 1, len := 192, ptBase := 0x1000000, ptCap := 4, npages := 3 } : Seq).bytes

theorem wit_sequences : freeEntry serving = some 1 ∧ findSeq serving 8 = none ∧
    (findSeq serving 9).map (fun x => (x.1, x.2.npages, x.2.protFirst, x.2.recent)) = some (0, 3, 0, 0) ∧
    entryEvicted (pageEntry serving (seqAt serving 0) 2) = false ∧
    reg serving Obj.kvProtFirst < 2 ^ 16 ∧ reg serving Obj.kvRecent < 2 ^ 16 := by decide +kernel

set_option maxRecDepth 16384 in
/-- R268: FORK shares the parent's first pages, and RETIRE frees the entry. -/
theorem test_edits : okAnd (applyEdits serving [.fork 9 8 2 0x2000000 4 0] [])
      (fun u => ((seqAt u 1).id, (seqAt u 1).len, (seqAt u 1).npages, reg u Obj.kvActiveSeq) == (8, 128, 2, 2)) = true ∧
    okAnd (applyEdits serving [.retire 9] []) (fun u => ((seqAt u 0).state, (seqAt u 0).gen, reg u Obj.kvActiveSeq) == (0, 1, 0)) = true := by
  decide +kernel

/-- The writes that start a job at step 7. -/
def startTxn : List ObjWrite := [put 0x1011 0 [1#8], put 0x2410 0 (beBytes 8 10000000), put 0x2411 0 (beBytes 8 7)]

theorem wit_job_start : Simple (txn startTxn) ∧ (txn startTxn).scalar 0x1011 0 = some 1 ∧ objChecks (deal (ready 2) startTxn) (txn startTxn) = eOK ∧
    CommitOf (deal (ready 2) startTxn) commit { level := 4 } (txn startTxn) ∧ (deal (ready 2) startTxn).dev = .ready ∧
    (deal (ready 2) startTxn).power.trans = none ∧ reg (deal (ready 2) startTxn) Obj.imageState = 2 ∧
    (∀ w ∈ startTxn, w.index = 0x1011 ∨ w.index = 0x2410 ∨ w.index = 0x2411) ∧
    (txn startTxn).scalar 0x2410 0 = some 10000000 ∧ (txn startTxn).scalar 0x2411 0 = some 7 := by
  refine ⟨⟨by decide +kernel, ?_⟩, by decide +kernel, by decide +kernel, ?_, by decide +kernel⟩
  · simp only [txn, startTxn, put, List.mem_cons, List.not_mem_nil, or_false, forall_eq_or_imp, forall_eq]
    refine ⟨⟨trivial, _, rfl, rfl, ?_⟩, ⟨trivial, _, rfl, rfl, ?_⟩, ⟨trivial, _, rfl, rfl, ?_⟩⟩ <;> intro r hr
    · rw [show findRow 0x1011 0 = some ((findRow 0x1011 0).get (by decide +kernel)) from by simp] at hr
      cases hr; decide +kernel
    · rw [show findRow 0x2410 0 = some ((findRow 0x2410 0).get (by decide +kernel)) from by simp] at hr
      cases hr; decide +kernel
    · rw [show findRow 0x2411 0 = some ((findRow 0x2411 0).get (by decide +kernel)) from by simp] at hr
      cases hr; decide +kernel
  · unfold CommitOf CommitsLone Live; decide +kernel

/-- The writes that end a job at step n, and those of another mode. -/
def endTxnAt (n : Nat) : List ObjWrite := [put 0x1011 0 [0#8], put 0x1014 0 (beBytes 8 n)]
def modeTxn (c : Nat) : List ObjWrite := [put 0x1011 0 (beBytes 1 c)]

theorem wit_job_end : (∀ n ∈ [2, 3], CommitOf (deal (run []) (endTxnAt n)) commit { level := 4 } (txn (endTxnAt n))) ∧
    (∀ n ∈ [2, 3], objChecks (deal (run []) (endTxnAt n)) (txn (endTxnAt n)) = eOK ∧ (txn (endTxnAt n)).scalar 0x1011 0 = some 0 ∧
      (txn (endTxnAt n)).scalar 0x1014 0 = some n) ∧ (run []).job.step ≤ 3 ∧ 2 < (run []).job.step ∧ (run []).mode ≠ .idle ∧ (run []).dev = .running ∧
    (∀ c ∈ [0, 1, 2], CommitOf (deal (run []) (modeTxn c)) commit { level := 4 } (txn (modeTxn c))) ∧
    (∀ c ∈ [0, 1, 2], objChecks (deal (run []) (modeTxn c)) (txn (modeTxn c)) = eOK ∧ (txn (modeTxn c)).scalar 0x1011 0 = some c) ∧
    modeOf 1 = (run []).mode ∧ modeOf 2 ≠ (run []).mode ∧ watchers linked ≠ [] ∧ (linked.dev = .running) := by
  unfold CommitOf CommitsLone Live; decide +kernel

/-- The transaction of an image command. -/
def imageTxn (c : Nat) (st : TxnState := .open) : Txn := { handle := 1, sess := 0, writes := [put 0x2001 0 [BitVec.ofNat 8 c]], state := st }

/-- A module whose image command is being checked; IMAGE_HASH is the digest of no bytes (FIPS 180-4). -/
def checking (s : State) (c : Nat) : State :=
  { setRegBytes (withRegs (live s 4) [(Obj.arithRev, 1)]) Obj.imageHash (beBytes 32 0xE3B0C44298FC1C149AFBF4C8996FB92427AE41E4649B934CA495991B7852B855) with
    dunrel := { (live s 4).dunrel with txns := [imageTxn c .checking] } }

/-- An image that every rule admits: one phase and one step-close mark on each core; and one whose arithmetic revision the module does not have. -/
def image (rev : Nat) : Image :=
  { arithRev := rev, jobModules := 1, streams := (0x1000, 3) :: List.replicate 127 (0x2000, 1)
    writes := (thatchAddr 0 + 0x1000, [0, 1, 4].flatMap fun k => leBytes 32 (wordD 0x2C [] k).toNat) ::
      (List.finRange 4).map fun d => (thatchAddr d + 0x2000, leBytes 32 (wordD 0x2C [] 4).toNat)
    tables := List.replicate 128 (0x1000, 0)
    windows := [(0x1000000, 0x1000000), (0x100000000, 0x80000000), (sramAddr 0, 0x800000)]
    swapAreas := List.replicate 128 0x100000000, interleave := List.replicate 16 0, phases := [{ start := 0, base := 1000000, reserve := 125000, timed := true }]
    stepPeriod := 1125000, mirrors := [(0x1000000, 0x100000)], trackers := List.replicate 16 [], slots := [0x180000000, 0x190000000], logBase := 0x1080000, logBytes := 0x10000, localBase := 0x110000000 }

/-- The state that a computation answers, and the case in which it does. -/
def got (e : Except Nat State) : State :=
  match e with
  | .ok u => u
  | .error _ => State.reset

theorem got_eq {e : Except Nat State} (h : okAnd e (fun _ => true) = true) : e = .ok (got e) := by
  cases e with
  | ok => rfl
  | error => simp [okAnd] at h

/-- The LOAD's writes done; the state before the SWAP's install; and the streams that `image` holds. -/
def loading : State := got (commitTxn (checking (ready) 1) (imageTxn 1 .checking))
def swapping : State := writeAll (checking (run []) 2) (imageTxn 2 .checking)
def imageOps (l : Core) : List (BitVec 256) := (if l.val = 0 then [0, 1, 4] else [4]).map fun k => wordD 0x2C [] k

/-- A state that holds the streams of `image`, by the words that lie where they start. -/
theorem streamOps_image (s : State) (hs : s.job.streams = (image 1).streams ∧
    (∀ k < 3, BitVec.ofNat 256 (readLE s (thatchAddr 0 + 0x1000 + 32 * k) 32) = wordD 0x2C [] ([0, 1, 4].getD k 0)) ∧
    ∀ d : Die, BitVec.ofNat 256 (readLE s (thatchAddr d + 0x2000) 32) = wordD 0x2C [] 4) : streamOps s = imageOps := by
  obtain ⟨h, h0, h1⟩ := hs
  have g : ∀ l : Core, (image 1).streams.getD l.val (0, 0) = if l.val = 0 then (0x1000, 3) else (0x2000, 1) := by decide +kernel
  funext l
  simp only [streamOps, streamLen, imageOps, h, g]
  split
  · next hl =>
    have hd : l.die = 0 := Fin.ext (by simp [Core.die, hl])
    have hw : ∀ k < 3, wordAt s l k = wordD 0x2C [] ([0, 1, 4].getD k 0) := fun k hk => by
      simp only [wordAt, h, hl, hd]; simpa [image] using h0 k hk
    simp [List.range_succ, hw]
  · next hl =>
    have hw : wordAt s l 0 = wordD 0x2C [] 4 := by simp only [wordAt, h, g, hl, if_false, Nat.mul_zero, Nat.add_zero, h1]
    simp [List.range_succ, hw]

set_option maxRecDepth 16384 in
theorem load_streams : streamOps (installLoad loading (image 1)) = imageOps :=
  streamOps_image _ (by decide +kernel)

set_option maxRecDepth 16384 in
theorem swap_streams : streamOps (installSwap swapping (image 1)) = imageOps :=
  streamOps_image _ (by decide +kernel)

set_option maxRecDepth 32768 in
theorem wit_load_ok : imageFault loading (installLoad loading (image 1)) (image 1) = none := by
  unfold imageFault ringOk walksOk firstBadOp
  simp only [load_streams]
  decide +kernel

set_option maxRecDepth 32768 in
theorem wit_swap_ok : imageFault swapping (installSwap swapping (image 1)) (image 1) = none := by
  unfold imageFault ringOk walksOk firstBadOp
  simp only [swap_streams]
  decide +kernel

theorem wit_image_checks : (checking (ready) 1).dunrel.txns.find? (fun t => t.state == .checking && t.imageCmd == 1) = some (imageTxn 1 .checking) ∧
    commitTxn (checking (ready) 1) (imageTxn 1 .checking) = .ok loading ∧
    imageFault loading (installLoad loading (image 9)) (image 9) ≠ none ∧ imageFault swapping (installSwap swapping (image 9)) (image 9) ≠ none :=
  ⟨by decide +kernel, got_eq (by decide +kernel), by decide +kernel, by decide +kernel⟩

/-- A WRITE outside a transaction. -/
def write (idx elem : Nat) (b : List Byte) : DReq := { req 2 idx b with element := elem }

theorem plain_spec (s : State) (h : s.dunrel.txns = []) (idx elem : Nat) (b : List Byte) (hb : b.length ≤ segMax (live s 3)) :
    PlainWrite (live s 3) (write idx elem b) { level := 3 } idx elem b :=
  ⟨rfl, live_spec s 3 _ rfl rfl rfl hb, Nat.le_refl 3, h, rfl, rfl, rfl, rfl, rfl, rfl, rfl, rfl⟩

/-- An entry of OWNER for a key of 02 bytes. -/
def ownerEntry : List Byte := List.replicate 32 2#8 ++ [3#8] ++ List.replicate 7 0#8

theorem wit_plain : PlainWrite (live ready 3) (write 0x1012 0 [1#8]) { level := 3 } 0x1012 0 [1#8] ∧
    PlainWrite (live ready 3) (write 0x1030 63 ownerEntry) { level := 3 } 0x1030 63 ownerEntry ∧
    PlainWrite (live ready 3) (write 0x4900 1023 (List.replicate 32 0#8)) { level := 3 } 0x4900 1023 (List.replicate 32 0#8) :=
  ⟨plain_spec _ rfl _ _ _ (by decide +kernel), plain_spec _ rfl _ _ _ (by decide +kernel), plain_spec _ rfl _ _ _ (by decide +kernel)⟩

theorem wit_plain_states : ownerListed (withRegs (live ready 3) [(Obj.accessList, 3 * 2 ^ 256)]) = true ∧ (ready).power.trans = none ∧
    reg ready Obj.fwState = 0 ∧ reg (withRegs ready [(Obj.fwState, 3)]) Obj.fwState = 3 ∧ (ready).net.ctxs = [] ∧
    byteAt ownerEntry 32 ≤ 3 ∧ ownerEntry.length = 40 := by decide +kernel

/-- A WRITE of TXN_IDLE outside a transaction, whole or without its last byte. -/
def whole (n : Nat) : DReq := { req 2 0x1041 ((beBytes 8 10000000000).take n) with total := 8 }

/-- The checks of `WritesWhole`, computed. -/
def wholeOk (s : State) (m : DReq) (x : Session) (r : ObjRow) : Bool :=
  writeCheck (heard s m) { x with last := s.clk } (ownWrite s m r) r m == eOK && objChecks (heard s m) (ownWrite s m r) == eOK

theorem wit_whole : Live (live (run []) 4) (whole 8) { level := 4 } ∧ Live (live (run []) 4) (whole 7) { level := 4 } ∧
    (whole 8).type = 2 ∧ (whole 8).txn = 0 ∧ (live (run []) 4).dunrel.txns = [] ∧ (whole 8).count = 1 ∧ (whole 8).offset = 0 ∧
    (whole 8).total = (whole 8).payload.length ∧ (whole 8).index < 0xF000 ∧
    (findRow (whole 8).index (whole 8).sub).map (fun r => (wholeOk (live (run []) 4) (whole 8) { level := 4 } r, r.nextBoundary,
      writeCheck (heard (live (run []) 4) (whole 7)) { level := 4, last := 0 } (ownWrite (live (run []) 4) (whole 7) r) r (whole 7))) =
        some (true, false, eRANGE) :=
  ⟨live_spec _ _ _ rfl rfl rfl (by decide +kernel), live_spec _ _ _ rfl rfl rfl (by decide +kernel), by decide +kernel⟩

/-- A transaction that holds as many object writes as it may, with one more written, and a WRITE that is too short. -/
theorem wit_staged_refused :
    (findRow staged.index staged.sub).map (fun r => (stageWrite { handle := 1, sess := 0, writes := List.replicate 256 (put 0x6030 0 []) } r staged).within)
      = some false ∧
    (ownTxn { dealing .open with dunrel := { (dealing .open).dunrel with txns := [{ handle := 1, sess := 0, writes := List.replicate 256 (put 0x6030 0 []) }] } }
      staged).map (fun t => t.state) = some .open ∧
    (findRow staged.index staged.sub).map (fun r => let m := { staged with total := 9 }
      let z := stageWrite { ({ handle := 1, sess := 0 } : Txn) with last := 0 } r m
      (z.within, decide (writeCheck (touchTxn (heard (dealing .open) m) m) { level := 4, last := 0 } z r m = eOK))) = some (true, false) ∧
    (ownTxn (dealing .due) { staged with txn := 1 }).map (fun t => t.state) = some .due := by decide +kernel

/-- The writes of a mode with the swap of its image (R11). -/
def switchTxn : List ObjWrite := [put 0x1011 0 [2#8], put 0x2001 0 [2#8]]

theorem wit_mode_switch : CommitsLone (deal (run []) switchTxn) commit { level := 4 } (txn switchTxn) ∧ (txn switchTxn).imageCmd = 2 ∧
    (txn switchTxn).scalar 0x1011 0 = some 2 ∧ objChecks (deal (run []) switchTxn) (txn switchTxn) = eOK ∧
    (∀ w ∈ switchTxn, w.index = 0x1011 ∨ w.index = 0x2001) ∧ (deal (run []) switchTxn).dev = .running ∧ modeOf 2 ≠ .idle ∧
    modeOf 2 ≠ (deal (run []) switchTxn).mode ∧ modeOf 2 = .serve := by
  unfold CommitsLone Live; decide +kernel

/-- R11, R35: at the switch to SERVE the slot that is not CURRENT is FREE. -/
theorem test_mode_switch : (commitMode { run [] with num := { (run []).num with slots := [{ state := .held, refs := 2 }, { state := .current }] } }
    (txn switchTxn)).num.slots.map (fun x => (x.state, x.refs)) = [(.free, 0), (.current, 0)] := by decide +kernel

theorem wit_image_commands : CommitsLone (deal ready [put 0x2001 0 [1#8]]) commit { level := 4 } (imageTxn 1) ∧
    CommitsLone (deal (run []) [put 0x2001 0 [2#8]]) commit { level := 4 } (imageTxn 2) ∧ (deal ready [put 0x2001 0 [1#8]]).dev = .ready ∧
    (deal (run []) [put 0x2001 0 [2#8]]).dev = .running ∧ (checking ready 1).kv.seqTable = none := by
  unfold CommitsLone Live; decide +kernel

/-- A module in each device state that STATE_REQ finds, a transition in progress or not. -/
def inState (d : DeviceState) (tr : Option DeviceState := none) : State := withPower { ready with dev := d } fun p => { p with trans := tr }

theorem segMax_inState (d : DeviceState) (tr : Option DeviceState) : 1 ≤ segMax (live (inState d tr) 3) := by
  rw [show segMax (live (inState d tr) 3) = segMax (live ready 3) from rfl]; decide +kernel

theorem wit_state_requests : ∀ d ∈ [DeviceState.ready, .asleep, .maint, .running, .recovering, .faulted], ∀ c ∈ [1#8, 2#8, 5#8],
    PlainWrite (live (inState d) 3) (write 0x1012 0 [c]) { level := 3 } 0x1012 0 [c] ∧ (live (inState d) 3).power.trans = none ∧
    (live (inState d) 3).dev = d :=
  fun d _ _ _ => ⟨plain_spec _ rfl _ _ _ (segMax_inState d none), rfl, rfl⟩

theorem wit_requests_of_state : (live (inState .ready (some .asleep)) 3).power.trans = some .asleep ∧ reg (live (inState .maint) 3) Obj.fwState ≠ 2 ∧
    PlainWrite (live ready 3) (write 0x1013 0 [1#8]) { level := 3 } 0x1013 0 [1#8] ∧
    PlainWrite (live (inState .maint) 3) (write 0x9013 0 [1#8]) { level := 3 } 0x9013 0 [1#8] ∧
    PlainWrite (live (withRegs (inState .maint) [(Obj.fwState, 3)]) 3) (write 0x9013 0 [2#8]) { level := 3 } 0x9013 0 [2#8] ∧
    PlainWrite (live ready 3) (write 0x8040 0 [1#8]) { level := 3 } 0x8040 0 [1#8] :=
  ⟨rfl, by decide +kernel, plain_spec _ rfl _ _ _ (by decide +kernel), plain_spec _ rfl _ _ _ (by decide +kernel),
    plain_spec _ rfl _ _ _ (by decide +kernel), plain_spec _ rfl _ _ _ (by decide +kernel)⟩

/-- A commit whose edits are refused at its point: every check before it holds. -/
theorem wit_commit_edits : CommitsNow (deal ready editTxn) commit { level := 4 } (txn editTxn) ∧
    okAnd (applyTxn (atCommit (deal ready editTxn) commit) (committed (deal ready editTxn) (txn editTxn))) (fun _ => true) = false := by
  unfold CommitsNow CommitOf CommitsLone Live; decide +kernel

/-! ### Witnesses: memory's condition, links, power and firmware -/

theorem wit_scrub : (run []).dev ≠ .off ∧ (run []).dev ≠ .asleep ∧ chanState (run []) 127 ≠ 2 ∧ scrubPos (run []) 127 < channelGranules ∧
    (run []).ras.scrubAt.length = 128 ∧ isMirrored (run []) (granuleOf (run []) 127 (scrubPos (run []) 127)) = false ∧
    channelGranules ≤ scrubPos (withRas (run []) fun r => { r with scrubAt := List.replicate 128 channelGranules }) 127 ∧
    (127 : Fin 128).val ∉ (run []).ras.copying ∧
    (127 : Fin 128).val ∈ (withRas (run []) fun r => { r with copying := [127] }).ras.copying := by decide +kernel

theorem wit_channel : (127 : Fin 128).val ∉ (run []).ras.failing ∧ (127 : Fin 128).val ∈ (withRas (run []) fun r => { r with failing := [127] }).ras.failing ∧
    (reg (run []) Obj.retireReserve + 1) / 2 ≤ (retirements (run [])).length ∧
    ¬ (reg (withRegs (run []) [(Obj.retireReserve, 4)]) Obj.retireReserve + 1) / 2 ≤ (retirements (withRegs (run []) [(Obj.retireReserve, 4)])).length := by
  decide +kernel

theorem wit_links : (run []).ras.linkReplays.length = 8 ∧ (run []).ras.linkLanes.length = 8 ∧ (run []).ras.linkLanes.getD 7 0 < 2 ∧
    2 ≤ (withRas (run []) fun r => { r with linkLanes := List.replicate 8 2 }).ras.linkLanes.getD 7 0 ∧ 7 ∉ (run []).ras.linksLost ∧
    7 ∈ (withRas (run []) fun r => { r with linksLost := [7] }).ras.linksLost := by decide +kernel

theorem wit_management : (run []).power.dormer = false ∧ (withPower (run []) fun p => { p with dormer := true }).power.dormer = true ∧
    (run []).power.restarting = false ∧ (withPower (run []) fun p => { p with restarting := true }).power.restarting = true := by decide +kernel

theorem wit_pins : State.reset.power.pwrEn = false ∧ State.reset.dev = .off ∧ State.reset.power.start = none ∧ State.reset.power.locked = false ∧
    State.reset.power.inputOk = true ∧ State.reset.power.awaitInput = false ∧ State.reset.power.rstLow = false ∧ State.reset.power.refs = 3 ∧
    (withPower State.reset fun p => { p with pwrEn := true, locked := true }).power.locked = true ∧ (run []).dev ≠ .off ∧
    (withPower State.reset fun p => { p with pwrEn := true }).power.pwrEn = true ∧
    (withPower State.reset fun p => { p with start := some (.warm 1) }).power.start = some (.warm 1) ∧ Memory.wf State.reset.mem = true := by decide +kernel

theorem wit_power : (run []).dev ≠ .off ∧ w32Lt 0x43480000#32 (BitVec.ofNat 32 (reg (run []) Obj.thermalTrip)) = false ∧
    w32Lt 0#32 (BitVec.ofNat 32 (reg (run []) Obj.thermalTrip)) = true ∧ State.reset.power.start = none := by decide +kernel

theorem wit_transitions : Memory.wf (run []).mem = true ∧ (run []).power.trans = none ∧
    (withPower (ready) fun p => { p with trans := some .asleep }).power.trans = some .asleep ∧ (ready).dev = .ready ∧
    ({ withPower (ready) (fun p => { p with trans := some .ready }) with dev := .maint } : State).dev = .maint := by decide +kernel

/-- A module that runs firmware of security version 1 while its fuses read 0. -/
def newer : State := withPower (withRegs (run []) [(Obj.securityVersion, 0), (Obj.fwActive, 0)]) fun p => { p with dormer := true, reachedReady := true, banks := (.staged [(8, 1#8)], .factory) }

theorem wit_store : (withPower (run []) fun p => { p with writing := some (true, { seq := 5, vals := [] }) }).power.writing = some (true, { seq := 5, vals := [] }) ∧
    (run []).power.writing = none ∧ (run []).recov.storeDue = false ∧ elapsed { run [] with clk := 96 * 10 ^ 9 } 0 60000000000 = true ∧
    elapsed (run []) 0 60000000000 = false ∧ (run []).power.program = [] ∧
    (withPower (run []) fun p => { p with program := [(1, [7#8])] }).power.program = (1, [7#8]) :: [] ∧
    (match bankOf' newer (inactiveBank newer) with | .staged _ => false | .factory => true) = true ∧
    reg (run []) Obj.fwState ≠ 2 ∧ reg (withRegs (run []) [(Obj.fwState, 2)]) Obj.fwState = 2 ∧
    newer.power.dormer = true ∧ newer.power.reachedReady = true ∧ (run []).power.reachedReady = false ∧
    securityVersion (newer) < runningSvn (newer) ∧ runningSvn { newer with power := { newer.power with banks := (.staged [], .factory) } } ≤ 0 := by
  decide +kernel

theorem wit_telemetry : 16 ≤ (run []).power.cap ∧ (run []).power.cap ≤ 80 ∧ (run []).power.held = none ∧
    w32Lt (BitVec.ofNat 32 (reg (run []) Obj.powerLimit)) 0x47C35000#32 = true ∧ State.reset.dev = .off := by decide +kernel

/-- The first phase of step JOB_S0 opens when PTP is LOCKED and not before. -/
theorem wit_first_phase : phaseMayOpen (withRegs (run [mark 0 0]) [(Obj.jobS0, 3)]) 0 = false ∧
    phaseMayOpen (withRegs (run [mark 0 0]) [(Obj.jobS0, 3), (Obj.ptpState, 2)]) 0 = true := by decide +kernel

theorem wit_round : (∃ v, w32Val 0x3F800000#32 = .fin false v) ∧ ∃ v, w32Val 0x80000000#32 = .fin true v := ⟨⟨_, rfl⟩, _, rfl⟩

/-! ### Ill-formed commands -/

/-- A header of each width one too wide. -/
theorem test_wf_requests : (Instr.read { sess := 0, type := 256 }).WellFormed = false ∧ (Instr.write { sess := 0, ver := 16 }).WellFormed = false ∧
    (Instr.txnOpen { sess := 0, reqId := 2 ^ 32 }).WellFormed = false ∧ (Instr.txnCommit { sess := 0, index := 65536 }).WellFormed = false ∧
    (Instr.txnAbort { sess := 0, sub := 256 }).WellFormed = false ∧ (Instr.subscribe { sess := 0, txn := 256 }).WellFormed = false ∧
    (Instr.eventAck { sess := 0, element := 2 ^ 32 }).WellFormed = false ∧ (Instr.decide { sess := 0, count := 2 ^ 32 }).WellFormed = false ∧
    (Instr.attest { sess := 0, offset := 2 ^ 32 }).WellFormed = false ∧ (Instr.close { sess := 0, total := 2 ^ 32 }).WellFormed = false ∧
    (Instr.dtlsHandshake { peer := 2 ^ 128, key := none }).WellFormed = false ∧
    (Instr.dtlsHandshake { peer := 0, key := some [0#8] }).WellFormed = false ∧ (Instr.read { sess := 0 }).WellFormed = true := by decide +kernel

theorem test_wf_packets : (Instr.ackRx { src := .rank 32768 } { next := 0, limit := 0 }).WellFormed = false ∧
    (Instr.ackRx { src := .endpoint 1024 } { next := 0, limit := 0 }).WellFormed = false ∧
    (Instr.ackRx { src := .rank 0, ver := 16 } { next := 0, limit := 0 }).WellFormed = false ∧
    (Instr.ackRx { src := .rank 0, path := 2 } { next := 0, limit := 0 }).WellFormed = false ∧
    (Instr.ackRx { src := .rank 0, dstCtx := 16384 } { next := 0, limit := 0 }).WellFormed = false ∧
    (Instr.ackRx { src := .rank 0, psn := 2 ^ 32 } { next := 0, limit := 0 }).WellFormed = false ∧
    (Instr.ackRx { src := .rank 0, job := 65536 } { next := 0, limit := 0 }).WellFormed = false ∧
    (Instr.ackRx { src := .rank 0, epoch := 65536 } { next := 0, limit := 0 }).WellFormed = false ∧
    (Instr.nakRx { src := .rank 0 } { next := 2 ^ 32, limit := 0 }).WellFormed = false ∧
    (Instr.nakRx { src := .rank 0 } { next := 0, limit := 2 ^ 32 }).WellFormed = false ∧
    (Instr.nakRx { src := .rank 0 } { next := 0, limit := 0, code := 256 }).WellFormed = false ∧
    (Instr.nakRx { src := .rank 0 } { next := 0, limit := 0, repoch := 65536 }).WellFormed = false ∧
    (Instr.dataRx { src := .rank 0 } { msg := 0, offset := 0, mlen := 0, kind := 16, payload := [] }).WellFormed = false ∧
    (Instr.dataRx { src := .rank 0 } { msg := 0, offset := 0, mlen := 0, kind := 0, plan := 65536, payload := [] }).WellFormed = false ∧
    (Instr.openCtx { src := .endpoint 0 } { ctx := 16384, kind := 2 }).WellFormed = false ∧
    (Instr.openAck { src := .endpoint 0 } { ctx := 0, kind := 16 }).WellFormed = false ∧
    (Instr.tbkClose { src := .endpoint 0 } { ctx := 0, kind := 2, nonce := 2 ^ 32 }).WellFormed = false ∧
    (Instr.heartbeat { src := .rank 0 } { seq := 2 ^ 32 }).WellFormed = false ∧
    (Instr.stretch { src := .rank 0 } { origin := 0, quanta := 0, reqId := 0, step := 0, phase := 0 }).WellFormed = false ∧
    (Instr.stretch { src := .rank 0 } { origin := 0, quanta := 256, reqId := 0, step := 0, phase := 0 }).WellFormed = false ∧
    (Instr.frameRx { len := 65536 }).WellFormed = false ∧ (Instr.frameRx { port := some 65536 }).WellFormed = false := by decide +kernel

theorem test_wf_others : (Instr.fwd 0 65536).WellFormed = false ∧ (Instr.ctxsave 0 0 (some (2 ^ 64))).WellFormed = false ∧
    (Instr.memWriteAck 0 64).WellFormed = false ∧ (Instr.memReadResponse 0 0 [(0, 0, 0#8)] []).WellFormed = false ∧
    (Instr.memReadResponse 0 0 [(0, 0, 1#8), (0, 0, 2#8)] []).WellFormed = false ∧ (Instr.memReadResponse 0 0 [(0, 0, 1#8)] []).WellFormed = true ∧
    (Instr.stepBoundary [(8192, 0)]).WellFormed = false ∧ (Instr.jobStart { sess := 0 } [(0, 65536)]).WellFormed = false ∧
    (Instr.activityWindow ⟨.reed 0, none⟩ (80 * 131072 + 1) 0).WellFormed = false ∧
    (Instr.activityWindow ⟨.reed 0, none⟩ 0 81).WellFormed = false ∧ (Instr.activityWindow ⟨.reed 0, some (2 ^ 64)⟩ 0 0).WellFormed = false ∧ (Instr.txnIdleExpiry 256).WellFormed = false ∧
    (Instr.imageLoadDone { arithRev := 0 }).WellFormed = false ∧ (Instr.ackTimer 16384).WellFormed = false ∧
    (Instr.heartbeatLoss 32768 false).WellFormed = false ∧ (Instr.joinTransaction (.answered 32768)).WellFormed = false ∧
    (Instr.telemetryUpdate { voltage := 0, current := 0, power := 0, temps := [] } []).WellFormed = false ∧
    (Instr.ptpMessage (2 ^ 128) 0 (.announce 0)).WellFormed = false ∧ (Instr.fetchTimeout (2 ^ 32) false).WellFormed = false ∧
    (Instr.jobStart { sess := 0, type := 256 } []).WellFormed = false ∧ (Instr.tiedsum ⟨0, some (2 ^ 64)⟩ 0).WellFormed = false ∧
    (Instr.convert ⟨0, some (2 ^ 64)⟩ 0).WellFormed = false ∧ (Instr.reedBankSwap ⟨0, none⟩ (2 ^ 64)).WellFormed = false ∧
    (Instr.reedVerdict 0 65536 true none).WellFormed = false ∧ (Instr.quinceBankSwap 0 (2 ^ 64)).WellFormed = false ∧
    (Instr.sparPassTest 0 0 65536 none).WellFormed = false ∧ (Instr.shadowCompare (2 ^ 32)).WellFormed = false ∧
    (Instr.pauseTimeout (2 ^ 32)).WellFormed = false ∧ (Instr.icmpEcho (2 ^ 128) []).WellFormed = false ∧
    (Instr.neighbourResolution 0 0 (2 ^ 128)).WellFormed = false := by decide +kernel

/-! ### Results that the manual gives -/

/-- "Decoding a block": B4 0b0110 under the fine scale 0x93 and the tensor scale 0x3C00_0000 is 47/64 × 2.375 × 2^−7; U4 3 with zero
point 8 is −5 × 2.375 × 2^−7. -/
theorem test_decode : ((decode .b4 0b0110 (fineVal 0x93) (tscaleVal 0x3C000000#32) 0).dy.toQ.eqv ⟨47 * 2375, 64 * 1000 * 128⟩) = true ∧
    ((decode .u4 0b0011 (fineVal 0x93) (tscaleVal 0x3C000000#32) 8).dy.toQ.eqv ⟨-5 * 2375, 1000 * 128⟩) = true := by decide +kernel

/-- "One value into every target": −0.6. -/
theorem test_encode : ([Format.b4, .b3, .b2, .s4, .k8, .l8].map fun f => (encodeQ f ⟨-6, 10⟩ false .near 0 false).code) =
      [0b1101, 0b110, 0b11, 0b1111, 0xB2, 0xB9] ∧
    (encodeQ .b4 ⟨-6, 10⟩ false (.stoch 8 0x50) 0 false).code = 0b1101 ∧ (encodeQ .b4 ⟨-6, 10⟩ false (.stoch 8 0x30) 0 false).code = 0b1110 := by
  decide +kernel

/-- "A sigmoid derivative": y = 0.75 gives d = 0.1875, and 0.140 625 is a tie of L8 that goes to 0x30. -/
theorem test_sigmoid : (encodeQ .l8 ⟨140625, 1000000⟩ false .near 0 false).code = 0x30 := by decide +kernel

/-- "A small update survives": the pairs of three steps, and an update that is lost. -/
theorem test_master : (masterSplit 0x3F7FF400#32, masterSplit 0x3F7FE800#32) = ((0x3F7F, 0xF4, false), (0x3F7F, 0xE8, false)) ∧
    w32Sub 0x3F800000#32 0x39400000#32 = 0x3F7FF400#32 ∧ masterSplit 0x3F7FFFF0#32 = (0x3F80, 0x00, false) := by decide +kernel

/-- "One mask bit, two tilings": the counter of element 1,024,517, and the uniform value of the word 0x8000_0000. -/
theorem test_counter : (sloeCounter 1200 1 3 0 (1024517 / 4)) = sloeCounter 1200 1 3 0 0x3E881 ∧
    roundDy (sloeUniform 0x80000000#32) false = 0x3F000001#32 := by decide +kernel

/-- "One address, its codeword and its mirror". -/
theorem test_address : homeOf true 0x000420008000 = (1, 0x84001) ∧ bgi 1 0x84001 = 9 ∧ mirrorOf true 0x000420008000 = 0x00842000C000 ∧
    (homeOf true 0x00842000C000).1 = 65 ∧ granuleAt true 1 0x84001 = 0x000420008000 := by decide +kernel

/-- "The tree order": six members that hold 2^24, four times 1.0 and −2^24 sum to 3.0. -/
theorem test_tree : treeAdd 8 ([0x4B800000, 0x3F800000, 0x3F800000, 0x3F800000, 0x3F800000, 0xCB800000].map (leBytes 4)) = leBytes 4 0x40400000 := by
  decide +kernel

/-! ### Steps -/

/-- A command that waits is taken first in, first out, and an idle step counts a clock (log 1). -/
theorem test_queue : (after (step { State.reset with pending := [.stop, .halt] }) State.reset).pending = [.halt] ∧
    (after (step State.reset) State.reset).clk = 1 := by decide +kernel

/-- R297: an operation sets its tokens when it completes, and SIGNAL sets a token of another core when it arrives. -/
theorem test_signal :
    let s := after (exec (.signal 0 0) (run [word 0x29 (5 * 1 + 9 * 256)])) State.reset
    tokenSet (coreOf (after (exec (.signalArrival ⟨5, none⟩) s) s) 5) 9 = true ∧ tokenSet (coreOf s 5) 9 = false := by decide +kernel

/-- R316: a timed phase does not open before its start, and opens at it. -/
theorem test_phase :
    (after (exec (.phaseOpen 0 0) (withRegs (run [mark 0 1]) [(Obj.stepPeriod, 0)])) State.reset).job.opened = [] ∧
    (after (exec (.phaseOpen 0 0) { withRegs (run [mark 0 1]) [(Obj.stepPeriod, 0)] with clk := 8000 }) State.reset).job.opened = [1] := by decide +kernel

/-- R337: a read with one symbol in error returns the data and counts a correction; a copy moves its bytes at issue (log 84). -/
theorem test_copy : readBytes (after (exec (.copy 0 0) (opState (wordD 0x14 [0, 1]) [region 0 4, region 1 4] [(area 0, [1#8, 2#8, 3#8, 4#8])])) State.reset)
    (area 1) 4 = [1#8, 2#8, 3#8, 4#8] := by decide +kernel

/-- R62, R70: 3.0 × 2.0 on the forward array in W16. -/
theorem test_fwd :
    let s := opState (word 1 (16 * 2 ^ 175)) [vec 0 7 1, vec 1 7 1, region 2 4, region 3 4, region 4 4116]
      [(area 0, [0x40#8, 0x40#8]), (area 1, [0x00#8, 0x40#8])] [(sramAddr 0 + 0x400, prodB 0 [[0, 1, noDesc, 2, 3]])]
    readW32 (after (exec (.fwd 0 0) s) s) (area 2) = 0x40C00000#32 := by decide +kernel

end Sys2Proof.Tests
end

/-! ### Rounding what a format represents (R44, R45, R72, R74, R557)

The code of a magnitude m × 2^e is found in three moves: its binary logarithm is ⌊log2 m⌋ + e, so the quantum of a decoded
code is its own exponent; scaled by that quantum the ratio is the integer m; and an integer rounds to itself. -/

namespace Sys2Proof.Machine

/-- An integer rounds to itself (R72). -/
theorem roundNat_mul_self (m : Nat) {d : Nat} (hd : 0 < d) : roundNat (m * d) d = m := by
  simp only [roundNat, Nat.mul_div_cancel m hd, Nat.mul_mod_left, Nat.mul_zero]
  rw [if_pos hd]

theorem Dy.toQ_of_neg (m : Int) {e : Int} (h : e < 0) : Dy.toQ ⟨m, e⟩ = ⟨m, 2 ^ (-e).toNat⟩ := if_pos h

theorem Dy.toQ_of_nonneg (m : Int) {e : Int} (h : 0 ≤ e) : Dy.toQ ⟨m, e⟩ = ⟨m * 2 ^ e.toNat, 1⟩ := if_neg (Int.not_lt.mpr h)

/-- A positive count of units is a positive value. -/
theorem Dy.toQ_pos {m : Nat} (e : Int) (hm : 0 < m) : 0 < (Dy.toQ ⟨m, e⟩).n := by
  rcases Int.lt_or_le e 0 with he | he
  · rw [Dy.toQ_of_neg _ he]
    exact Int.natCast_pos.mpr hm
  · rw [Dy.toQ_of_nonneg _ he]
    exact Int.mul_pos (Int.natCast_pos.mpr hm) (Int.pow_pos (by decide))

theorem Dy.toQ_zero_n (e : Int) : (Dy.toQ ⟨0, e⟩).n = 0 := by
  rcases Int.lt_or_le e 0 with he | he
  · rw [Dy.toQ_of_neg _ he]
  · rw [Dy.toQ_of_nonneg _ he, Int.zero_mul]

/-- The ratio of −a is that of a with its sign changed. -/
theorem Dy.toQ_neg (a : Dy) : a.neg.toQ = a.toQ.neg := by
  obtain ⟨m, e⟩ := a
  rcases Int.lt_or_le e 0 with he | he
  · simp only [Dy.neg, Q.neg, Dy.toQ_of_neg _ he]
  · simp only [Dy.neg, Q.neg, Dy.toQ_of_nonneg _ he, Int.neg_mul]

theorem Q.abs_neg (q : Q) : q.neg.abs = q.abs := by simp only [Q.neg, Q.abs, Int.natAbs_neg]

theorem Q.abs_of_nonneg {q : Q} (h : 0 ≤ q.n) : q.abs = q := by
  simp only [Q.abs, Int.natAbs_of_nonneg h]

/-- ⌊log2 (m / 2^j)⌋ = ⌊log2 m⌋ − j: the guess of `Q.log2` is never corrected when the denominator is a power of two. -/
theorem Q.log2_div_pow2 {m : Nat} (j : Nat) (hm : m ≠ 0) : Q.log2 ⟨m, 2 ^ j⟩ = (m.log2 : Int) - j := by
  have hle : 2 ^ m.log2 ≤ m := Nat.log2_self_le hm
  simp only [Q.log2, Int.natAbs_natCast, Nat.log2_two_pow]
  refine if_pos ?_
  split
  case isTrue h =>
    calc 2 ^ j = 2 ^ m.log2 * 2 ^ (-((m.log2 : Int) - j)).toNat := by rw [← Nat.pow_add]; congr 1; omega
      _ ≤ _ := Nat.mul_le_mul_right _ hle
  case isFalse h =>
    calc 2 ^ j * 2 ^ ((m.log2 : Int) - j).toNat = 2 ^ m.log2 := by rw [← Nat.pow_add]; congr 1; omega
      _ ≤ m := hle

theorem log2_mul_two_pow {m : Nat} (k : Nat) (hm : m ≠ 0) : (m * 2 ^ k).log2 = m.log2 + k := by
  have hp : 0 < 2 ^ k := Nat.two_pow_pos k
  refine (Nat.log2_eq_iff (Nat.mul_ne_zero hm (Nat.ne_of_gt hp))).mpr ⟨?_, ?_⟩
  · rw [Nat.pow_add]
    exact Nat.mul_le_mul_right _ (Nat.log2_self_le hm)
  · rw [Nat.add_right_comm, Nat.pow_add]
    exact Nat.mul_lt_mul_of_pos_right Nat.lt_log2_self hp

/-- ⌊log2 (m × 2^e)⌋ = ⌊log2 m⌋ + e. -/
theorem Dy.log2_toQ {m : Nat} (e : Int) (hm : m ≠ 0) : (Dy.toQ ⟨m, e⟩).log2 = (m.log2 : Int) + e := by
  rcases Int.lt_or_le e 0 with he | he
  · rw [Dy.toQ_of_neg _ he, Q.log2_div_pow2 _ hm]
    omega
  · have hcast : (m : Int) * 2 ^ e.toNat = ((m * 2 ^ e.toNat : Nat) : Int) := by
      rw [Int.natCast_mul, Int.natCast_pow]; rfl
    have h := Q.log2_div_pow2 0 (Nat.mul_ne_zero hm (Nat.ne_of_gt (Nat.two_pow_pos e.toNat)))
    rw [log2_mul_two_pow _ hm, Nat.pow_zero] at h
    rw [Dy.toQ_of_nonneg _ he, hcast, h]
    omega

theorem natAbs_mul_two_pow (m k : Nat) : ((m : Int) * 2 ^ k).natAbs = m * 2 ^ k := by
  rw [Int.natAbs_mul, Int.natAbs_pow, Int.natAbs_natCast]
  rfl

/-- Scaled by its own exponent, m × 2^e is the integer m. -/
theorem Dy.scale2_toQ (m : Nat) (e : Int) :
    0 < ((Dy.toQ ⟨m, e⟩).scale2 (-e)).d ∧
      ((Dy.toQ ⟨m, e⟩).scale2 (-e)).n.natAbs = m * ((Dy.toQ ⟨m, e⟩).scale2 (-e)).d := by
  rcases Int.lt_or_le e 0 with he | he
  · rw [Dy.toQ_of_neg _ he, Q.scale2, if_neg (by omega)]
    exact ⟨Nat.two_pow_pos _, natAbs_mul_two_pow m _⟩
  · rw [Dy.toQ_of_nonneg _ he, Q.scale2]
    by_cases h0 : e = 0
    · subst h0
      rw [if_neg (by decide)]
      exact ⟨Nat.one_pos, (congrArg Int.natAbs (Int.mul_one _)).trans (natAbs_mul_two_pow m 0)⟩
    · rw [if_pos (by omega), Int.neg_neg]
      exact ⟨Nat.mul_pos Nat.one_pos (Nat.two_pow_pos _), by rw [Nat.one_mul]; exact natAbs_mul_two_pow m _⟩

/-- A magnitude whose quantum is its own exponent rounds to the code of that exponent and its integer. -/
theorem FloatFmt.roundNear_toQ (f : FloatFmt) {m : Nat} {e : Int} (hm : m ≠ 0)
    (hq : max ((m.log2 : Int) + e - f.p) f.qmin = e) :
    f.roundNear (Dy.toQ ⟨m, e⟩) = (e - f.qmin).toNat * 2 ^ f.p + m := by
  have hquantum : f.quantum (Dy.toQ ⟨m, e⟩) = e := by rw [FloatFmt.quantum, Dy.log2_toQ e hm, hq]
  obtain ⟨hd, hn⟩ := Dy.scale2_toQ m e
  have hne : (Dy.toQ ⟨m, e⟩).n ≠ 0 := Int.ne_of_gt (Dy.toQ_pos e (Nat.pos_of_ne_zero hm))
  simp only [FloatFmt.roundNear, if_neg hne, hquantum]
  rw [hn, roundNat_mul_self m hd]

theorem FloatFmt.mag_of_subnormal (f : FloatFmt) {c : Nat} (h : c < 2 ^ f.p) : f.mag c = ⟨(c : Nat), f.qmin⟩ := by
  simp only [FloatFmt.mag, Nat.div_eq_of_lt h, Nat.mod_eq_of_lt h, if_true]

theorem FloatFmt.mag_of_normal (f : FloatFmt) {c k : Nat} (h : c / 2 ^ f.p = k + 1) :
    f.mag c = ⟨(c % 2 ^ f.p + 2 ^ f.p : Nat), f.qmin + k⟩ := by
  have hexp : f.qmin + ((k + 1 : Nat) : Int) - 1 = f.qmin + k := by omega
  have hm : ((c % 2 ^ f.p : Nat) : Int) + 2 ^ f.p = ((c % 2 ^ f.p + 2 ^ f.p : Nat) : Int) := by
    rw [Int.natCast_add, Int.natCast_pow]; rfl
  rw [FloatFmt.mag]
  simp only [h, if_neg (Nat.succ_ne_zero k)]
  rw [hexp, hm]

/-- The two kinds of magnitude code: below 2^p, and with an exponent field k + 1. -/
theorem FloatFmt.subnormal_or_normal (f : FloatFmt) (c : Nat) : c < 2 ^ f.p ∨ ∃ k, c / 2 ^ f.p = k + 1 := by
  rcases h : c / 2 ^ f.p with _ | k
  · exact .inl ((Nat.div_eq_zero_iff_lt (Nat.two_pow_pos f.p)).mp h)
  · exact .inr ⟨k, rfl⟩

/-- A decoded magnitude is a natural number of units, none of them below the smallest subnormal; it is 0 for code 0 alone. -/
theorem FloatFmt.mag_eq_nat (f : FloatFmt) (c : Nat) :
    ∃ (m : Nat) (e : Int), f.mag c = ⟨m, e⟩ ∧ f.qmin ≤ e ∧ (m = 0 ↔ c = 0) := by
  obtain hc | ⟨k, hk⟩ := f.subnormal_or_normal c
  · exact ⟨c, f.qmin, f.mag_of_subnormal hc, Int.le_refl _, Iff.rfl⟩
  · refine ⟨_, _, f.mag_of_normal hk, by omega, ?_⟩
    have hp : 0 < 2 ^ f.p := Nat.two_pow_pos f.p
    have hc : c ≠ 0 := by
      rintro rfl
      rw [Nat.zero_div] at hk
      exact absurd hk (Nat.succ_ne_zero k).symm
    exact iff_of_false (by omega) hc

/-- Every magnitude code but 0 has a positive value. -/
theorem FloatFmt.toQ_mag_pos (f : FloatFmt) {c : Nat} (hc : c ≠ 0) : 0 < (f.mag c).toQ.n := by
  obtain ⟨m, e, hmag, -, hzero⟩ := f.mag_eq_nat c
  rw [hmag]
  exact Dy.toQ_pos e (by omega)

/-- Rounding to nearest is exact on every magnitude code (R72, R74): a subnormal rounds at the smallest exponent, a normal
one, whose integer has p + 1 bits, at its own. -/
theorem FloatFmt.roundNear_mag (f : FloatFmt) (c : Nat) : f.roundNear (f.mag c).toQ = c := by
  obtain hc | ⟨k, hk⟩ := f.subnormal_or_normal c
  · rw [f.mag_of_subnormal hc]
    by_cases h0 : c = 0
    · subst h0
      exact if_pos (Dy.toQ_zero_n f.qmin)
    · have hlog : c.log2 < f.p := (Nat.log2_lt h0).mpr hc
      rw [f.roundNear_toQ h0 (by omega), Int.sub_self, Int.toNat_zero, Nat.zero_mul, Nat.zero_add]
  · have hmod : c % 2 ^ f.p < 2 ^ f.p := Nat.mod_lt _ (Nat.two_pow_pos f.p)
    have hlog : (c % 2 ^ f.p + 2 ^ f.p).log2 = f.p :=
      (Nat.log2_eq_iff (by omega)).mpr ⟨by omega, by rw [Nat.pow_succ]; omega⟩
    have hexp : (f.qmin + k - f.qmin).toNat = k := by omega
    rw [f.mag_of_normal hk, f.roundNear_toQ (by omega) (by rw [hlog]; omega), hexp]
    calc k * 2 ^ f.p + (c % 2 ^ f.p + 2 ^ f.p) = (k + 1) * 2 ^ f.p + c % 2 ^ f.p := by rw [Nat.succ_mul]; omega
      _ = c := by rw [← hk, Nat.div_add_mod']

/-- The denominator of a ratio of a W32 magnitude is at most 2^149, that of the smallest subnormal. -/
theorem w32_toQ_mag_d_le (c : Nat) : (fmtW32.mag c).toQ.d ≤ 2 ^ 149 := by
  obtain ⟨m, e, hmag, hmin, -⟩ := fmtW32.mag_eq_nat c
  have he149 : -149 ≤ e := hmin
  rw [hmag]
  rcases Int.lt_or_le e 0 with he | he
  · rw [Dy.toQ_of_neg _ he]
    exact Nat.pow_le_pow_right Nat.two_pos (by omega)
  · rw [Dy.toQ_of_nonneg _ he]
    exact Nat.two_pow_pos 149

/-- No magnitude code but 0 is flushed: its value is 2^−149 or more (R63, R557). -/
theorem w32_mag_not_flushed {c : Nat} (hc : c ≠ 0) : (fmtW32.mag c).toQ.lt ⟨1, 2 ^ 149⟩ = false := by
  have hn := fmtW32.toQ_mag_pos hc
  have hd := w32_toQ_mag_d_le c
  simp only [Q.lt, decide_eq_false_iff_not]
  omega

/-- The words whose value is finite: a sign bit and a magnitude code of a finite value (R45). -/
theorem w32Val_eq_fin {x : W32} {neg : Bool} {v : Dy} (h : w32Val x = .fin neg v) :
    ∃ c ≤ fmtW32.maxCode, x = BitVec.ofNat 32 (c + if neg then 2 ^ 31 else 0) ∧
      v = if neg then (fmtW32.mag c).neg else fmtW32.mag c := by
  have hx : x.toNat < 2 ^ 32 := x.isLt
  simp only [w32Val] at h
  split at h
  · cases h
  split at h
  · cases h
  injection h with hneg hv
  subst hneg
  refine ⟨x.toNat % 2 ^ 31, ?_, BitVec.eq_of_toNat_eq ?_, hv.symm⟩
  · simp only [fmtW32]; omega
  · simp only [BitVec.toNat_ofNat, decide_eq_true_eq]
    split <;> omega

/-- A ratio whose magnitude is that of a finite code rounds to the code with the ratio's sign (R557). -/
theorem roundQ_of_abs_eq_mag {q : Q} {c : Nat} (zneg : Bool) (hc : c ≤ fmtW32.maxCode) (h0 : q.n ≠ 0)
    (habs : q.abs = (fmtW32.mag c).toQ) : roundQ q zneg = BitVec.ofNat 32 (c + if q.isNeg then 2 ^ 31 else 0) := by
  have hc0 : c ≠ 0 := by
    rintro rfl
    have hn : q.abs.n = 0 := by rw [habs]; decide
    exact h0 (Int.natAbs_eq_zero.mp (Int.natCast_eq_zero.mp hn))
  simp only [roundQ, if_neg h0, habs, w32_mag_not_flushed hc0, Bool.false_eq_true, if_false, fmtW32.roundNear_mag,
    if_neg (Nat.not_lt.mpr hc)]

/-- A magnitude code of a finite value, given a sign, rounds to its own word (R557). -/
theorem roundDy_signed_mag {c : Nat} (hc : c ≤ fmtW32.maxCode) (neg : Bool) :
    roundDy (if neg then (fmtW32.mag c).neg else fmtW32.mag c) neg = BitVec.ofNat 32 (c + if neg then 2 ^ 31 else 0) := by
  by_cases h0 : c = 0
  · subst h0
    cases neg <;> decide
  · have hpos := fmtW32.toQ_mag_pos h0
    have habs : (fmtW32.mag c).toQ.abs = (fmtW32.mag c).toQ := Q.abs_of_nonneg (Int.le_of_lt hpos)
    cases neg with
    | false =>
      have hsign : (fmtW32.mag c).toQ.isNeg = false := decide_eq_false (by omega)
      have h := roundQ_of_abs_eq_mag false hc (Int.ne_of_gt hpos) habs
      rwa [hsign] at h
    | true =>
      have hsign : (fmtW32.mag c).toQ.neg.isNeg = true := decide_eq_true (Int.neg_neg_of_pos hpos)
      have h := roundQ_of_abs_eq_mag true hc (Int.neg_ne_zero.mpr (Int.ne_of_gt hpos))
        ((Q.abs_neg _).trans habs)
      rw [hsign, ← Dy.toQ_neg] at h
      exact h

end Sys2Proof.Machine

namespace Sys2Proof.Slice0
open Sys2Proof.Machine

/-- Settles O60, from the exactness of rounding on magnitude codes and on signed words. -/
theorem representableValuesRoundToThemselves : Obligations.RepresentableValuesRoundToThemselves := by
  refine ⟨fun f _ c _ => f.roundNear_mag c, fun x neg v h => ?_⟩
  obtain ⟨c, hc, rfl, rfl⟩ := w32Val_eq_fin h
  exact roundDy_signed_mag hc neg

end Sys2Proof.Slice0

/-! ### Products and conversions issue (R62, R91, R123, R124, R131, R135, R145, R166, R206) -/

namespace Sys2Proof.Machine

/-- An operation that may issue stands in its core's stream (R283). -/
theorem streamWord_of_canIssue {s : State} {l : Core} {idx : Nat} {w : BitVec 256} {op : Opcode}
    (h : canIssue s l idx w op = true) : streamWord s l idx = some w := by
  simp only [canIssue, mayIssue, Bool.and_eq_true, beq_iff_eq, and_assoc] at h
  obtain ⟨-, -, -, -, hword, -⟩ := h
  exact hword

section
variable {s : State} {op : Opcode} {l : Core} {idx : Nat} {w : BitVec 256} {b : ProdBlock} {ds : List SplitDesc}

/-- The meaning of FWD for an operation that may issue while Reed is free. -/
theorem execFwd_of_canIssue (hi : canIssue s l idx w .fwd = true) (hr : (coreOf s l).reed = none)
    (hds : loadSplits s l (prodBlock s l w) = .ok ds) :
    execFwd l idx s = .next (fwdIssue s l idx w (prodBlock s l w) ds) := by
  simp only [execFwd, streamWord_of_canIssue hi, hi, hr, hds, Bool.not_true, Option.isSome_none, Bool.or_self,
    Bool.false_eq_true, if_false]

/-- FWD with every P in order issues (R62, R91). -/
theorem fwdIssue_of_scales_ok (h : badScale b (fwdPlaces s l idx w b ds) = none) : fwdIssue s l idx w b ds =
    reedNext (productTraffic (issue s l idx w .fwd true) l idx .reed ds) l { idx := idx, word := w } 0 := by
  simp only [fwdIssue, h]

/-- FWD with a P that is not a finite normal value faults (R62). -/
theorem fwdIssue_of_bad_scale {x : Nat} (h : badScale b (fwdPlaces s l idx w b ds) = some x) :
    fwdIssue s l idx w b ds = opFault s l .reed idx 4 (descAddr s l x) eSCHED 0x10 := by
  simp only [fwdIssue, h]

/-- The meaning of an issue on Slate for an operation that may issue while Slate is free. -/
theorem slateIssue_of_canIssue (hi : canIssue s l idx w op = true) (hf : slateFree s l = true)
    (hds : loadSplits s l (prodBlock s l w) = .ok ds) :
    slateIssue op l idx s = slateBegin s op l idx w (prodBlock s l w) ds := by
  simp only [slateIssue, streamWord_of_canIssue hi, hi, hf, hds, Bool.not_true, Bool.or_self, Bool.false_eq_true, if_false]

/-- A backward product with a P that is not a finite normal value faults (R62). -/
theorem slateBegin_of_bad_scale {x : Nat} (h : badScale b (slateScales b ds) = some x) :
    slateBegin s op l idx w b ds = opFault s l .slate idx 4 (descAddr s l x) eSCHED 0x10 := by
  simp only [slateBegin, h]

/-- A backward product whose first split saves an output that holds no table faults (R131). -/
theorem slateBegin_of_bad_table {d : SplitDesc} {r : List SplitDesc} {v : Desc} (h : badScale b (slateScales b (d :: r)) = none)
    (hderiv : b.deriv = 7) (hv : d.saved = some v) (ht : tableOk s v.base = false) :
    slateBegin s op l idx w b (d :: r) = opFault s l .slate idx 0 v.base eSCHED 0x10 := by
  simp only [slateBegin, h, hderiv, if_true, List.head?_cons, Option.bind_some, hv, Option.map_some, Option.filter, ht,
    Bool.not_false]

/-- A backward product with every P in order, and its derivative table where it names one, issues (R123, R124). -/
theorem slateBegin_of_ok (h : badScale b (slateScales b ds) = none)
    (ht : b.deriv = 7 → ∀ d r v, ds = d :: r → d.saved = some v → tableOk s v.base = true) :
    slateBegin s op l idx w b ds =
      slateNext (productTraffic (issue s l idx w op true) l idx .slate ds) l { idx := idx, word := w } 0 := by
  have hnone : ((if b.deriv = 7 then (ds.head?.bind fun d => d.saved).map Desc.base else none).filter
      fun t => !tableOk s t) = none := by
    split
    case isTrue hderiv =>
      match ds, ht hderiv with
      | [], _ => rfl
      | d :: r, ht =>
        cases hv : d.saved with
        | none => simp only [List.head?_cons, Option.bind_some, hv, Option.map_none, Option.filter_none]
        | some v =>
          simp only [List.head?_cons, Option.bind_some, hv, Option.map_some, Option.filter, ht d r v rfl hv, Bool.not_true,
            Bool.false_eq_true, if_false]
    case isFalse => rfl
  simp only [slateBegin, h, hnone]

end

/-! ### CONVERT -/

/-- The state in which the destination of a conversion is looked up: issued, the sampled rows captured, and for a weight
copy its version slot marked (R172, R206). -/
def convertIssued (s : State) (l : Core) (idx : Nat) (w : BitVec 256) (c : ConvSpec) : State :=
  startFilling (captureRows (issue s l idx w .convert true) l idx c) c

/-- The state in which a conversion to `d` runs: its requests made, and the key of its draws counted (R220, R303). -/
def convertAsked (v : State) (l : Core) (idx : Nat) (d : ConvSpec) : State :=
  let t := traffic v l idx .eaves (d.src :: d.mask.toList) (d.dst :: (d.list.toList ++ d.wide.toList))
  if d.stoch then countKey t else t

/-- How a conversion whose operands are in order ends its issue: on the ladder where it serves a layer of it with a tracker
and a scaled format, else as it stands. -/
def convertEnd (u : State) (l : Core) (idx : Nat) (e : Option Nat) (w : BitVec 256) (d : ConvSpec) :
    Except (DescErr × Nat) State :=
  match ladderOf u l idx d, trackerAt u d.cluster d.tracker with
  | some (layer, mb), some y =>
    if d.dst.fmt.isScaled then .ok (convertLadder u l idx e w d y layer mb) else .ok (convertPlain u l idx e d)
  | _, _ => .ok (convertPlain u l idx e d)

section
variable {u : State} {l : Core} {idx : Nat} {e : Option Nat} {w : BitVec 256} {d : ConvSpec}

theorem convertEnd_of_ladder {layer mb : Nat} {y : Tracker} (hl : ladderOf u l idx d = some (layer, mb))
    (hy : trackerAt u d.cluster d.tracker = some y) (hs : d.dst.fmt.isScaled = true) :
    convertEnd u l idx e w d = .ok (convertLadder u l idx e w d y layer mb) := by
  simp only [convertEnd, hl, hy, hs, if_true]

theorem convertEnd_of_plain
    (h : ladderOf u l idx d = none ∨ trackerAt u d.cluster d.tracker = none ∨ d.dst.fmt.isScaled = false) :
    convertEnd u l idx e w d = .ok (convertPlain u l idx e d) := by
  unfold convertEnd
  split
  case h_1 hl hy =>
    obtain hl' | hy' | hs := h
    · exact absurd (hl'.symm.trans hl) nofun
    · exact absurd (hy'.symm.trans hy) nofun
    · simp only [hs, Bool.false_eq_true, if_false]
  case h_2 => rfl

end

/-- The meaning of CONVERT for an operation that may issue, whose operands are in order and whose scaled destination has
its tracker. -/
theorem execConvert_of_canIssue {s : State} {l : Core} {idx : Nat} {w : BitVec 256} {c : ConvSpec} (e : Option Nat)
    (hi : canIssue s l idx w .convert = true) (hc : convSpec s l idx w = .ok c)
    (ht : c.dst.fmt.isScaled = true → (trackerAt s c.cluster c.tracker).isSome = true) :
    execConvert ⟨l, e⟩ idx s =
      let v := convertIssued s l idx w c
      let d := weightDest v l (opArg w 1) c
      .next (orFault s l .eaves idx (convertEnd (convertAsked v l idx d) l idx e w d)) := by
  have hguard : (c.dst.fmt.isScaled && (trackerAt s c.cluster c.tracker).isNone) = false := by
    cases hs : c.dst.fmt.isScaled
    · rfl
    · rw [Bool.true_and, ← Option.not_isSome, ht hs]
      rfl
  simp only [execConvert, streamWord_of_canIssue hi, hi, hc, bind, Except.bind, hguard]
  rfl

end Sys2Proof.Machine

namespace Sys2Proof.Slice0
open Sys2Proof.Machine

theorem productOperationsIssueOnTheirArrays : ProductOperationsIssueOnTheirArrays := by
  intro s l idx w
  refine ⟨fun ds hds => ⟨fun hi hr => ⟨fun h => ?_, fun x h => ?_⟩, fun hf op c hop hi => ?_⟩,
    fun out uses e hops hf hi => ?_⟩
  · exact (execFwd_of_canIssue hi hr hds).trans (by rw [fwdIssue_of_scales_ok h])
  · exact (execFwd_of_canIssue hi hr hds).trans (by rw [fwdIssue_of_bad_scale h])
  · have hexec : exec c s = .next (slateBegin s op l idx w (prodBlock s l w) ds) := by
      rw [← slateIssue_of_canIssue hi hf hds]
      obtain ⟨rfl, rfl⟩ | ⟨rfl, rfl⟩ := hop <;> rfl
    rw [hexec]
    refine ⟨fun h ht => ?_, fun x h => ?_, ?_⟩
    · rw [slateBegin_of_ok h ht]
    · rw [slateBegin_of_bad_scale h]
    · rintro d r v h hderiv rfl hv ht
      rw [slateBegin_of_bad_table h hderiv hv ht]
  · show execTiedsum ⟨l, e⟩ idx s = _
    simp only [execTiedsum, streamWord_of_canIssue hi, hi, hf, hops, orFault, bind, Except.bind, Bool.not_true, Bool.or_self,
      Bool.false_eq_true, if_false]

theorem conversionsIssueOnTheirCluster : ConversionsIssueOnTheirCluster := by
  intro s l idx w e c hi hc ht v d t u
  have hexec : exec (.convert ⟨l, e⟩ idx) s = .next (orFault s l .eaves idx (convertEnd u l idx e w d)) :=
    execConvert_of_canIssue e hi hc ht
  refine ⟨fun layer mb y hl hy hs => ?_, fun h => ?_⟩
  · rw [hexec, convertEnd_of_ladder hl hy hs]
    rfl
  · rw [hexec, convertEnd_of_plain h]
    rfl

/-- Settles O14, from the meaning of each product's and of a conversion's issue when its conditions hold. -/
theorem productsAndConversionsIssue : Obligations.ProductsAndConversionsIssue :=
  ⟨productOperationsIssueOnTheirArrays, conversionsIssueOnTheirCluster⟩

end Sys2Proof.Slice0

/-! ### One fabric clock (R27, R126, R304, R318, R363, R455) -/

namespace Sys2Proof.Machine

/-- What an arithmetic clock may change of a core: its Slate feed while that waits for staged rows (R126), and its own clock, which
stops only with nothing in flight (R318). -/
structure CoreClocked (c d : CoreState) : Prop where
  rest : d = { c with slate := d.slate, clockOn := d.clockOn }
  stopped : c.clockOn = false → d.clockOn = false
  busy : c.flight ≠ [] → d.clockOn = c.clockOn
  fed : (∀ r, c.slate = some r → r.waiting = false) → d.slate = c.slate

theorem CoreClocked.refl (c : CoreState) : CoreClocked c c := ⟨rfl, id, fun _ => rfl, fun _ => rfl⟩

theorem CoreClocked.trans {c d e : CoreState} (h : CoreClocked c d) (k : CoreClocked d e) : CoreClocked c e where
  rest := k.rest.trans (congrArg (fun x : CoreState => { x with slate := e.slate, clockOn := e.clockOn }) h.rest)
  stopped := k.stopped ∘ h.stopped
  busy hf := by
    have hd : d.flight = c.flight := by rw [h.rest]
    rw [k.busy (hd ▸ hf), h.busy hf]
  fed hw := by
    have hd := h.fed hw
    rw [k.fed (hd ▸ hw), hd]

/-- What an arithmetic clock may change: of each core what `CoreClocked` says, and the counters SLOT_FULL_AC and
SLATE_GUTTER_WAIT. -/
structure Clocked (s t : State) : Prop where
  rest : t = { s with regs := t.regs, cores := t.cores }
  core : ∀ l : Core, CoreClocked (coreOf s l) (coreOf t l)
  reg : ∀ k, (∀ l : Core, k ≠ Obj.slotFullAc + l.val ∧ k ≠ Obj.slateGutterWait + l.val) → reg t k = reg s k

theorem Clocked.refl (s : State) : Clocked s s := ⟨rfl, fun l => .refl (coreOf s l), fun _ _ => rfl⟩

theorem Clocked.trans {s t u : State} (h : Clocked s t) (k : Clocked t u) : Clocked s u where
  rest := k.rest.trans (congrArg (fun x : State => { x with regs := u.regs, cores := u.cores }) h.rest)
  core l := (h.core l).trans (k.core l)
  reg x hx := (k.reg x hx).trans (h.reg x hx)

theorem clocked_modCore {s : State} {l : Core} {f : CoreState → CoreState} (h : CoreClocked (coreOf s l) (f (coreOf s l))) :
    Clocked s (modCore s l f) where
  rest := rfl
  core c := by
    by_cases hc : c = l
    · rw [hc, coreOf_modCore_self]
      exact h
    · rw [coreOf_modCore_other s f hc]
      exact .refl (coreOf s c)
  reg _ _ := rfl

theorem clocked_bump {s : State} {l : Core} {x n : Nat} (h : x = Obj.slotFullAc + l.val ∨ x = Obj.slateGutterWait + l.val) :
    Clocked s (bump s x n) where
  rest := rfl
  core c := .refl (coreOf s c)
  reg _ hk := reg_bump_other s n (h.elim (fun hx => hx ▸ (hk l).1) fun hx => hx ▸ (hk l).2)

/-- A staged feed goes on or is counted as held; no other feed changes (R126). -/
theorem feedStaged_clocked (s : State) (l : Core) : Clocked s (feedStaged s l) := by
  unfold feedStaged
  split
  case h_1 r hr =>
    split
    case isTrue => exact .refl s
    case isFalse hw =>
      split
      case isTrue => exact clocked_modCore ⟨rfl, id, fun _ => rfl, fun h => absurd (by rw [h r hr]; rfl) hw⟩
      case isFalse => exact clocked_bump (.inr rfl)
  case h_2 => exact .refl s

/-- A core stops its clock only with nothing in flight (R318). -/
theorem restCore_clocked (s : State) (l : Core) : Clocked s (restCore s l) := by
  unfold restCore
  dsimp only
  split
  case isTrue h =>
    simp only [Bool.and_eq_true, List.isEmpty_iff] at h
    obtain ⟨⟨-, hflight⟩, -⟩ := h
    exact clocked_modCore ⟨rfl, fun _ => rfl, fun hf => absurd hflight hf, fun _ => rfl⟩
  case isFalse => exact .refl s

theorem coreWaits_clocked (s : State) (l : Core) : Clocked s (coreWaits s l) := by
  refine .trans ?_ ((feedStaged_clocked _ l).trans (restCore_clocked _ l))
  unfold bumpIf
  split
  case isTrue => exact clocked_bump (.inl rfl)
  case isFalse => exact .refl s

/-- An arithmetic clock of all cores. -/
theorem allCores_coreWaits_clocked (s : State) : Clocked s (allCores.foldl coreWaits s) :=
  List.foldlRecOn allCores coreWaits (motive := Clocked s) (.refl s) fun t h l _ => h.trans (coreWaits_clocked t l)

/-- The port's service changes the port alone (R363). -/
theorem transmit_eq (s : State) : transmit s = { s with egress := (transmit s).egress } := by
  unfold transmit
  split
  case isTrue => rfl
  case isFalse => split <;> rfl

@[simp] theorem transmit_clk (s : State) : (transmit s).clk = s.clk := by rw [transmit_eq s]
@[simp] theorem transmit_regs (s : State) : (transmit s).regs = s.regs := by rw [transmit_eq s]
@[simp] theorem transmit_cores (s : State) : (transmit s).cores = s.cores := by rw [transmit_eq s]
@[simp] theorem transmit_reg (s : State) (k : Nat) : reg (transmit s) k = reg s k := by
  rw [transmit_eq s]
  rfl
@[simp] theorem transmit_coreOf (s : State) (l : Core) : coreOf (transmit s) l = coreOf s l := by
  rw [transmit_eq s]
  rfl

/-- Powered time counts in every state but OFF, ASLEEP and MAINT (R455). -/
theorem countsPowered_iff (s : State) : countsPowered s = true ↔ ¬ (s.dev = .off ∨ s.dev = .asleep ∨ s.dev = .maint) := by
  simp only [countsPowered, Bool.and_eq_true, bne_iff_ne, not_or, and_assoc]

/-- Time outside U counts in FAULTED, and in RECOVERING after a fault of the module's own (R455). -/
theorem countsUnavail_iff (s : State) :
    countsUnavail s = true ↔ s.dev = .faulted ∨ (s.dev = .recovering ∧ s.power.ownFault = true) := by
  simp only [countsUnavail, Bool.or_eq_true, Bool.and_eq_true, beq_iff_eq]

/-- The first of the two fabric clocks of an arithmetic clock: no core sees it (R27). -/
theorem tick_of_even {s : State} (h : s.clk % 2 = 0) : tick s = transmit (countClock s) := by
  have hclk : (transmit (countClock s)).clk = s.clk + 1 := transmit_clk (countClock s)
  rw [tick, hclk]
  exact if_neg (by omega)

/-- After the counters and the port, a fabric clock changes what an arithmetic clock may change. -/
theorem tick_clocked (s : State) : Clocked (transmit (countClock s)) (tick s) := by
  unfold tick
  dsimp only
  split
  case isTrue => exact allCores_coreWaits_clocked _
  case isFalse => exact .refl _

/-- A fabric clock: the time counters, and then registers, cores and the port. -/
theorem tick_eq (s : State) : tick s =
    { countClock s with regs := (tick s).regs, cores := (tick s).cores, egress := (tick s).egress } := by
  have hport : (tick s).egress = (transmit (countClock s)).egress := by rw [(tick_clocked s).rest]
  rw [hport]
  exact (tick_clocked s).rest.trans
    (congrArg (fun x : State => { x with regs := (tick s).regs, cores := (tick s).cores }) (transmit_eq (countClock s)))

end Sys2Proof.Machine

namespace Sys2Proof.Slice0
open Sys2Proof.Machine

/-- Settles O3: the time counters, then the port, then on every second clock the cores. -/
theorem idleStepIsOneFabricClock : Obligations.IdleStepIsOneFabricClock := by
  intro s hs
  have hstep : step s = .next (tick s) := by rw [step, hs]
  have hclk : (tick s).clk = s.clk + 1 := by rw [tick_eq s]; rfl
  have hpower : (tick s).power = (countClock s).power := by rw [tick_eq s]
  refine ⟨tick s, hstep, hclk, ?_, ?_, ?_, fun h => ?_, fun l => ?_, fun k hk => ?_⟩
  · rw [hpower]
    simp only [countClock, countsPowered_iff, ite_not]
  · rw [hpower]
    simp only [countClock, countsUnavail_iff]
  · rw [hclk, hpower]
    exact tick_eq s
  · rw [tick_of_even h]
    exact ⟨transmit_regs (countClock s), transmit_cores (countClock s)⟩
  · obtain ⟨hrest, hstopped, hbusy, hfed⟩ : CoreClocked (coreOf s l) (coreOf (tick s) l) :=
      transmit_coreOf (countClock s) l ▸ (tick_clocked s).core l
    exact ⟨hrest, hstopped, hbusy, hfed⟩
  · exact ((tick_clocked s).reg k hk).trans (transmit_reg (countClock s) k)

end Sys2Proof.Slice0

/-! ### Refetched prefetches and published rows (R126, R304, R309, R312) -/

namespace Sys2Proof.Machine

/-! #### What a write leaves: registers, and the guards that it does not hit -/

/-- The size of an element's value is that of its object (R484). -/
theorem keySize_add_elem {k i : Nat} (h : k % 2 ^ 32 + i < 2 ^ 32) : keySize (k + i) = keySize k := by
  have hidx : keyIdx (k + i) = keyIdx k := by simp only [keyIdx]; omega
  have hsub : keySub (k + i) = keySub k := by simp only [keySub]; omega
  simp only [keySize, hidx, hsub]

theorem keySize_prefetchRefetch (l : Core) : keySize (Obj.prefetchRefetch + l.val) = 4 := by
  rw [keySize_add_elem (by have := l.isLt; simp only [Obj.prefetchRefetch]; omega)]
  decide

/-- A write's bookkeeping of granules writes MEM_LOST alone among the registers (R344, R349). -/
theorem reg_freshSpan_other (s : State) (a n : Nat) {k : Nat} (h : k ≠ Obj.memLost) : reg (freshSpan s a n) k = reg s k := by
  have hgranule (t : State) (a n g : Nat) : reg (freshGranule t a n g) k = reg t k := reg_setReg_other _ _ h
  unfold freshSpan
  split
  case isTrue =>
    refine List.foldlRecOn _ _ (motive := fun t => reg t k = reg s k) rfl fun t ht g _ => ?_
    dsimp only
    split
    case isTrue => rw [hgranule, hgranule, ht]
    case isFalse => rw [hgranule, ht]
  case isFalse => rfl

@[simp] theorem freshSpan_coreOf (s : State) (a n : Nat) (l : Core) : coreOf (freshSpan s a n) l = coreOf s l := by
  have hgranule (t : State) (a n g : Nat) : coreOf (freshGranule t a n g) l = coreOf t l := rfl
  unfold freshSpan
  split
  case isTrue =>
    refine List.foldlRecOn _ _ (motive := fun t => coreOf t l = coreOf s l) rfl fun t ht g _ => ?_
    dsimp only
    split
    case isTrue => rw [hgranule, hgranule, ht]
    case isFalse => rw [hgranule, ht]
  case isFalse => rfl

/-- A guard that a write does not hit stands as it did (R312). -/
theorem markStale_of_disjoint {a n : Nat} {g : Guard} (h : overlaps a n g.base g.len = false) : markStale a n g = g := by
  simp only [markStale, h, Bool.false_eq_true, if_false]

/-- STALE is all that a write changes of a guard (R312). -/
theorem markStale_span (a n : Nat) (g : Guard) : (markStale a n g).base = g.base ∧ (markStale a n g).len = g.len := by
  unfold markStale
  split <;> exact ⟨rfl, rfl⟩

/-- What the comparators change when they see a write of n bytes at a (R309, R312): registers but CACHE_INVAL and STALE stand, and
no guard outside the bytes written appears or changes. -/
structure Noticed (a n : Nat) (s t : State) : Prop where
  reg : ∀ k, (∀ l : Core, k ≠ Obj.cacheInval + l.val ∧ k ≠ Obj.stale + l.val) → reg t k = reg s k
  guards : ∀ l : Core, ∀ x ∈ (coreOf t l).guards, overlaps a n x.base x.len = false → x ∈ (coreOf s l).guards

theorem Noticed.refl (a n : Nat) (s : State) : Noticed a n s s := ⟨fun _ _ => rfl, fun _ _ hx _ => hx⟩

theorem Noticed.trans {a n : Nat} {s t u : State} (h : Noticed a n s t) (k : Noticed a n t u) : Noticed a n s u where
  reg x hx := (k.reg x hx).trans (h.reg x hx)
  guards l x hx hd := h.guards l x (k.guards l x hx hd) hd

/-- One core's comparators drop its cached lines (R309). -/
theorem noticed_dropLines (a n : Nat) (s : State) (l : Core) :
    Noticed a n s (bump (modCore s l fun c => { c with lines := [] }) (Obj.cacheInval + l.val) 1) where
  reg k hk := reg_bump_other (modCore s l _) 1 (hk l).1
  guards c x hx _ := by
    rw [bump_coreOf] at hx
    by_cases hc : c = l
    · subst hc
      rwa [coreOf_modCore_self] at hx
    · rwa [coreOf_modCore_other s _ hc] at hx

/-- One core's comparators mark its guards (R312). -/
theorem noticed_markStale (a n : Nat) (s : State) (l : Core) (m : Nat) :
    Noticed a n s (bump (modCore s l fun c => { c with guards := c.guards.map (markStale a n) }) (Obj.stale + l.val) m) where
  reg k hk := reg_bump_other (modCore s l _) m (hk l).2
  guards c x hx hd := by
    rw [bump_coreOf] at hx
    by_cases hc : c = l
    · subst hc
      rw [coreOf_modCore_self] at hx
      obtain ⟨y, hy, rfl⟩ := List.mem_map.mp hx
      obtain ⟨hbase, hlen⟩ := markStale_span a n y
      rw [hbase, hlen] at hd
      rwa [markStale_of_disjoint hd]
    · rwa [coreOf_modCore_other s _ hc] at hx

theorem noticeCore_noticed (a n : Nat) (s : State) (l : Core) : Noticed a n s (noticeCore a n s l) := by
  unfold noticeCore
  dsimp only
  have hlines : Noticed a n s (if (coreOf s l).windows.any fun w => overlaps a n w.1 w.2 then
      bump (modCore s l fun c => { c with lines := [] }) (Obj.cacheInval + l.val) 1 else s) := by
    split
    case isTrue => exact noticed_dropLines a n s l
    case isFalse => exact .refl a n s
  split
  case isTrue => exact hlines
  case isFalse => exact hlines.trans (noticed_markStale a n _ l _)

theorem notice_noticed (s : State) (a n : Nat) : Noticed a n s (notice s a n) := by
  unfold notice
  split
  case isTrue => exact .refl a n s
  case isFalse =>
    exact List.foldlRecOn _ _ (motive := Noticed a n s) (.refl a n s) fun t ht l _ => ht.trans (noticeCore_noticed a n t l)

/-- A write leaves every register but MEM_LOST and the comparators' counters (R309, R312, R344). -/
theorem reg_writeBytes_other (s : State) (a : Nat) (b : List Byte) {k : Nat} (hm : k ≠ Obj.memLost)
    (hk : ∀ l : Core, k ≠ Obj.cacheInval + l.val ∧ k ≠ Obj.stale + l.val) : reg (writeBytes s a b) k = reg s k := by
  unfold writeBytes
  split
  case isTrue => rfl
  case isFalse => exact ((notice_noticed _ a b.length).reg k hk).trans (reg_freshSpan_other _ a b.length hm)

/-- A guard that a write does not hit stood before the write as it stands after it (R312). -/
theorem mem_guards_of_mem_writeBytes {s : State} {a : Nat} {b : List Byte} {l : Core} {x : Guard}
    (hx : x ∈ (coreOf (writeBytes s a b) l).guards) (hd : overlaps a b.length x.base x.len = false) : x ∈ (coreOf s l).guards := by
  unfold writeBytes at hx
  split at hx
  case isTrue => exact hx
  case isFalse =>
    have hmem := (notice_noticed _ a b.length).guards l x hx hd
    rwa [freshSpan_coreOf] at hmem

/-! #### What a unit's requests leave (R303 to R305) -/

/-- What requests handed to a core's allocator leave: memory, the core's guards, and every register but its HOTSPOT. -/
structure Asked (l : Core) (s t : State) : Prop where
  mem : t.mem = s.mem
  guards : (coreOf t l).guards = (coreOf s l).guards
  reg : ∀ k, k ≠ Obj.hotspot + l.val → reg t k = reg s k

theorem Asked.refl (l : Core) (s : State) : Asked l s s := ⟨rfl, rfl, fun _ _ => rfl⟩

theorem Asked.trans {l : Core} {s t u : State} (h : Asked l s t) (k : Asked l t u) : Asked l s u :=
  ⟨k.mem.trans h.mem, k.guards.trans h.guards, fun x hx => (k.reg x hx).trans (h.reg x hx)⟩

theorem asked_modCore {s : State} {l : Core} {f : CoreState → CoreState} (h : ∀ c, (f c).guards = c.guards) :
    Asked l s (modCore s l f) :=
  ⟨rfl, by rw [coreOf_modCore_self, h], fun _ _ => rfl⟩

theorem asked_bump (s : State) (l : Core) (n : Nat) : Asked l s (bump s (Obj.hotspot + l.val) n) :=
  ⟨rfl, rfl, fun _ hk => reg_bump_other s n hk⟩

theorem countHeld_asked (s : State) (l : Core) : Asked l s (countHeld s l) := by
  refine List.foldlRecOn _ _ (motive := Asked l s) (.refl l s) fun t ht u _ => ?_
  dsimp only
  split
  case h_1 =>
    split
    case isTrue => exact ht
    case isFalse =>
      refine (ht.trans ?_).trans (asked_bump _ l 1)
      exact asked_modCore fun _ => rfl
  case h_2 => exact ht

theorem grant_asked (l : Core) (n : Nat) (s : State) : Asked l s (grant l n s) := by
  induction n generalizing s with
  | zero => exact .refl l s
  | succ n ih =>
    have hheld := countHeld_asked s l
    unfold grant
    dsimp only
    split
    case isTrue => exact hheld
    case isFalse =>
      split
      case h_1 => exact hheld
      case h_2 =>
        refine (hheld.trans ?_).trans (ih _)
        exact asked_modCore fun _ => rfl

theorem askRuns_asked (s : State) (l : Core) (idx : Nat) (q : Queue) (write : Bool) (runs : List (Nat × Nat)) :
    Asked l s (askRuns s l idx q write runs) := by
  refine .trans ?_ (grant_asked l _ _)
  exact asked_modCore fun _ => rfl

/-! #### Bytes read, and bytes stored -/

theorem length_readBytes (s : State) (a n : Nat) : (readBytes s a n).length = n := by
  induction n generalizing a with
  | zero => rfl
  | succ n ih => exact congrArg (· + 1) (ih (a + 1))

theorem readByte_modCore (s : State) (l : Core) (f : CoreState → CoreState) (a : Nat) :
    readByte (modCore s l f) a = readByte s a := by
  simp only [readByte, statusByte, modCore_reg, modCore_ras, modCore_mem]

theorem readBytes_modCore (s : State) (l : Core) (f : CoreState → CoreState) (a n : Nat) :
    readBytes (modCore s l f) a n = readBytes s a n := by
  induction n generalizing a with
  | zero => rfl
  | succ n ih => simp only [readBytes, readByte_modCore, ih]

/-- A write of a span that no mirrored range meets stores its bytes and no others (R343). -/
theorem stored_writeBytes {s : State} {a : Nat} {b : List Byte} (h : s.MemOk) (hm : spanMirrored s a b.length = false) :
    Slice0.Stored s (writeBytes s a b) a b :=
  ⟨fun i hi => memGet_writeBytes_inside s a i b h hm hi, fun x hx => memGet_writeBytes_outside s a x b h hm (by omega)⟩

/-- What does not meet a span does not meet its beginning. -/
theorem overlaps_eq_false_of_le {a n k b m : Nat} (h : overlaps a n b m = false) (hk : k ≤ n) : overlaps a k b m = false := by
  simp only [overlaps, decide_eq_false_iff_not] at h ⊢
  omega

/-! #### PREFETCH_REFETCH (R312) -/

/-- STALE of one guard cleared. -/
def clearStale (s : State) (l : Core) (g : Guard) : State :=
  modCore s l fun c => { c with guards := c.guards.map fun x => if x == g then { x with stale := none } else x }

/-- Of the guards after one is cleared, each is fresh or is another one that stood before. -/
theorem mem_guards_clearStale {s : State} {l : Core} {g x : Guard} (h : x ∈ (coreOf (clearStale s l g) l).guards) :
    x.stale = none ∨ x ∈ (coreOf s l).guards ∧ x ≠ g := by
  rw [clearStale, coreOf_modCore_self] at h
  obtain ⟨y, hy, rfl⟩ := List.mem_map.mp h
  split
  case isTrue => exact .inl rfl
  case isFalse hne => exact .inr ⟨hy, fun he => hne (beq_iff_eq.mpr he)⟩

/-- A prefetch of a region read again: the guard cleared, the bytes stored, the refetch counted and its requests made. -/
theorem refetch_of_regions {s : State} {l : Core} {g : Guard} {w : BitVec 256} {src dst : Desc}
    (hs : operand s l (opArg w 0) = .ok (some src)) (hd : operand s l (opArg w 1) = .ok (some dst)) (hsk : src.kind = 1)
    (hdk : dst.kind = 1) : refetch s l g w =
      askRuns (bump (writeBytes (clearStale s l g) dst.base ((readBytes s src.base src.dim0).take dst.dim0))
        (Obj.prefetchRefetch + l.val) 1) l g.op .prefetch false (dataRuns src) := by
  simp only [refetch, hs, hd, putRowBytes, rowBytesOf, hsk, hdk, if_true, readBytes_modCore]
  rfl

section
variable {s : State} {l : Core} {idx : Nat} {w : BitVec 256} {g : Guard}
  (hw : streamWord s l idx = some w)
  (hg : (coreOf s l).guards.find? (fun x => x.consumer == idx && x.stale.isSome) = some g)
  (hexec : executing s = true) (hhalt : (coreOf s l).halted = false) (hissued : issuedAt (coreOf s l) idx = false)
  (hlo : (coreOf s l).base ≤ idx) (hhi : idx < (coreOf s l).base + 32) (htok : ∀ k ∈ opWaits w, tokenSet (coreOf s l) k = true)
include hw hg hexec hhalt hissued hlo hhi htok

/-- In strict mode the consumer faults at the address of the first stale write. -/
theorem execPrefetchRefetch_of_strict (e : Option Nat) (hstrict : reg s Obj.prefetchStrict = 1) :
    execPrefetchRefetch l idx e s =
      .next (opFault s l (((opcodeOf w).map Opcode.queue).getD .sched) idx 0 (g.stale.getD 0) eSCHED 0x10) := by
  have hall : (opWaits w).all (tokenSet (coreOf s l)) = true := List.all_eq_true.mpr htok
  simp only [execPrefetchRefetch, hw, hg, hexec, hhalt, hissued, Nat.not_lt.mpr hlo, Nat.not_le.mpr hhi, hall, hstrict,
    decide_false, Bool.not_true, Bool.or_self, Bool.false_eq_true, if_false, if_true]
  cases opcodeOf w <;> rfl

/-- Otherwise the prefetch's range is read again. -/
theorem execPrefetchRefetch_of_refetch {v : BitVec 256} (e : Option Nat) (hstrict : reg s Obj.prefetchStrict ≠ 1)
    (hv : streamWord s l g.op = some v) :
    execPrefetchRefetch l idx e s = .next (projectEnd (refetch s l g v) l e) := by
  have hall : (opWaits w).all (tokenSet (coreOf s l)) = true := List.all_eq_true.mpr htok
  simp only [execPrefetchRefetch, hw, hg, hexec, hhalt, hissued, Nat.not_lt.mpr hlo, Nat.not_le.mpr hhi, hall, hstrict,
    hv, decide_false, Bool.not_true, Bool.or_self, Bool.false_eq_true, if_false]

end

/-- What a region read again leaves (R312): its bytes, the count, and no stale guard of its prefetch. -/
theorem refetch_spec {s : State} {l : Core} {g : Guard} {w : BitVec 256} {src dst : Desc}
    (hs : operand s l (opArg w 0) = .ok (some src)) (hd : operand s l (opArg w 1) = .ok (some dst)) (hsk : src.kind = 1)
    (hdk : dst.kind = 1) (hmem : s.MemOk) (hmirror : spanMirrored s dst.base (min dst.dim0 src.dim0) = false)
    (hdisj : overlaps dst.base dst.dim0 g.base g.len = false) :
    Slice0.Stored s (refetch s l g w) dst.base ((readBytes s src.base src.dim0).take dst.dim0) ∧
    reg (refetch s l g w) (Obj.prefetchRefetch + l.val) = (reg s (Obj.prefetchRefetch + l.val) + 1) % 2 ^ 32 ∧
    ∀ x ∈ (coreOf (refetch s l g w) l).guards, x.base = g.base → x.len = g.len →
      x.stale = none ∨ x ∈ (coreOf s l).guards ∧ x ≠ g := by
  have hlen : ((readBytes s src.base src.dim0).take dst.dim0).length = min dst.dim0 src.dim0 := by
    rw [List.length_take, length_readBytes]
  rw [refetch_of_regions hs hd hsk hdk]
  generalize (readBytes s src.base src.dim0).take dst.dim0 = b at hlen ⊢
  rw [← hlen] at hmirror
  obtain ⟨haskMem, haskGuards, haskReg⟩ := askRuns_asked
    (bump (writeBytes (clearStale s l g) dst.base b) (Obj.prefetchRefetch + l.val) 1) l g.op .prefetch false (dataRuns src)
  have hl := l.isLt
  refine ⟨?_, ?_, fun x hx hbase hxlen => ?_⟩
  · have hstored : Slice0.Stored s (writeBytes (clearStale s l g) dst.base b) dst.base b :=
      stored_writeBytes (s := clearStale s l g) hmem hmirror
    unfold Slice0.Stored
    rw [haskMem]
    exact hstored
  · rw [haskReg _ (by simp only [Obj.hotspot, Obj.prefetchRefetch]; omega), reg_bump_self, keySize_prefetchRefetch,
      reg_writeBytes_other _ _ _ (by simp only [Obj.memLost, Obj.prefetchRefetch]; omega)
        fun c => by have := c.isLt; simp only [Obj.cacheInval, Obj.stale, Obj.prefetchRefetch]; omega]
    rfl
  · rw [haskGuards, bump_coreOf] at hx
    refine mem_guards_clearStale (mem_guards_of_mem_writeBytes hx ?_)
    rw [hbase, hxlen]
    exact overlaps_eq_false_of_le hdisj (hlen ▸ Nat.min_le_left _ _)

/-! #### COPY_ROW_PUBLISH (R126) -/

/-- The rows that a transposing copy has published into a staging region. -/
def rowsPublished (s : State) (l : Core) (a : Nat) : Nat := (((coreOf s l).published.find? fun p => p.1 == a).map Prod.snd).getD 0

/-- The count of a staging region's published rows set. -/
def publishRows (s : State) (l : Core) (a n : Nat) : State :=
  modCore s l fun c => { c with published := (a, n) :: (c.published.filter fun p => p.1 != a) }

/-- A copy's next row published, and with its last row its results produced. -/
def publishNext (s : State) (l : Core) (idx a total : Nat) : State :=
  let t := publishRows s l a (rowsPublished s l a + 1)
  if rowsPublished s l a + 1 ≥ total then markDone t l idx else t

theorem publishNext_slate (s : State) (l : Core) (idx a total : Nat) :
    (coreOf (publishNext s l idx a total) l).slate = (coreOf s l).slate := by
  unfold publishNext
  dsimp only
  split
  case isTrue => simp only [markDone, modFlight, publishRows, coreOf_modCore_self]
  case isFalse => simp only [publishRows, coreOf_modCore_self]

/-- COPY_ROW_PUBLISH of a copy in flight: its next row is published, and a held Slate feed goes on with it. -/
theorem execCopyRowPublish_of_inFlight {s : State} {l : Core} {idx : Nat} {f : Flight} {src dst : Desc} (e : Option Nat)
    (hf : (coreOf s l).flight.find? (fun x => x.idx == idx && opcodeOf x.word == some .copy && !x.done) = some f)
    (hs : operand s l (opArg f.word 0) = .ok (some src)) (hd : operand s l (opArg f.word 1) = .ok (some dst)) :
    let t := publishNext s l idx dst.base (src.dim0 * src.dim2 * src.dim3)
    execCopyRowPublish ⟨l, e⟩ idx s = .next (match (coreOf s l).slate with
      | some r => if r.waiting then projectEnd (slateNext t l r r.tile) l e else t
      | none => t) := by
  intro t
  have hslate : (coreOf t l).slate = (coreOf s l).slate := publishNext_slate s l idx dst.base _
  rw [← hslate]
  simp only [execCopyRowPublish, hf, hs, hd]
  show (match (coreOf t l).slate with
      | some r => if r.waiting then Host.Outcome.next (projectEnd (slateNext t l r r.tile) l e) else .next t
      | none => .next t) = _
  split
  case h_1 => split <;> rfl
  case h_2 => rfl

theorem publishNext_published (s : State) (l : Core) (idx a total : Nat) :
    (coreOf (publishNext s l idx a total) l).published.find? (fun p => p.1 == a) = some (a, rowsPublished s l a + 1) := by
  unfold publishNext
  dsimp only
  split
  case isTrue => simp only [markDone, modFlight, publishRows, coreOf_modCore_self, List.find?_cons, beq_self_eq_true]
  case isFalse => simp only [publishRows, coreOf_modCore_self, List.find?_cons, beq_self_eq_true]

theorem publishNext_of_last {s : State} {l : Core} {idx a total : Nat} {f : Flight} (hf : f ∈ (coreOf s l).flight)
    (hidx : f.idx = idx) (h : total ≤ rowsPublished s l a + 1) : Slice0.InFlightDone (publishNext s l idx a total) l idx := by
  refine ⟨{ f with done := true }, ?_, hidx, rfl⟩
  rw [publishNext, if_pos h]
  simp only [markDone, modFlight, publishRows, coreOf_modCore_self]
  exact List.mem_map.mpr ⟨f, hf, if_pos hidx⟩

theorem publishNext_of_more {s : State} {l : Core} {idx a total : Nat} (h : rowsPublished s l a + 1 < total) :
    publishNext s l idx a total = publishRows s l a (rowsPublished s l a + 1) := if_neg (Nat.not_le.mpr h)

theorem publishNext_frame (s : State) (l : Core) (idx a total : Nat) :
    Slice0.CoresBut s (publishNext s l idx a total) l ∧
      publishNext s l idx a total = { s with cores := (publishNext s l idx a total).cores } := by
  unfold publishNext
  dsimp only
  split
  case isTrue => exact ⟨fun c hc => by simp only [markDone, modFlight, publishRows, coreOf_modCore_other _ _ hc], rfl⟩
  case isFalse => exact ⟨fun c hc => coreOf_modCore_other s _ hc, rfl⟩

end Sys2Proof.Machine

namespace Sys2Proof.Slice0
open Sys2Proof.Machine

/-- Settles O21: what a refetch does to memory, counters and guards, and what a published row does to its core. -/
theorem stalePrefetchIsReadAgainOrFaults : Obligations.StalePrefetchIsReadAgainOrFaults := by
  intro s l idx w
  refine ⟨fun v g a src dst hw hg ha hexec hhalt hissued hlo hhi htok => ⟨fun hstrict e => ?_, ?_⟩, fun f src dst hf hs hd => ?_⟩
  · exact (execPrefetchRefetch_of_strict hw hg hexec hhalt hissued hlo hhi htok e hstrict).trans (by rw [ha]; rfl)
  · intro hstrict hv hs hd hmem hsk hdk hmirror hdisj
    obtain ⟨hstored, hcount, hguards⟩ := refetch_spec hs hd hsk hdk hmem hmirror hdisj
    exact ⟨refetch s l g v, fun e => execPrefetchRefetch_of_refetch hw hg hexec hhalt hissued hlo hhi htok e hstrict hv, rfl,
      hstored, hcount, fun x hx _ _ hbase hlen _ => hguards x hx hbase hlen⟩
  · have hflight := List.mem_of_find?_eq_some hf
    have hfound := List.find?_some hf
    simp only [Bool.and_eq_true, beq_iff_eq] at hfound
    obtain ⟨⟨hidx, -⟩, -⟩ := hfound
    obtain ⟨hcores, hrest⟩ := publishNext_frame s l idx dst.base (src.dim0 * src.dim2 * src.dim3)
    refine ⟨publishNext s l idx dst.base (src.dim0 * src.dim2 * src.dim3), fun e => execCopyRowPublish_of_inFlight e hf hs hd,
      publishNext_published s l idx dst.base _, fun h => publishNext_of_last hflight hidx h, fun h => ?_, hcores, hrest⟩
    rw [publishNext_of_more h, publishRows, coreOf_modCore_self]

end Sys2Proof.Slice0

/-! ### Checks of conversions, samples, engines and lanes (R162 to R166, R168, R173, R233, R428) -/

namespace Sys2Proof.Machine

/-! #### SPAR_PASS_TEST (R162 to R166) -/

/-- The next rung: one up for an overflow or a spill, at least 3 for a NaN (R165). -/
theorem sparTest_next (s : State) (t : ConvTile) : (sparTest s t).next =
    max (if (sparTest s t).ovf || (sparTest s t).spill then t.rung + 1 else 0) (if (sparTest s t).nan then 3 else 0) := rfl

/-- A pass calls for no other rung exactly when it has no trigger (R163, R165). -/
theorem sparTest_next_eq_zero_iff (s : State) (t : ConvTile) : (sparTest s t).next = 0 ↔
    (!(sparTest s t).ovf && !(sparTest s t).spill && !(sparTest s t).nan) = true := by
  rw [sparTest_next, Nat.max_eq_zero_iff]
  simp

/-- Triggers call for a higher rung: only a pass below rung 3 tells of a NaN, which calls for rung 3 (R162, R165). -/
theorem rung_lt_sparTest_next {s : State} {t : ConvTile} (h : (sparTest s t).next ≠ 0) : t.rung < (sparTest s t).next := by
  have hnan : (sparTest s t).nan = true → t.rung < 3 := fun hn => of_decide_eq_true (Bool.and_eq_true_iff.mp hn).1
  rw [sparTest_next] at h ⊢
  by_cases hup : ((sparTest s t).ovf || (sparTest s t).spill) = true
  · rw [if_pos hup]
    exact Nat.lt_of_lt_of_le (Nat.lt_succ_self t.rung) (Nat.le_max_left _ _)
  · by_cases hn : (sparTest s t).nan = true
    · rw [if_pos hn]
      exact Nat.lt_of_lt_of_le (hnan hn) (Nat.le_max_right _ _)
    · rw [if_neg hup, if_neg hn] at h
      exact absurd rfl h

/-- The meaning of SPAR_PASS_TEST for a tile on the ladder whose first pass has started. -/
theorem execSparPassTest_of_started {s : State} {l : Core} {idx k layer mb : Nat} {t : ConvTile} {c : ConvSpec} (e : Option Nat)
    (ht : (s.num.tiles.filter fun t => t.core == l.val && t.op == idx)[k]? = some t) (hc : convSpec s l idx t.word = .ok c)
    (hstarted : t.started = true) (hlayer : t.layer = some (layer, mb)) : execSparPassTest l idx k e s =
    let base := ((trackerAt s c.cluster c.tracker).bind fun y => Format.ofCode y.format).getD .b4
    let x := sparTest s t
    if x.next = 0 then .next (startNext (sparAccept s l c base t) l idx e c)
    else .next (sparDelay (sparRepeat s l c base t x layer mb) l e) := by
  have hop : t.op = idx := by
    obtain ⟨-, hfound⟩ := List.mem_filter.mp (List.mem_of_getElem? ht)
    exact beq_iff_eq.mp (Bool.and_eq_true_iff.mp hfound).2
  subst hop
  simp only [execSparPassTest, ht, hc, hstarted, hlayer, sparTest_next_eq_zero_iff, Bool.not_true, Bool.false_eq_true, if_false]

/-! #### SHADOW_COMPARE (R173) -/

/-- The comparison of a sample: the counts of its layer, and its own result. -/
def sampleCompared (s : State) (i layer : Nat) (bad : Bool) : State :=
  modSample (modLayer s layer fun y =>
    { y with shadowRun := y.shadowRun + 1, shadowDis := if bad then y.shadowDis + 1 else y.shadowDis })
    i fun x => { x with compared := true, disagree := bad }

/-- The module's counts of samples compared and of those that disagree. -/
def countCompared (s : State) (bad : Bool) : State := bumpIf (bump s Obj.shadowRun 1) bad Obj.shadowDisagree 1

/-- The meaning of SHADOW_COMPARE for a sample whose recomputation is complete. -/
theorem execShadowCompare_of_done {s : State} {i : Nat} {x : Sample} {n h : List W32} (hx : s.num.samples[i]? = some x)
    (hn : x.narrow = some n) (hh : x.shadow = some h) (hc : x.compared = false) (hd : x.shadowDone = true) :
    execShadowCompare i s =
      let bad := disagrees (BitVec.ofNat 32 (reg s Obj.shadowTol)) n h
      .next (sampleCompared (countCompared s bad) i x.layer bad) := by
  simp only [execShadowCompare, hx, hn, hh, hc, hd, Bool.not_true, Bool.or_self, Bool.false_eq_true, if_false]
  rfl

theorem countCompared_eq (s : State) (bad : Bool) : countCompared s bad = { s with regs := (countCompared s bad).regs } := by
  cases bad <;> rfl

theorem sampleCompared_countCompared_samples (s : State) (i layer : Nat) (bad : Bool) :
    (sampleCompared (countCompared s bad) i layer bad).num.samples =
      s.num.samples.modify i fun y => { y with compared := true, disagree := bad } := by
  rw [countCompared_eq]
  rfl

theorem reg_countCompared_run (s : State) (bad : Bool) :
    reg (countCompared s bad) Obj.shadowRun = (reg s Obj.shadowRun + 1) % 2 ^ 64 := by
  have hsize : keySize Obj.shadowRun = 8 := by decide
  have hrun : reg (bump s Obj.shadowRun 1) Obj.shadowRun = (reg s Obj.shadowRun + 1) % 2 ^ 64 := by rw [reg_bump_self, hsize]
  cases bad with
  | false => exact hrun
  | true => exact (reg_bump_other _ 1 (by decide)).trans hrun

theorem reg_countCompared_disagree (s : State) (bad : Bool) : reg (countCompared s bad) Obj.shadowDisagree =
    if bad then (reg s Obj.shadowDisagree + 1) % 2 ^ 32 else reg s Obj.shadowDisagree := by
  have hsize : keySize Obj.shadowDisagree = 4 := by decide
  have hrun : reg (bump s Obj.shadowRun 1) Obj.shadowDisagree = reg s Obj.shadowDisagree := reg_bump_other s 1 (by decide)
  cases bad with
  | false => exact hrun
  | true =>
    have hself : reg (countCompared s true) Obj.shadowDisagree = _ := reg_bump_self (bump s Obj.shadowRun 1) _ 1
    rw [hself, hsize, hrun]
    rfl

theorem reg_countCompared_other (s : State) (bad : Bool) {k : Nat} (hrun : k ≠ Obj.shadowRun) (hdis : k ≠ Obj.shadowDisagree) :
    reg (countCompared s bad) k = reg s k := by
  cases bad with
  | false => exact reg_bump_other s 1 hrun
  | true => exact (reg_bump_other _ 1 hdis).trans (reg_bump_other s 1 hrun)

/-! #### What a report leaves (R432, R467) -/

/-- The element of a key does not change its index (R484). -/
theorem keyIdx_add_elem {k i : Nat} (h : k % 2 ^ 32 + i < 2 ^ 32) : keyIdx (k + i) = keyIdx k := by
  simp only [keyIdx]
  omega

/-- A register of one object stands when an element of another is written. -/
theorem ne_of_keyIdx_ne {a b : Nat} (h : keyIdx a ≠ keyIdx b) : a ≠ b := fun hab => h (congrArg keyIdx hab)

/-- The indices of the objects that reports write: EVENT_DROPPED, FAULT_LOG, FAULT_LOG_HEAD and FAULT_COUNT (R432, R467). -/
def reportIdx : List Nat := [0x1024, 0x7200, 0x7201, 0x7210]

/-- What an event or a fault report changes: the objects of reports, the sessions, and what is on its way to peers. -/
structure Reported (s t : State) : Prop where
  rest : t = { s with regs := t.regs, dunrel := t.dunrel, net := t.net, sent := t.sent, egress := t.egress }
  reg : ∀ k, keyIdx k ∉ reportIdx → reg t k = reg s k

theorem Reported.refl (s : State) : Reported s s := ⟨rfl, fun _ _ => rfl⟩

theorem Reported.trans {s t u : State} (h : Reported s t) (k : Reported t u) : Reported s u where
  rest := k.rest.trans (congrArg
    (fun x : State => { x with regs := u.regs, dunrel := u.dunrel, net := u.net, sent := u.sent, egress := u.egress }) h.rest)
  reg x hx := (k.reg x hx).trans (h.reg x hx)

theorem Reported.ras {s t : State} (h : Reported s t) : t.ras = s.ras := by rw [h.rest]
theorem Reported.mem {s t : State} (h : Reported s t) : t.mem = s.mem := by rw [h.rest]
theorem Reported.dev {s t : State} (h : Reported s t) : t.dev = s.dev := by rw [h.rest]

theorem setReg_reported (s : State) {k : Nat} (v : Nat) (h : keyIdx k ∈ reportIdx) : Reported s (setReg s k v) where
  rest := rfl
  reg _ hx := reg_setReg_other s v (ne_of_keyIdx_ne fun he => hx (he ▸ h))

theorem deliver_reported (s : State) (i : Sess) (code : Nat) (body : List Byte) : Reported s (deliver s i code body) := by
  have hi := i.isLt
  unfold deliver
  split
  case h_1 => exact .refl s
  case h_2 =>
    split
    case isTrue =>
      refine .trans (t := modSess s i _) ⟨rfl, fun _ _ => rfl⟩ (setReg_reported _ _ ?_)
      rw [keyIdx_add_elem (by simp only [Obj.eventDropped]; omega)]
      decide
    case isFalse => exact ⟨rfl, fun _ _ => rfl⟩

theorem raiseEvent_reported (s : State) (code : Nat) (body : List Byte) : Reported s (raiseEvent s code body) := by
  refine List.foldlRecOn _ _ (motive := Reported s) (.refl s) fun t ht i _ => ?_
  split
  case h_1 =>
    split
    case isTrue => exact ht.trans (deliver_reported t i code body)
    case isFalse => exact ht
  case h_2 => exact ht

theorem recTo_reported (s : State) (rank : Nat) (m : RecMsg) : Reported s (recTo s rank m) := by
  unfold recTo
  split <;> exact ⟨rfl, fun _ _ => rfl⟩

/-- A fault report enters the fault log, counts, raises its event and tells the coordinators (R432). -/
theorem reportFault_reported (s : State) {code : Nat} (outcome addr err die unit : Nat) (hcode : code < 2 ^ 32) :
    Reported s (reportFault s code outcome addr err die unit) := by
  have hlog (n : Nat) : keyIdx (Obj.faultLog + n % 64) ∈ reportIdx := by
    rw [keyIdx_add_elem (by simp only [Obj.faultLog]; omega)]
    decide
  have hcount : keyIdx (Obj.faultCount + code) ∈ reportIdx := by
    rw [keyIdx_add_elem (by simp only [Obj.faultCount]; omega)]
    decide
  have hhead : keyIdx Obj.faultLogHead ∈ reportIdx := by decide
  have hraised (entry : List Byte) (n v : Nat) : Reported s (raiseEvent (bump (setReg (setReg s (Obj.faultLog + n % 64) v)
      Obj.faultLogHead ((n + 1) % 64)) (Obj.faultCount + code) 1) 1 entry) :=
    (setReg_reported s _ (hlog n)).trans <| (setReg_reported _ _ hhead).trans <|
      (setReg_reported _ _ hcount).trans (raiseEvent_reported _ _ _)
  unfold reportFault
  dsimp only
  split
  case isTrue => exact hraised _ _ _
  case isFalse =>
    split
    case isTrue => exact (hraised _ _ _).trans (recTo_reported _ _ _)
    case isFalse => exact (hraised _ _ _).trans ((recTo_reported _ _ _).trans (recTo_reported _ _ _))

/-! #### FAULTED (R10) -/

theorem endTxn_dev (s : State) (t : Txn) (code : Nat) : (endTxn s t code).dev = s.dev := by
  have hidle (u : State) : (imageIdle u t).dev = u.dev := by
    unfold imageIdle
    split <;> rfl
  refine (deliver_reported _ _ _ _).dev.trans ?_
  rw [bump_dev]
  split
  case isTrue => exact dropTxn_dev s t.handle
  case isFalse => exact (hidle _).trans (dropTxn_dev s t.handle)

theorem abortWaiting_dev (s : State) : (abortWaiting s).dev = s.dev := by
  refine List.foldlRecOn _ _ (motive := fun t : State => t.dev = s.dev) ?_ fun t ht x _ => ht
  exact List.foldlRecOn _ _ (motive := fun t : State => t.dev = s.dev) rfl fun t ht x _ => (endTxn_dev t x eSTATE).trans ht

/-- A device state set is the device state. -/
theorem setDev_dev (s : State) (d : DeviceState) : (setDev s d).dev = d := by
  unfold setDev
  split
  case isTrue h => exact h
  case isFalse =>
    refine (raiseEvent_reported _ _ _).dev.trans ?_
    split
    case isTrue => exact abortWaiting_dev _
    case isFalse => rfl

/-! #### ENGINE_CHECK (R428) -/

/-- The failed check of a unit of a die's engine forgotten, as by a check that passes. -/
def forgetEngine (s : State) (id : Nat) : State :=
  { s with ras := { s.ras with engineFails := s.ras.engineFails.filter (· != id) } }

/-- The failed check of a unit of a die's engine remembered. -/
def rememberEngine (s : State) (id : Nat) : State := { s with ras := { s.ras with engineFails := id :: s.ras.engineFails } }

theorem not_mem_filter_bne {l : List Nat} (a : Nat) : a ∉ l.filter (· != a) := fun h =>
  bne_iff_ne.mp (List.mem_filter.mp h).2 rfl

theorem execEngineCheck_of_pass (s : State) (d : Die) (k : EngineKind) :
    execEngineCheck d k true s = .next (forgetEngine s (engineId d k)) := rfl

section
variable {s : State} {d : Die} {k : EngineKind}

/-- A first failure is counted, remembered and reported. -/
theorem execEngineCheck_of_first (h : engineId d k ∉ s.ras.engineFails) : execEngineCheck d k false s = .next
    (reportFault (rememberEngine (bump s (Obj.engineCheckErr + d.val) 1) (engineId d k)) 0x05 0 0 0 d.val (engineId d k)) := by
  simp only [execEngineCheck, List.contains_eq_mem, h, decide_false, Bool.not_false, if_true, Bool.false_eq_true, if_false]
  rfl

/-- A second failure of a copy engine removes it. -/
theorem execEngineCheck_of_second_gutter {g : Fin 4} (h : engineId d (.gutter g) ∈ s.ras.engineFails) :
    let u := setReg (forgetEngine (bump s (Obj.engineCheckErr + d.val) 1) (engineId d (.gutter g)))
      (Obj.gutterState + 4 * d.val + g.val) 1
    execEngineCheck d (.gutter g) false s = .next
      (reportFault u 0x07 (if guttersLeft u d = 0 then 1 else 0) 0 0 d.val (engineId d (.gutter g))) := by
  simp only [execEngineCheck, List.contains_eq_mem, h, decide_true, Bool.not_true, Bool.false_eq_true, if_false]
  rfl

/-- A second failure of any other engine takes the module to FAULTED. -/
theorem execEngineCheck_of_second (hk : ∀ g, k ≠ .gutter g) (h : engineId d k ∈ s.ras.engineFails) :
    execEngineCheck d k false s = .next (setDev (reportFault (forgetEngine (bump s (Obj.engineCheckErr + d.val) 1)
      (engineId d k)) 0x08 1 0 0 d.val (engineId d k)) .faulted) := by
  simp only [execEngineCheck, List.contains_eq_mem, h, decide_true, Bool.not_true, Bool.false_eq_true, if_false]
  cases k with
  | gutter g => exact absurd rfl (hk g)
  | eaves _ | damson | valley | bramble | batten => rfl

end

/-- A counter with one element a die counts in 32 bits. -/
theorem reg_bump_die {key : Nat} (s : State) (d : Die) (hkey : key % 2 ^ 32 = 0) (hsize : keySize key = 4) :
    reg (bump s (key + d.val) 1) (key + d.val) = (reg s (key + d.val) + 1) % 2 ^ 32 := by
  have hd := d.isLt
  rw [reg_bump_self, keySize_add_elem (by omega), hsize]

theorem keyIdx_add_die {key : Nat} (d : Die) (hkey : key % 2 ^ 32 = 0) : keyIdx (key + d.val) = keyIdx key := by
  have hd := d.isLt
  exact keyIdx_add_elem (by omega)

/-! #### SLOE_EVALUATION (R233) -/

/-- The failed evaluation of a lane forgotten, as by one that passes. -/
def forgetLane (s : State) (id : Nat) : State :=
  { s with ras := { s.ras with laneFails := s.ras.laneFails.filter (· != id) } }

/-- A lane's failure on its second try: counted, and the first forgotten. -/
def failLane (s : State) (d : Die) (lane : Nat) : State :=
  forgetLane (bump s (Obj.sloeCheckErr + d.val) 1) (d.val * 1024 + lane)

section
variable {s : State} {d : Die} {lane : Fin 1024} (hin : bitOf (reg s (Obj.sloeLaneMap + d.val)) lane.val = false)
include hin

theorem execSloeEvaluation_of_pass :
    execSloeEvaluation d lane true s = .next (forgetLane s (d.val * 1024 + lane.val)) := by
  simp only [execSloeEvaluation, hin, Bool.false_eq_true, if_false, if_true]
  rfl

/-- A lane's first failure is counted and remembered. -/
theorem execSloeEvaluation_of_first (h : d.val * 1024 + lane.val ∉ s.ras.laneFails) :
    execSloeEvaluation d lane false s = .next { bump s (Obj.sloeCheckErr + d.val) 1 with
      ras := { s.ras with laneFails := (d.val * 1024 + lane.val) :: s.ras.laneFails } } := by
  simp only [execSloeEvaluation, hin, List.contains_eq_mem, h, decide_false, Bool.false_eq_true, if_false, bump_ras]

/-- A lane's second failure removes the lane. -/
theorem execSloeEvaluation_of_second (h : d.val * 1024 + lane.val ∈ s.ras.laneFails) :
    let u := removeLane (failLane s d lane.val) d lane.val
    execSloeEvaluation d lane false s = .next
      (reportFault u 0x07 (if reg u (Obj.sloeLanes + d.val) = 0 then 1 else 0) 0 0 d.val (d.val * 1024 + lane.val)) := by
  simp only [execSloeEvaluation, hin, List.contains_eq_mem, h, decide_true, Bool.false_eq_true, if_false, if_true]
  rfl

/-- A lane that leaves service has its bit set and is one lane fewer (R233, R510). -/
theorem removeLane_of_inService : removeLane s d lane.val = needStore (setReg (setReg s (Obj.sloeLaneMap + d.val)
    (reg s (Obj.sloeLaneMap + d.val) + 2 ^ lane.val)) (Obj.sloeLanes + d.val) (reg s (Obj.sloeLanes + d.val) - 1)) := by
  simp only [removeLane, hin, Bool.false_eq_true, if_false]

theorem reg_removeLane_map :
    reg (removeLane s d lane.val) (Obj.sloeLaneMap + d.val) = reg s (Obj.sloeLaneMap + d.val) + 2 ^ lane.val := by
  have hne : Obj.sloeLaneMap + d.val ≠ Obj.sloeLanes + d.val := by simp only [Obj.sloeLaneMap, Obj.sloeLanes]; omega
  rw [removeLane_of_inService hin]
  exact (reg_setReg_other _ _ hne).trans (reg_setReg_self _ _ _)

end

theorem removeLane_frame (s : State) (d : Die) (lane : Nat) : (removeLane s d lane).ras = s.ras ∧
    (removeLane s d lane).mem = s.mem ∧ (removeLane s d lane).dev = s.dev := by
  unfold removeLane
  dsimp only
  split <;> exact ⟨rfl, rfl, rfl⟩

end Sys2Proof.Machine

namespace Sys2Proof.Slice0
open Sys2Proof.Machine

/-- A compared sample counts once, with its disagreement, and no register but the two counters changes (R173). -/
theorem shadowCompare_counts {s : State} {i : Nat} {x : Sample} {n h : List W32} (hx : s.num.samples[i]? = some x)
    (hn : x.narrow = some n) (hh : x.shadow = some h) (hc : x.compared = false) (hd : x.shadowDone = true) :
    let bad := disagrees (BitVec.ofNat 32 (reg s Obj.shadowTol)) n h
    ∃ t, exec (.shadowCompare i) s = .next t ∧ reg t Obj.shadowRun = (reg s Obj.shadowRun + 1) % 2 ^ 64 ∧
      reg t Obj.shadowDisagree = (if bad then (reg s Obj.shadowDisagree + 1) % 2 ^ 32 else reg s Obj.shadowDisagree) ∧
      t.num.samples = s.num.samples.modify i (fun y => { y with compared := true, disagree := bad }) ∧
      RegsBut s t [Obj.shadowRun, Obj.shadowDisagree] ∧ t = { s with num := t.num, regs := t.regs } := by
  intro bad
  refine ⟨sampleCompared (countCompared s bad) i x.layer bad, execShadowCompare_of_done hx hn hh hc hd,
    reg_countCompared_run s bad, reg_countCompared_disagree s bad, sampleCompared_countCompared_samples s i x.layer bad,
    fun k hk => ?_, ?_⟩
  · simp only [List.mem_cons, List.not_mem_nil, or_false, not_or] at hk
    exact reg_countCompared_other s bad hk.1 hk.2
  · rw [countCompared_eq]
    rfl

theorem engineCheck_first_counts {s : State} {d : Die} {k : EngineKind} (h : engineId d k ∉ s.ras.engineFails) :
    ∃ t, exec (.engineCheck d k false) s = .next t ∧ engineId d k ∈ t.ras.engineFails ∧
      reg t (Obj.engineCheckErr + d.val) = (reg s (Obj.engineCheckErr + d.val) + 1) % 2 ^ 32 ∧
      t.dev = s.dev ∧ t.mem = s.mem := by
  have hrep := reportFault_reported (rememberEngine (bump s (Obj.engineCheckErr + d.val) 1) (engineId d k)) 0 0 0 d.val
    (engineId d k) (show 0x05 < 2 ^ 32 by decide)
  have hidx : keyIdx (Obj.engineCheckErr + d.val) ∉ reportIdx := by
    rw [keyIdx_add_die d (by decide)]
    decide
  refine ⟨_, execEngineCheck_of_first h, ?_, ?_, hrep.dev, hrep.mem⟩
  · rw [hrep.ras]
    exact List.mem_cons_self
  · exact (hrep.reg _ hidx).trans (reg_bump_die s d (by decide) (by decide))

theorem sloeEvaluation_first_counts {s : State} {d : Die} {lane : Fin 1024}
    (hin : bitOf (reg s (Obj.sloeLaneMap + d.val)) lane.val = false) (h : d.val * 1024 + lane.val ∉ s.ras.laneFails) :
    ∃ t, exec (.sloeEvaluation d lane false) s = .next t ∧ d.val * 1024 + lane.val ∈ t.ras.laneFails ∧
      reg t (Obj.sloeCheckErr + d.val) = (reg s (Obj.sloeCheckErr + d.val) + 1) % 2 ^ 32 ∧
      RegsBut s t [Obj.sloeCheckErr + d.val] ∧ t = { s with ras := t.ras, regs := t.regs } :=
  ⟨_, execSloeEvaluation_of_first hin h, List.mem_cons_self, reg_bump_die s d (by decide) (by decide),
    fun _ hk => reg_bump_other s 1 (List.ne_of_not_mem_cons hk), rfl⟩

theorem checksAcceptRepeatAndCount : ChecksAcceptRepeatAndCount := by
  intro s
  refine ⟨fun l idx k layer mb e t c ht hc hstarted hlayer => ⟨fun h => ?_, fun h => ⟨rung_lt_sparTest_next h, ?_⟩⟩,
    fun i x n h hx hn hh hc hd => shadowCompare_counts hx hn hh hc hd,
    fun d k => ⟨⟨_, execEngineCheck_of_pass s d k, rfl, not_mem_filter_bne _, rfl⟩, engineCheck_first_counts⟩,
    fun d lane hin => ⟨⟨_, execSloeEvaluation_of_pass hin, rfl, not_mem_filter_bne _, rfl⟩, sloeEvaluation_first_counts hin⟩⟩
  · exact (execSparPassTest_of_started e ht hc hstarted hlayer).trans (if_pos h)
  · exact (execSparPassTest_of_started e ht hc hstarted hlayer).trans (if_neg h)

/-- A lane's second failure sets the lane's bit and forgets the first (R233). -/
theorem sloeEvaluation_second_removes {s : State} {d : Die} {lane : Fin 1024}
    (hin : bitOf (reg s (Obj.sloeLaneMap + d.val)) lane.val = false) (h : d.val * 1024 + lane.val ∈ s.ras.laneFails) :
    ∃ t, exec (.sloeEvaluation d lane false) s = .next t ∧
      reg t (Obj.sloeLaneMap + d.val) = reg s (Obj.sloeLaneMap + d.val) + 2 ^ lane.val ∧
      d.val * 1024 + lane.val ∉ t.ras.laneFails ∧ t.mem = s.mem ∧ t.dev = s.dev := by
  have hmap : reg (failLane s d lane.val) (Obj.sloeLaneMap + d.val) = reg s (Obj.sloeLaneMap + d.val) :=
    reg_bump_other s 1 (by simp only [Obj.sloeLaneMap, Obj.sloeCheckErr]; omega)
  have hidx : keyIdx (Obj.sloeLaneMap + d.val) ∉ reportIdx := by
    rw [keyIdx_add_die d (by decide)]
    decide
  obtain ⟨hras, hmem, hdev⟩ := removeLane_frame (failLane s d lane.val) d lane.val
  have hrep (outcome : Nat) := reportFault_reported (removeLane (failLane s d lane.val) d lane.val) outcome 0 0 d.val
    (d.val * 1024 + lane.val) (show 0x07 < 2 ^ 32 by decide)
  refine ⟨_, execSloeEvaluation_of_second hin h, ?_, ?_, (hrep _).mem.trans hmem, (hrep _).dev.trans hdev⟩
  · rw [(hrep _).reg _ hidx, reg_removeLane_map (hmap ▸ hin), hmap]
  · rw [(hrep _).ras, hras]
    exact not_mem_filter_bne _

/-- A copy engine's second failure removes the copy engine (R428). -/
theorem engineCheck_second_removes_gutter {s : State} {d : Die} {g : Fin 4} (h : engineId d (.gutter g) ∈ s.ras.engineFails) :
    ∃ t, exec (.engineCheck d (.gutter g) false) s = .next t ∧ reg t (Obj.gutterState + 4 * d.val + g.val) = 1 ∧
      t.dev = s.dev ∧ t.mem = s.mem := by
  have hd := d.isLt
  have hg := g.isLt
  have hidx : keyIdx (Obj.gutterState + 4 * d.val + g.val) ∉ reportIdx := by
    rw [Nat.add_assoc, keyIdx_add_elem (by simp only [Obj.gutterState]; omega)]
    decide
  have hrep (u : State) (outcome : Nat) := reportFault_reported u outcome 0 0 d.val (engineId d (.gutter g))
    (show 0x07 < 2 ^ 32 by decide)
  exact ⟨_, execEngineCheck_of_second_gutter h, ((hrep _ _).reg _ hidx).trans (reg_setReg_self _ _ _), (hrep _ _).dev,
    (hrep _ _).mem⟩

theorem secondFailureRemovesTheUnit : SecondFailureRemovesTheUnit := fun _ _ =>
  ⟨fun _ => sloeEvaluation_second_removes, fun _ => engineCheck_second_removes_gutter,
    fun _ hk h => ⟨_, execEngineCheck_of_second hk h, setDev_dev _ _⟩⟩

/-- Settles O26, from the meaning of each check for each verdict and from what a report leaves. -/
theorem checksCountAndRemoveUnits : Obligations.ChecksCountAndRemoveUnits :=
  ⟨checksAcceptRepeatAndCount, secondFailureRemovesTheUnit⟩

end Sys2Proof.Slice0

/-! ### The flip (R190, R203, R207) -/

namespace Sys2Proof.Machine

/-- The slots after slot i takes version v and the CURRENT one gives way (R207). -/
def flippedSlots (slots : List VSlot) (i v : Nat) : List VSlot :=
  slots.zipIdx.map fun (x, j) =>
    if j = i then { x with state := .current, version := v }
    else if x.state = .current then { x with state := if x.refs = 0 then .free else .held } else x

theorem length_flippedSlots (slots : List VSlot) (i v : Nat) : (flippedSlots slots i v).length = slots.length := by
  simp only [flippedSlots, List.length_map, List.length_zipIdx]

theorem getElem?_flippedSlots {slots : List VSlot} {j : Nat} {x : VSlot} (i v : Nat) (h : slots[j]? = some x) :
    (flippedSlots slots i v)[j]? = some (if j = i then { x with state := .current, version := v }
      else if x.state = .current then { x with state := if 0 < x.refs then .held else .free } else x) := by
  simp only [flippedSlots, List.getElem?_map, List.getElem?_zipIdx, h, Option.map_some, Nat.zero_add, Nat.pos_iff_ne_zero,
    ite_not]

/-- A step that has a FILLING slot marks no other (R206). -/
theorem markFilling_of_filling {s : State} {i : Nat} (h : s.num.slots.findIdx? (fun x => x.state == .filling) = some i) :
    markFilling s = s := by
  have hany : s.num.slots.any (fun x => x.state == .filling) = true := by
    rw [← List.findIdx?_isSome, h]
    rfl
  rw [markFilling, if_pos hany]

theorem any_filling_eq_false {s : State} (h : ∀ x ∈ s.num.slots, x.state ≠ .filling) :
    s.num.slots.any (fun x => x.state == .filling) = false :=
  List.any_eq_false.mpr fun x hx => by simpa using h x hx

/-- A step that has marked no slot marks the lowest FREE one (R206). -/
theorem markFilling_of_free {s : State} {i : Nat} (h : ∀ x ∈ s.num.slots, x.state ≠ .filling)
    (hi : s.num.slots.findIdx? (fun x => x.state == .free) = some i) :
    markFilling s = modSlot s i fun x => { x with state := .filling, refs := 0, version := s.job.stepVersion + 1 } := by
  simp only [markFilling, any_filling_eq_false h, hi, Bool.false_eq_true, if_false]

theorem markFilling_of_none_free {s : State} (h : ∀ x ∈ s.num.slots, x.state ≠ .filling)
    (hfree : ∀ x ∈ s.num.slots, x.state ≠ .free) : markFilling s = s := by
  have hnone : s.num.slots.findIdx? (fun x => x.state == .free) = none :=
    List.findIdx?_eq_none_iff.mpr fun x hx => by simpa using hfree x hx
  simp only [markFilling, any_filling_eq_false h, hnone, Bool.false_eq_true, if_false]

/-- The slot that a step marks is its only FILLING one. -/
theorem findIdx?_markFilling {s : State} {i : Nat} (h : ∀ x ∈ s.num.slots, x.state ≠ .filling)
    (hi : s.num.slots.findIdx? (fun x => x.state == .free) = some i) :
    (markFilling s).num.slots.findIdx? (fun x => x.state == .filling) = some i := by
  obtain ⟨hlt, -, -⟩ := List.findIdx?_eq_some_iff_getElem.mp hi
  rw [markFilling_of_free h hi]
  refine List.findIdx?_eq_some_iff_getElem.mpr ⟨by simpa [modSlot] using hlt, by simp [modSlot], fun j hj => ?_⟩
  have hne : (s.num.slots[j]).state ≠ .filling := h _ (List.getElem_mem _)
  simpa [modSlot, List.getElem_modify, Nat.ne_of_gt hj] using hne

/-- The flip of a step with a FILLING slot. -/
theorem flip_of_filling {s : State} {i : Nat} (h : s.num.slots.findIdx? (fun x => x.state == .filling) = some i) :
    flip s = setReg { s with num := { s.num with slots := flippedSlots s.num.slots i (reg s Obj.versionCurrent + 1) } }
      Obj.versionCurrent (reg s Obj.versionCurrent + 1) := by
  simp only [flip, markFilling_of_filling h, h]
  rfl

theorem flip_of_none {s : State} (h : ∀ x ∈ s.num.slots, x.state ≠ .filling)
    (hfree : ∀ x ∈ s.num.slots, x.state ≠ .free) : flip s = s := by
  have hnone : s.num.slots.findIdx? (fun x => x.state == .filling) = none :=
    List.findIdx?_eq_none_iff.mpr fun x hx => by simpa using h x hx
  simp only [flip, markFilling_of_none_free h hfree, hnone]

/-- The flip of a step that has marked no slot is the flip after it marks one (log 82). -/
theorem flip_markFilling {s : State} {i : Nat} (h : ∀ x ∈ s.num.slots, x.state ≠ .filling)
    (hi : s.num.slots.findIdx? (fun x => x.state == .free) = some i) : flip (markFilling s) = flip s := by
  simp only [flip, markFilling_of_filling (findIdx?_markFilling h hi)]

end Sys2Proof.Machine

namespace Sys2Proof.Slice0
open Sys2Proof.Machine

/-- Settles O28: the flip of a marked slot, and the flip of a step that marks its slot only then. -/
theorem flipMakesTheFillingSlotCurrent : Obligations.FlipMakesTheFillingSlotCurrent := by
  refine ⟨fun s i h => ?_, fun s h => ⟨fun i hi => ?_, flip_of_none h⟩⟩
  · rw [flip_of_filling h]
    exact ⟨reg_setReg_self _ _ _, fun j x hx => getElem?_flippedSlots i _ hx, length_flippedSlots _ _ _,
      fun k hk => reg_setReg_other _ _ (List.ne_of_not_mem_cons hk), rfl⟩
  · rw [← flip_markFilling h hi, flip_of_filling (findIdx?_markFilling h hi), markFilling_of_free h hi]
    refine ⟨reg_setReg_self _ _ _, fun k hk => reg_setReg_other _ _ (List.ne_of_not_mem_cons hk), fun j x hx => ?_, rfl⟩
    have hmarked : (modSlot s i fun x => { x with state := .filling, refs := 0, version := s.job.stepVersion + 1 }).num.slots[j]? =
        some (if i = j then { x with state := .filling, refs := 0, version := s.job.stepVersion + 1 } else x) := by
      simp only [modSlot, List.getElem?_modify, hx]
      split <;> rfl
    refine (getElem?_flippedSlots i _ hmarked).trans ?_
    by_cases hj : j = i
    · subst hj
      simp only [if_true]
      rfl
    · simp only [if_neg hj, if_neg (Ne.symm hj)]

end Sys2Proof.Slice0

/-! ### Schedule faults and refused operands (R208, R293, R294, R432, R467, R479) -/

namespace Sys2Proof.Machine

/-! #### Bytes of a number -/

@[simp] theorem length_leBytes (n v : Nat) : (leBytes n v).length = n := by
  induction n generalizing v with
  | zero => rfl
  | succ n ih => exact congrArg (· + 1) (ih (v / 256))

/-- The bytes of the number that bytes spell are these bytes. -/
theorem leBytes_ofLE (b : List Byte) : leBytes b.length (ofLE b) = b := by
  induction b with
  | nil => rfl
  | cons x r ih =>
    have hx := x.isLt
    have hlow : BitVec.ofNat 8 (x.toNat + 256 * ofLE r) = x := BitVec.eq_of_toNat_eq (by rw [BitVec.toNat_ofNat]; omega)
    have hhigh : (x.toNat + 256 * ofLE r) / 256 = ofLE r := by omega
    rw [List.length_cons, ofLE, leBytes, hlow, hhigh, ih]

/-! #### What an event or a recovery control message leaves -/

/-- What an event raised and a recovery control message sent change: EVENT_DROPPED, the sessions, the module's own inbox, and what
is on its way to peers (R452, R467). -/
structure Told (s t : State) : Prop where
  rest : t = { s with regs := t.regs, dunrel := { s.dunrel with sessions := t.dunrel.sessions }
                      net := { s.net with inbox := t.net.inbox }, sent := t.sent, egress := t.egress }
  reg : ∀ k, (∀ i : Sess, k ≠ Obj.eventDropped + i.val) → reg t k = reg s k

/-- Every object after EVENT_DROPPED has keys after those of its elements. -/
theorem ne_eventDropped {k : Nat} (h : Obj.eventDropped + 16 ≤ k) (i : Sess) : k ≠ Obj.eventDropped + i.val := by
  have hi := i.isLt
  omega

theorem Told.refl (s : State) : Told s s := ⟨rfl, fun _ _ => rfl⟩

theorem Told.trans {s t u : State} (h : Told s t) (k : Told t u) : Told s u where
  rest := k.rest.trans (congrArg (fun x : State =>
    { x with regs := u.regs, dunrel := { x.dunrel with sessions := u.dunrel.sessions }
             net := { x.net with inbox := u.net.inbox }, sent := u.sent, egress := u.egress }) h.rest)
  reg x hx := (k.reg x hx).trans (h.reg x hx)

theorem deliver_told (s : State) (i : Sess) (code : Nat) (body : List Byte) : Told s (deliver s i code body) := by
  unfold deliver
  split
  case h_1 => exact .refl s
  case h_2 =>
    split
    case isTrue => exact ⟨rfl, fun k hk => reg_bump_other (modSess s i _) 1 (hk i)⟩
    case isFalse => exact ⟨rfl, fun _ _ => rfl⟩

theorem raiseEvent_told (s : State) (code : Nat) (body : List Byte) : Told s (raiseEvent s code body) := by
  refine List.foldlRecOn _ _ (motive := Told s) (.refl s) fun t ht i _ => ?_
  split
  case h_1 =>
    split
    case isTrue => exact ht.trans (deliver_told t i code body)
    case isFalse => exact ht
  case h_2 => exact ht

theorem recTo_told (s : State) (rank : Nat) (m : RecMsg) : Told s (recTo s rank m) := by
  unfold recTo
  split <;> exact ⟨rfl, fun _ _ => rfl⟩

/-! #### The violation log and the fault log -/

/-- An entry put into the violation log (R479). -/
def logViolation (s : State) (entry : List Byte) : State :=
  setReg (setReg s (Obj.violLog + reg s Obj.violHead % 64) (ofLE entry)) Obj.violHead ((reg s Obj.violHead + 1) % 64)

/-- A violation is logged, and then only told (R479). -/
theorem violation_told (s : State) (kind num space addr code : Nat) (key : List Byte) :
    ∃ entry, Told (logViolation s entry) (violation s kind num space addr code key) :=
  ⟨_, raiseEvent_told _ _ _⟩

/-- The entry of a fault in the fault log (R432). -/
def faultEntry (s : State) (code outcome addr err die unit : Nat) : List Byte :=
  leBytes 8 (ptpNow s) ++ leBytes 8 s.job.step ++ leBytes 8 addr ++ leBytes 1 code ++ leBytes 1 outcome
    ++ leBytes 1 err ++ leBytes 1 die ++ leBytes 2 unit ++ leBytes 2 0

/-- An entry of the fault log ends with its code, outcome, error, die and unit (R432). -/
theorem drop_faultEntry (s : State) (code outcome addr err die unit : Nat) :
    (leBytes 32 (ofLE (faultEntry s code outcome addr err die unit))).drop 24 =
      leBytes 1 code ++ leBytes 1 outcome ++ leBytes 1 err ++ leBytes 1 die ++ leBytes 2 unit ++ leBytes 2 0 := by
  have hlen : (faultEntry s code outcome addr err die unit).length = 32 := by
    simp only [faultEntry, List.length_append, length_leBytes]
  rw [← hlen, leBytes_ofLE]
  simp only [faultEntry, List.drop_append, length_leBytes, List.append_assoc]
  rfl

/-- An entry put into the fault log, and its code counted (R432). -/
def logFault (s : State) (code : Nat) (entry : List Byte) : State :=
  bump (setReg (setReg s (Obj.faultLog + reg s Obj.faultLogHead % 64) (ofLE entry)) Obj.faultLogHead
    ((reg s Obj.faultLogHead + 1) % 64)) (Obj.faultCount + code) 1

/-- A fault is logged and counted, and then only told (R432). -/
theorem reportFault_told (s : State) (code outcome addr err die unit : Nat) :
    Told (logFault s code (faultEntry s code outcome addr err die unit)) (reportFault s code outcome addr err die unit) := by
  unfold reportFault
  dsimp only
  split
  case isTrue => exact raiseEvent_told _ _ _
  case isFalse =>
    split
    case isTrue => exact (raiseEvent_told _ _ _).trans (recTo_told _ _ _)
    case isFalse => exact (raiseEvent_told _ _ _).trans ((recTo_told _ _ _).trans (recTo_told _ _ _))

/-- A violation and its fault logged leave everything but registers and what is told. -/
theorem logFault_logViolation_rest {s u t : State} {code : Nat} {v e : List Byte} (hu : Told (logViolation s v) u)
    (ht : Told (logFault u code e) t) :
    t = { s with regs := t.regs, dunrel := { s.dunrel with sessions := t.dunrel.sessions }
                 net := { s.net with inbox := t.net.inbox }, sent := t.sent, egress := t.egress } :=
  ht.rest.trans (congrArg (fun x : State =>
    { x with regs := t.regs, dunrel := { x.dunrel with sessions := t.dunrel.sessions }
             net := { x.net with inbox := t.net.inbox }, sent := t.sent, egress := t.egress }) hu.rest)

/-- What a fault code, the violation log and the fault log take of the registers when a violation and its fault are logged. -/
theorem reg_logFault_logViolation {s u t : State} {code : Nat} {v e : List Byte} (hcode : code < 0x20)
    (hu : Told (logViolation s v) u) (ht : Told (logFault u code e) t) :
    reg t Obj.violHead = (reg s Obj.violHead + 1) % 64 ∧
    reg t Obj.faultLogHead = (reg s Obj.faultLogHead + 1) % 64 ∧
    reg t (Obj.faultCount + code) = (reg s (Obj.faultCount + code) + 1) % 2 ^ 32 ∧
    reg t (Obj.faultLog + reg s Obj.faultLogHead % 64) = ofLE e ∧
    ∀ k, k ≠ Obj.violHead → k ≠ Obj.faultLogHead → k ≠ Obj.faultCount + code →
      k ≠ Obj.violLog + reg s Obj.violHead % 64 → k ≠ Obj.faultLog + reg s Obj.faultLogHead % 64 →
      (∀ i : Sess, k ≠ Obj.eventDropped + i.val) → reg t k = reg s k := by
  have hviol (k : Nat) (hh : k ≠ Obj.violHead) (hl : k ≠ Obj.violLog + reg s Obj.violHead % 64)
      (hd : ∀ i : Sess, k ≠ Obj.eventDropped + i.val) : reg u k = reg s k :=
    (hu.reg k hd).trans ((reg_setReg_other _ _ hh).trans (reg_setReg_other s _ hl))
  have hhead : reg u Obj.faultLogHead = reg s Obj.faultLogHead :=
    hviol _ (by decide) (by simp only [Obj.faultLogHead, Obj.violLog]; omega) (ne_eventDropped (by decide))
  have hfault (k : Nat) (hh : k ≠ Obj.faultLogHead) (hc : k ≠ Obj.faultCount + code)
      (hl : k ≠ Obj.faultLog + reg s Obj.faultLogHead % 64) (hd : ∀ i : Sess, k ≠ Obj.eventDropped + i.val) :
      reg t k = reg u k :=
    (ht.reg k hd).trans <| (reg_bump_other _ 1 hc).trans <| (reg_setReg_other _ _ hh).trans <|
      reg_setReg_other u _ (hhead.symm ▸ hl)
  have hsize : keySize (Obj.faultCount + code) = 4 := by
    rw [keySize_add_elem (by simp only [Obj.faultCount]; omega)]
    decide
  refine ⟨?_, ?_, ?_, ?_, fun k hvh hfh hc hvl hfl hd => (hfault k hfh hc hfl hd).trans (hviol k hvh hvl hd)⟩
  · rw [hfault _ (by decide) (by simp only [Obj.violHead, Obj.faultCount]; omega)
      (by simp only [Obj.violHead, Obj.faultLog]; omega) (ne_eventDropped (by decide)), hu.reg _ (ne_eventDropped (by decide))]
    exact reg_setReg_self _ _ _
  · rw [ht.reg _ (ne_eventDropped (by decide)), logFault,
      reg_bump_other _ 1 (by simp only [Obj.faultLogHead, Obj.faultCount]; omega), reg_setReg_self, hhead]
  · have hd := ne_eventDropped (k := Obj.faultCount + code) (Nat.le_add_right_of_le (by decide))
    rw [ht.reg _ hd, logFault, reg_bump_self, reg_setReg_other _ _ (by simp only [Obj.faultLogHead, Obj.faultCount]; omega),
      reg_setReg_other _ _ (by simp only [Obj.faultLog, Obj.faultCount]; omega),
      hviol _ (by simp only [Obj.violHead, Obj.faultCount]; omega) (by simp only [Obj.violLog, Obj.faultCount]; omega) hd, hsize]
  · rw [ht.reg _ (ne_eventDropped (Nat.le_add_right_of_le (by decide))), logFault,
      reg_bump_other _ 1 (by simp only [Obj.faultLog, Obj.faultCount]; omega),
      reg_setReg_other _ _ (by simp only [Obj.faultLogHead, Obj.faultLog]; omega), ← hhead, reg_setReg_self]

/-! #### What a schedule fault does (R294) -/

/-- An operation that faults leaves its core's units, the pipelines, the converters and the port (R294). -/
def leaveUnits (s : State) (l : Core) (idx : Nat) : State :=
  let s := modCore s l fun c => c.faultOp idx
  { s with kv := { s.kv with runs := s.kv.runs.filter fun r => !(r.core == l.val && r.idx == idx)
                             waiting := s.kv.waiting.filter fun r => !(r.core == l.val && r.idx == idx) }
           num := { s.num with tiles := s.num.tiles.filter fun x => !(x.core == l.val && x.op == idx) }
           net := { s.net with colls := s.net.colls.filter fun r => !(r.core == l.val && r.idx == idx) } }

theorem opFault_eq (s : State) (l : Core) (q : Queue) (idx space addr err code : Nat) :
    opFault s l q idx space addr err code =
      let t := reportFault (violation (leaveUnits s l idx) 1 (l.val * 256 + q.num) space addr err []) code 1
        (if code = 0x10 then idx else addr) err l.die.val l.val
      { t with job := { t.job with schedFault := true } } := by
  simp only [opFault, leaveUnits]

/-- A schedule fault: the operation leaves its units, and the violation and the fault are logged and told. -/
theorem opFault_logged (s : State) (l : Core) (q : Queue) (idx space addr err code : Nat) :
    ∃ v u t, Told (logViolation (leaveUnits s l idx) v) u ∧
      Told (logFault u code (faultEntry u code 1 (if code = 0x10 then idx else addr) err l.die.val l.val)) t ∧
      opFault s l q idx space addr err code = { t with job := { t.job with schedFault := true } } := by
  obtain ⟨v, hv⟩ := violation_told (leaveUnits s l idx) 1 (l.val * 256 + q.num) space addr err []
  exact ⟨v, _, _, hv, reportFault_told _ _ _ _ _ _ _, opFault_eq s l q idx space addr err code⟩

/-- What is not logged and not told of a schedule fault. -/
theorem opFault_rest (s : State) (l : Core) (q : Queue) (idx space addr err code : Nat) :
    let t := opFault s l q idx space addr err code
    t = { leaveUnits s l idx with
      regs := t.regs, dunrel := { s.dunrel with sessions := t.dunrel.sessions }
      net := { (leaveUnits s l idx).net with inbox := t.net.inbox }, sent := t.sent, egress := t.egress
      job := { s.job with schedFault := true } } := by
  obtain ⟨v, u, x, hu, hx, heq⟩ := opFault_logged s l q idx space addr err code
  have hrest := logFault_logViolation_rest hu hx
  have hjob : x.job = s.job := (congrArg (fun y : State => y.job) hrest :)
  rw [heq, hjob]
  exact congrArg (fun y : State => { y with job := { s.job with schedFault := true } }) hrest

@[simp] theorem opFault_coreOf (s : State) (l : Core) (q : Queue) (idx space addr err code : Nat) :
    coreOf (opFault s l q idx space addr err code) l = (coreOf s l).faultOp idx := by
  have hrest := opFault_rest s l q idx space addr err code
  generalize opFault s l q idx space addr err code = t at hrest ⊢
  rw [hrest]
  exact coreOf_modCore_self s l fun c => c.faultOp idx

/-! #### The checks of an operation's operands (R208, R293) -/

/-- An operation whose checks pass does what it does. -/
@[simp] theorem orFault_ok (s : State) (l : Core) (q : Queue) (idx : Nat) (t : State) : orFault s l q idx (.ok t) = t := rfl

/-- A check that fails is the operation's fault, whatever would follow it. -/
@[simp] theorem orFault_error_bind {α : Type} (s : State) (l : Core) (q : Queue) (idx : Nat) (e : DescErr × Nat)
    (f : α → Except (DescErr × Nat) State) : orFault s l q idx (Except.error e >>= f) = descFault s l q idx e := rfl

/-- A check that passes gives its descriptor to what follows it. -/
@[simp] theorem ok_check_bind {α β : Type} (a : α) (f : α → Except (DescErr × Nat) β) : (Except.ok a >>= f) = f a := rfl

end Sys2Proof.Machine

namespace Sys2Proof.Slice0
open Sys2Proof.Machine

theorem refusedOperandFaultsAtIssue : RefusedOperandFaultsAtIssue := by
  intro s l idx w e he
  refine ⟨fun hi => ?_, fun hi hg => ?_, fun hi => ?_, fun hi => ?_, fun hi hm => ?_, fun hi hm => ?_, fun hi hm => ?_,
    fun hi => ?_, fun q hq hi => ?_⟩
  · show execCopy l idx s = _
    simp [execCopy, streamWord_of_canIssue hi, hi, he]
  · show execPrefetch l idx s = _
    simp [execPrefetch, streamWord_of_canIssue hi, hi, Nat.not_le.mpr hg, he]
  · show execSave l idx s = _
    simp [execSave, streamWord_of_canIssue hi, hi, he]
  · show execLoad l idx s = _
    simp [execLoad, streamWord_of_canIssue hi, hi, he]
  · show execNormSquares l idx s = _
    simp [execNormSquares, streamWord_of_canIssue hi, hi, hm, he]
  · show execNormAdd l idx s = _
    simp [execNormAdd, streamWord_of_canIssue hi, hi, hm, he]
  · show execNormLayerSums l idx s = _
    simp [execNormLayerSums, streamWord_of_canIssue hi, hi, hm, he]
  · show execAppend l idx s = _
    simp [execAppend, streamWord_of_canIssue hi, hi, he]
  · show execSample l idx s = _
    simp [execSample, streamWord_of_canIssue hi, hi, hq, he]

theorem scheduleFaultHaltsItsCore : ScheduleFaultHaltsItsCore := by
  intro s l q idx space addr err code hcode
  dsimp only
  have hrest := opFault_rest s l q idx space addr err code
  have hcore := opFault_coreOf s l q idx space addr err code
  obtain ⟨v, u, x, hu, hx, heq⟩ := opFault_logged s l q idx space addr err code
  obtain ⟨hvhead, hfhead, hcount, hentry, hregs⟩ := reg_logFault_logViolation hcode hu hx
  generalize opFault s l q idx space addr err code = t at hrest hcore heq ⊢
  have hreg (k : Nat) : reg t k = reg x k := (congrArg (fun y : State => reg y k) heq :)
  rw [hcore]
  refine ⟨rfl, fun f => ?_, fun r => ?_, fun r => ?_, fun c hc => ?_, ?_, ?_, ?_, ?_, ?_, ?_, ?_, ?_, ?_, ?_,
    (hreg _).trans hvhead, (hreg _).trans hfhead, (hreg _).trans hcount, ?entry,
    fun k hvh hfh hc hvl hfl hd => (hreg k).trans (hregs k hvh hfh hc hvl hfl hd)⟩
  · simp only [CoreState.faultOp, List.mem_filter, bne_iff_ne]
  · simp only [CoreState.faultOp, Option.filter_eq_some_iff, bne_iff_ne]
  · simp only [CoreState.faultOp, Option.filter_eq_some_iff, Bool.or_eq_true, bne_iff_ne]
  · rw [hrest]
    exact coreOf_modCore_other s (fun c => c.faultOp idx) hc
  case entry =>
    rw [hreg]
    exact (congrArg (fun n => (leBytes 32 n).drop 24) hentry).trans (drop_faultEntry _ _ _ _ _ _ _)
  all_goals rw [hrest] <;> rfl

/-- Settles O13: each operation's meaning where its first operand is refused, and what a schedule fault logs, tells and leaves. -/
theorem refusedOperandsFaultAtIssue : Obligations.RefusedOperandsFaultAtIssue :=
  ⟨refusedOperandFaultsAtIssue, scheduleFaultHaltsItsCore⟩

end Sys2Proof.Slice0

/-! ### What an operation's issue, requests and stored results leave (R283, R296, R297, R303 to R309, R312) -/

namespace Sys2Proof.Machine

/-- The indices of the objects that issues, requests and stored bytes write: SCHED_OPS, HOTSPOT, STALE, CACHE_HITS, CACHE_MISSES,
CACHE_INVAL and MEM_LOST. -/
def unitIdx : List Nat := [0x2300, 0x2302, 0x2303, 0x2305, 0x2306, 0x2307, 0x3032]

theorem keyIdx_add_core {key : Nat} (l : Core) (hkey : key % 2 ^ 32 = 0) : keyIdx (key + l.val) = keyIdx key := by
  have hl := l.isLt
  exact keyIdx_add_elem (by omega)

/-- A counter of a core is of one of these objects when its object is. -/
theorem core_mem_unitIdx {key : Nat} (l : Core) (hkey : key % 2 ^ 32 = 0) (h : keyIdx key ∈ unitIdx) :
    keyIdx (key + l.val) ∈ unitIdx := by rwa [keyIdx_add_core l hkey]

/-- What the requests of core l's units and the bytes that they store change: memory and its condition, counters, and of the core
neither what it has issued nor what is in flight. -/
structure Tended (l : Core) (s t : State) : Prop where
  rest : t = { s with mem := t.mem, ras := t.ras, cores := t.cores, regs := t.regs }
  flight : (coreOf t l).flight = (coreOf s l).flight
  issued : ∀ i, issuedAt (coreOf t l) i = issuedAt (coreOf s l) i
  reg : ∀ k, keyIdx k ∉ unitIdx → reg t k = reg s k

/-- What requests alone change: no byte and no condition of memory (R303). -/
structure Requested (l : Core) (s t : State) : Prop extends Tended l s t where
  mem : t.mem = s.mem
  ras : t.ras = s.ras

section
variable {l : Core} {s t u : State}

theorem Tended.refl (l : Core) (s : State) : Tended l s s := ⟨rfl, rfl, fun _ => rfl, fun _ _ => rfl⟩

theorem Tended.trans (h : Tended l s t) (k : Tended l t u) : Tended l s u where
  rest := k.rest.trans (congrArg (fun x : State => { x with mem := u.mem, ras := u.ras, cores := u.cores, regs := u.regs }) h.rest)
  flight := k.flight.trans h.flight
  issued i := (k.issued i).trans (h.issued i)
  reg x hx := (k.reg x hx).trans (h.reg x hx)

theorem Tended.kv (h : Tended l s t) : t.kv = s.kv := by rw [h.rest]

theorem Requested.refl (l : Core) (s : State) : Requested l s s := ⟨.refl l s, rfl, rfl⟩

theorem Requested.trans (h : Requested l s t) (k : Requested l t u) : Requested l s u :=
  ⟨h.toTended.trans k.toTended, k.mem.trans h.mem, k.ras.trans h.ras⟩

/-- A core changed in neither what it has issued nor what is in flight. -/
theorem requested_modCore {c : Core} {f : CoreState → CoreState}
    (h : ∀ x, (f x).flight = x.flight ∧ (f x).base = x.base ∧ (f x).ahead = x.ahead) : Requested l s (modCore s c f) := by
  have hcore : (coreOf (modCore s c f) l).flight = (coreOf s l).flight ∧
      ∀ i, issuedAt (coreOf (modCore s c f) l) i = issuedAt (coreOf s l) i := by
    by_cases hl : l = c
    · subst hl
      obtain ⟨hflight, hbase, hahead⟩ := h (coreOf s l)
      rw [coreOf_modCore_self]
      exact ⟨hflight, fun i => by rw [issuedAt, hbase, hahead, issuedAt]⟩
    · rw [coreOf_modCore_other s f hl]
      exact ⟨rfl, fun _ => rfl⟩
  exact ⟨⟨rfl, hcore.1, hcore.2, fun _ _ => rfl⟩, rfl, rfl⟩

theorem requested_bump {k n : Nat} (h : keyIdx k ∈ unitIdx) : Requested l s (bump s k n) :=
  ⟨⟨rfl, rfl, fun _ => rfl, fun _ hx => reg_bump_other s n fun he => hx (he ▸ h)⟩, rfl, rfl⟩

end

/-! #### Results produced, and counters -/

@[simp] theorem markDone_mem (s : State) (l : Core) (idx : Nat) : (markDone s l idx).mem = s.mem := rfl
@[simp] theorem markDone_reg (s : State) (l : Core) (idx k : Nat) : reg (markDone s l idx) k = reg s k := rfl
@[simp] theorem markDone_kv (s : State) (l : Core) (idx : Nat) : (markDone s l idx).kv = s.kv := rfl

theorem bumpIf_eq (s : State) (c : Bool) (k n : Nat) : bumpIf s c k n = { s with regs := (bumpIf s c k n).regs } := by
  cases c <;> rfl

@[simp] theorem bumpIf_mem (s : State) (c : Bool) (k n : Nat) : (bumpIf s c k n).mem = s.mem := by cases c <;> rfl
@[simp] theorem bumpIf_kv (s : State) (c : Bool) (k n : Nat) : (bumpIf s c k n).kv = s.kv := by cases c <;> rfl
@[simp] theorem bumpIf_coreOf (s : State) (c : Bool) (k n : Nat) (l : Core) : coreOf (bumpIf s c k n) l = coreOf s l := by
  cases c <;> rfl

@[simp] theorem countEvals_mem (s : State) (n : Nat) : (countEvals s n).mem = s.mem := rfl
@[simp] theorem countEvals_kv (s : State) (n : Nat) : (countEvals s n).kv = s.kv := rfl
@[simp] theorem countEvals_coreOf (s : State) (n : Nat) (l : Core) : coreOf (countEvals s n) l = coreOf s l := rfl
@[simp] theorem countKey_mem (s : State) : (countKey s).mem = s.mem := rfl
@[simp] theorem countKey_kv (s : State) : (countKey s).kv = s.kv := rfl
@[simp] theorem countKey_coreOf (s : State) (l : Core) : coreOf (countKey s) l = coreOf s l := rfl

@[simp] theorem countFlush_mem (s : State) (c : Core) (n : Nat) : (countFlush s c n).mem = s.mem := bumpIf_mem s _ _ n
@[simp] theorem countFlush_kv (s : State) (c : Core) (n : Nat) : (countFlush s c n).kv = s.kv := bumpIf_kv s _ _ n
@[simp] theorem countFlush_coreOf (s : State) (c : Core) (n : Nat) (l : Core) : coreOf (countFlush s c n) l = coreOf s l :=
  bumpIf_coreOf s _ _ n l

/-- A counter that advances on a condition leaves the other registers as they were. -/
theorem reg_bumpIf_other (s : State) (c : Bool) {k x : Nat} (n : Nat) (h : x ≠ k) : reg (bumpIf s c k n) x = reg s x := by
  cases c
  · rfl
  · exact reg_bump_other s n h

/-! #### Requests (R303 to R305, R308, R309) -/

section
variable (s : State) (l : Core) (idx : Nat) (q : Queue)

theorem countHeld_requested : Requested l s (countHeld s l) := by
  refine List.foldlRecOn _ _ (motive := Requested l s) (.refl l s) fun t ht u _ => ?_
  dsimp only
  split
  case h_1 =>
    split
    case isTrue => exact ht
    case isFalse =>
      refine (ht.trans ?_).trans (requested_bump (core_mem_unitIdx l (by decide) (by decide)))
      exact requested_modCore fun _ => ⟨rfl, rfl, rfl⟩
  case h_2 => exact ht

theorem grant_requested (n : Nat) : Requested l s (grant l n s) := by
  induction n generalizing s with
  | zero => exact .refl l s
  | succ n ih =>
    have hheld := countHeld_requested s l
    unfold grant
    dsimp only
    split
    case isTrue => exact hheld
    case isFalse =>
      split
      case h_1 => exact hheld
      case h_2 =>
        refine (hheld.trans ?_).trans (ih _)
        exact requested_modCore fun _ => ⟨rfl, rfl, rfl⟩

theorem ask_requested (rs : List Request) : Requested l s (ask s l rs) := by
  refine .trans ?_ (grant_requested _ l _)
  exact requested_modCore fun _ => ⟨rfl, rfl, rfl⟩

theorem askRuns_requested (write : Bool) (runs : List (Nat × Nat)) : Requested l s (askRuns s l idx q write runs) :=
  ask_requested s l _

theorem cacheLine_requested (line : Nat) : Requested l s (cacheLine s l idx q line) := by
  unfold cacheLine
  dsimp only
  split
  case isTrue =>
    refine .trans ?_ (requested_bump (core_mem_unitIdx l (by decide) (by decide)))
    exact requested_modCore fun _ => ⟨rfl, rfl, rfl⟩
  case isFalse =>
    refine .trans (.trans ?_ (requested_bump (core_mem_unitIdx l (by decide) (by decide)))) (ask_requested _ l _)
    exact requested_modCore fun _ => ⟨rfl, rfl, rfl⟩

theorem readCached_requested (d : Desc) (runs : List (Nat × Nat)) : Requested l s (readCached s l idx q d runs) := by
  unfold readCached
  dsimp only
  split
  case isTrue => exact askRuns_requested s l idx q false runs
  case isFalse =>
    refine List.foldlRecOn _ _ (motive := Requested l s) ?_ fun t ht x _ => ht.trans (cacheLine_requested t l idx q x)
    split
    case isTrue => exact .refl l s
    case isFalse => exact requested_modCore fun _ => ⟨rfl, rfl, rfl⟩

theorem readRuns_requested (d : Desc) (runs : List (Nat × Nat)) : Requested l s (readRuns s l idx q d runs) := by
  unfold readRuns
  split
  case isTrue => exact readCached_requested s l idx q d runs
  case isFalse => exact askRuns_requested s l idx q false runs

theorem traffic_requested (reads writes : List Desc) : Requested l s (traffic s l idx q reads writes) :=
  .trans (List.foldlRecOn reads _ (motive := Requested l s) (.refl l s) fun t ht d _ =>
    ht.trans (readRuns_requested t l idx q d _)) (ask_requested _ l _)

end

/-! #### Stored bytes (R309, R312, R344, R349) -/

section
variable (s : State) (l : Core)

theorem freshSpan_tended (a n : Nat) : Tended l s (freshSpan s a n) := by
  have hgranule (t : State) (a n g : Nat) : Tended l t (freshGranule t a n g) :=
    ⟨rfl, rfl, fun _ => rfl, fun k hk => reg_setReg_other _ _ fun he => hk (he ▸ by decide)⟩
  unfold freshSpan
  split
  case isTrue =>
    refine List.foldlRecOn _ _ (motive := Tended l s) (.refl l s) fun t ht g _ => ?_
    dsimp only
    split
    case isTrue => exact (ht.trans (hgranule _ _ _ _)).trans (hgranule _ _ _ _)
    case isFalse => exact ht.trans (hgranule _ _ _ _)
  case isFalse => exact .refl l s

theorem noticeCore_tended (a n : Nat) (c : Core) : Tended l s (noticeCore a n s c) := by
  have hlines : Tended l s (if (coreOf s c).windows.any fun w => overlaps a n w.1 w.2 then
      bump (modCore s c fun c => { c with lines := [] }) (Obj.cacheInval + c.val) 1 else s) := by
    split
    case isTrue =>
      refine .trans ?_ (requested_bump (core_mem_unitIdx c (by decide) (by decide))).toTended
      exact Requested.toTended (requested_modCore fun _ => ⟨rfl, rfl, rfl⟩)
    case isFalse => exact .refl l s
  unfold noticeCore
  dsimp only
  split
  case isTrue => exact hlines
  case isFalse =>
    refine (hlines.trans ?_).trans (requested_bump (core_mem_unitIdx c (by decide) (by decide))).toTended
    exact Requested.toTended (requested_modCore fun _ => ⟨rfl, rfl, rfl⟩)

theorem notice_tended (a n : Nat) : Tended l s (notice s a n) := by
  unfold notice
  split
  case isTrue => exact .refl l s
  case isFalse =>
    exact List.foldlRecOn _ _ (motive := Tended l s) (.refl l s) fun t ht c _ => ht.trans (noticeCore_tended t l a n c)

theorem writeBytes_tended (a : Nat) (b : List Byte) : Tended l s (writeBytes s a b) := by
  unfold writeBytes
  split
  case isTrue => exact .refl l s
  case isFalse =>
    refine .trans (.trans ?_ (freshSpan_tended _ l a b.length)) (notice_tended _ l a b.length)
    exact ⟨rfl, rfl, fun _ => rfl, fun _ _ => rfl⟩

theorem writeLE_tended (a n v : Nat) : Tended l s (writeLE s a n v) := writeBytes_tended s l a _

theorem putCode_tended (d : Desc) (i k v : Nat) : Tended l s (putCode s d i k v) := writeLE_tended s l _ _ _

end

/-! #### Issue (R283, R296) -/

/-- Retiring the issued operations from the front of the window changes none of those that have issued. -/
theorem advance_issued (base : Nat) (ahead : List Nat) (n i : Nat) :
    (i < (advance base ahead n).1 ∨ i ∈ (advance base ahead n).2) ↔ (i < base ∨ i ∈ ahead) := by
  induction n generalizing base ahead with
  | zero => exact Iff.rfl
  | succ n ih =>
    unfold advance
    split
    case isTrue h =>
      have hbase : base ∈ ahead := by simpa using h
      rw [ih, List.mem_filter, bne_iff_ne]
      constructor
      · rintro (hlt | ⟨hmem, -⟩)
        · obtain hlt | rfl : i < base ∨ i = base := by omega
          · exact .inl hlt
          · exact .inr hbase
        · exact .inr hmem
      · rintro (hlt | hmem)
        · exact .inl (by omega)
        · by_cases he : i = base
          · exact .inl (by omega)
          · exact .inr ⟨hmem, he⟩
    case isFalse => exact Iff.rfl

theorem issuedAt_iff (c : CoreState) (i : Nat) : issuedAt c i = true ↔ i < c.base ∨ i ∈ c.ahead := by
  simp only [issuedAt, Bool.or_eq_true, decide_eq_true_eq, List.contains_iff_mem]

section
variable (s : State) (l : Core) (idx : Nat) (w : BitVec 256) (op : Opcode) (fly : Bool)

@[simp] theorem issue_flight : (coreOf (issue s l idx w op fly) l).flight =
    if fly then (coreOf s l).flight ++ [{ idx := idx, word := w, queue := op.queue }] else (coreOf s l).flight := by
  rw [issue, bump_coreOf, coreOf_modCore_self]

@[simp] theorem issue_tokens : (coreOf (issue s l idx w op fly) l).tokens =
    if opConsume w then clearMask (coreOf s l).tokens (opWaits w) else (coreOf s l).tokens := by
  rw [issue, bump_coreOf, coreOf_modCore_self]

@[simp] theorem issue_halted : (coreOf (issue s l idx w op fly) l).halted = (coreOf s l).halted := by
  rw [issue, bump_coreOf, coreOf_modCore_self]

@[simp] theorem issue_guards :
    (coreOf (issue s l idx w op fly) l).guards = (coreOf s l).guards.filter fun g => g.consumer != idx := by
  rw [issue, bump_coreOf, coreOf_modCore_self]

/-- Operation idx has issued, and beside it those that had (R283). -/
theorem issue_issued_iff (i : Nat) :
    issuedAt (coreOf (issue s l idx w op fly) l) i = true ↔ i = idx ∨ issuedAt (coreOf s l) i = true := by
  rw [issue, bump_coreOf, coreOf_modCore_self, issuedAt_iff, issuedAt_iff]
  exact (advance_issued _ _ _ i).trans (by rw [List.mem_cons]; exact or_left_comm)

theorem issue_coresBut : Slice0.CoresBut s (issue s l idx w op fly) l := fun c hc => by
  rw [issue, bump_coreOf]
  exact coreOf_modCore_other s _ hc

end

/-- An operation of the core is in flight. -/
def Flying (s : State) (l : Core) (idx : Nat) : Prop := ∃ f ∈ (coreOf s l).flight, f.idx = idx

/-- Operation idx of core l has issued into flight, and its requests are made: from s to t cores and counters have changed. -/
structure Begun (l : Core) (idx : Nat) (s t : State) : Prop where
  rest : t = { s with cores := t.cores, regs := t.regs }
  flying : Flying t l idx
  issued : issuedAt (coreOf t l) idx = true
  reg : ∀ k, keyIdx k ∉ unitIdx → reg t k = reg s k

theorem issue_begun (s : State) (l : Core) (idx : Nat) (w : BitVec 256) (op : Opcode) :
    Begun l idx s (issue s l idx w op true) where
  rest := rfl
  flying := ⟨{ idx := idx, word := w, queue := op.queue }, by simp only [issue_flight, if_true, List.mem_append,
    List.mem_singleton, or_true], rfl⟩
  issued := (issue_issued_iff s l idx w op true idx).mpr (.inl rfl)
  reg k hk := reg_bump_other (modCore s l _) 1 fun he => hk (he ▸ core_mem_unitIdx l (by decide) (by decide))

section
variable {l : Core} {idx : Nat} {s t u : State}

theorem Flying.tended (h : Flying t l idx) (k : Tended l t u) : Flying u l idx := by
  unfold Flying
  rwa [k.flight]

theorem Flying.of_coreOf (h : Flying t l idx) (hc : coreOf u l = coreOf t l) : Flying u l idx := by
  unfold Flying
  rwa [hc]

/-- An operation in flight whose results are then produced. -/
theorem Flying.markDone (h : Flying t l idx) : Slice0.InFlightDone (markDone t l idx) l idx := by
  obtain ⟨f, hf, hidx⟩ := h
  refine ⟨{ f with done := true }, ?_, hidx, rfl⟩
  simp only [Machine.markDone, modFlight, coreOf_modCore_self]
  exact List.mem_map.mpr ⟨f, hf, if_pos hidx⟩

theorem Begun.trans (h : Begun l idx s t) (k : Requested l t u) : Begun l idx s u where
  rest := by
    have hu : u = { t with cores := u.cores, regs := u.regs } := by
      have hrest := k.rest
      rwa [k.mem, k.ras] at hrest
    exact hu.trans (congrArg (fun x : State => { x with cores := u.cores, regs := u.regs }) h.rest)
  flying := h.flying.tended k.toTended
  issued := (k.issued idx).trans h.issued
  reg x hx := (k.reg x hx).trans (h.reg x hx)

theorem Begun.mem (h : Begun l idx s t) : t.mem = s.mem := by rw [h.rest]
theorem Begun.ras (h : Begun l idx s t) : t.ras = s.ras := by rw [h.rest]
theorem Begun.num (h : Begun l idx s t) : t.num = s.num := by rw [h.rest]
theorem Begun.kv (h : Begun l idx s t) : t.kv = s.kv := by rw [h.rest]
theorem Begun.job (h : Begun l idx s t) : t.job = s.job := by rw [h.rest]

/-- What is done once an operation's results are produced leaves what has issued. -/
theorem markDone_issued (s : State) (l : Core) (idx i : Nat) :
    issuedAt (coreOf (markDone s l idx) l) i = issuedAt (coreOf s l) i := by
  rw [markDone, modFlight, coreOf_modCore_self]
  rfl

end

/-- An operation that issues and makes its requests (R296, R303). -/
theorem traffic_begun (s : State) (l : Core) (idx : Nat) (w : BitVec 256) (op : Opcode) (q : Queue) (reads writes : List Desc) :
    Begun l idx s (traffic (issue s l idx w op true) l idx q reads writes) :=
  (issue_begun s l idx w op).trans (traffic_requested _ l idx q reads writes)

/-! #### What is read and stored once an operation has begun -/

section
variable {l : Core} {idx : Nat} {s t u : State}

theorem readByte_of_begun (h : Begun l idx s t) (a : Nat) : readByte t a = readByte s a := by
  have hchan (o : Nat) (ho : o < 0x400) : reg t (Obj.memChanState + o / 8) = reg s (Obj.memChanState + o / 8) :=
    h.reg _ (by rw [keyIdx_add_elem (by simp only [Obj.memChanState]; omega)]; decide)
  simp only [readByte, statusByte, h.ras, h.mem]
  split
  case isTrue =>
    split
    case isTrue ho => rw [hchan _ ho]
    case isFalse => rfl
  case isFalse => rfl

theorem readBytes_of_begun (h : Begun l idx s t) (a n : Nat) : readBytes t a n = readBytes s a n := by
  induction n generalizing a with
  | zero => rfl
  | succ n ih => rw [readBytes, readByte_of_begun h, ih, readBytes]

theorem w32Elem_of_begun (h : Begun l idx s t) (d : Desc) (width i k : Nat) : w32Elem t d width i k = w32Elem s d width i k := by
  simp only [w32Elem, readW32, readLE, readBytes_of_begun h]

end

/-- Two states in which a write does the same to memory: they hold the same bytes under the same address map (R328, R342). -/
structure SameBytes (s t : State) : Prop where
  mem : t.mem = s.mem
  interleave : ∀ i < 16, reg t (Obj.memInterleave + i) = reg s (Obj.memInterleave + i)
  mirror : ∀ i < 16, reg t (Obj.mirrorRange + i) = reg s (Obj.mirrorRange + i)

theorem sameBytes_of_regs {s t : State} (hmem : t.mem = s.mem) (hreg : ∀ k, keyIdx k ∉ unitIdx → reg t k = reg s k) :
    SameBytes s t where
  mem := hmem
  interleave i hi := hreg _ (by rw [keyIdx_add_elem (by simp only [Obj.memInterleave]; omega)]; decide)
  mirror i hi := hreg _ (by rw [keyIdx_add_elem (by simp only [Obj.mirrorRange]; omega)]; decide)

theorem Begun.sameBytes {l : Core} {idx : Nat} {s t : State} (h : Begun l idx s t) : SameBytes s t :=
  sameBytes_of_regs h.mem h.reg

section
variable {s t : State} (h : SameBytes s t)
include h

theorem groupFull_of_sameBytes (a : Nat) : groupFull t a = groupFull s a := by
  rw [groupFull, h.interleave _ (Nat.mod_lt _ (by decide)), groupFull]

theorem isMirrored_of_sameBytes (a : Nat) : isMirrored t a = isMirrored s a := by
  have hrange : mirrorRange t a = mirrorRange s a :=
    congrArg (List.find? _) (List.map_congr_left fun i hi => by rw [h.mirror i (List.mem_range.mp hi)])
  rw [isMirrored, hrange, isMirrored]

theorem spanMirrored_of_sameBytes (a n : Nat) : spanMirrored t a n = spanMirrored s a n := by
  have hranges : ((List.range 16).map fun i => reg t (Obj.mirrorRange + i)) =
      (List.range 16).map fun i => reg s (Obj.mirrorRange + i) :=
    List.map_congr_left fun i hi => h.mirror i (List.mem_range.mp hi)
  simpa only [spanMirrored, List.any_map, Function.comp_def] using
    congrArg (fun vs => decide (a < memEnd) && List.any vs fun v => overlaps a n (v % 2 ^ 64) (v / 2 ^ 64)) hranges

theorem mirrorBytes_of_sameBytes (m : Mem) (a : Nat) (b : List Byte) : mirrorBytes t m a b = mirrorBytes s m a b := by
  induction b generalizing m a with
  | nil => rfl
  | cons x r ih => rw [mirrorBytes, isMirrored_of_sameBytes h, groupFull_of_sameBytes h, ih, mirrorBytes]

/-- A write does the same to memory in both states, and leaves them so. -/
theorem sameBytes_writeBytes (a : Nat) (b : List Byte) : SameBytes (writeBytes s a b) (writeBytes t a b) := by
  have hs := writeBytes_tended s 0 a b
  have ht := writeBytes_tended t 0 a b
  refine ⟨?_, fun i hi => ?_, fun i hi => ?_⟩
  · simp only [writeBytes_mem, h.mem, spanMirrored_of_sameBytes h, mirrorBytes_of_sameBytes h]
  · have hkey : keyIdx (Obj.memInterleave + i) ∉ unitIdx := by
      rw [keyIdx_add_elem (by simp only [Obj.memInterleave]; omega)]
      decide
    rw [ht.reg _ hkey, hs.reg _ hkey, h.interleave i hi]
  · have hkey : keyIdx (Obj.mirrorRange + i) ∉ unitIdx := by
      rw [keyIdx_add_elem (by simp only [Obj.mirrorRange]; omega)]
      decide
    rw [ht.reg _ hkey, hs.reg _ hkey, h.mirror i hi]

theorem sameBytes_foldl {α : Type} {f : State → α → State} (hf : ∀ u v x, SameBytes u v → SameBytes (f u x) (f v x))
    (xs : List α) : SameBytes (xs.foldl f s) (xs.foldl f t) := by
  induction xs generalizing s t with
  | nil => exact h
  | cons x xs ih => exact ih (hf s t x h)

end

/-- What stands where it was stored is a matter of memory alone. -/
theorem stored_of_mem {s t u : State} {a : Nat} {b : List Byte} (h : Slice0.Stored s t a b) (hmem : u.mem = t.mem) :
    Slice0.Stored s u a b := by
  unfold Slice0.Stored at h ⊢
  rwa [hmem]

/-- What is stored once an operation has begun stands in memory, and nothing else changes there (R343). -/
theorem Begun.stored {l : Core} {idx : Nat} {s t : State} {a : Nat} {b : List Byte} (h : Begun l idx s t) (hmem : s.MemOk)
    (hm : spanMirrored s a b.length = false) : Slice0.Stored s (writeBytes t a b) a b :=
  stored_of_mem (stored_writeBytes hmem hm) (sameBytes_writeBytes h.sameBytes a b).mem

end Sys2Proof.Machine

/-! ### COPY, PREFETCH, NORM and the dropout FILL (R186, R187, R225, R228, R310, R311) -/

namespace Sys2Proof.Machine

/-- The bytes of a region laid into a region: as many as both hold. -/
theorem putRowBytes_of_regions (s t : State) {src dst : Desc} (hs : src.kind = 1) (hd : dst.kind = 1) :
    putRowBytes t dst (rowBytesOf s src) = writeBytes t dst.base ((readBytes s src.base src.dim0).take dst.dim0) := by
  simp only [putRowBytes, rowBytesOf, hs, hd, if_true]

theorem length_take_readBytes (s : State) (src dst : Desc) :
    ((readBytes s src.base src.dim0).take dst.dim0).length = min dst.dim0 src.dim0 := by
  rw [List.length_take, length_readBytes]

theorem length_accBytes (x : NormAcc) : x.bytes.length = 88 := by
  simp only [NormAcc.bytes, List.length_append, length_leBytes]

/-- A counter of Sloe's evaluations that advances twice (R241). -/
theorem reg_countEvals_countKey (s : State) (n : Nat) :
    reg (countEvals (countKey s) n) Obj.sloeEvals = (reg s Obj.sloeEvals + 1 + n) % 2 ^ 64 := by
  have hsize : keySize Obj.sloeEvals = 8 := by decide
  rw [countEvals, reg_bump_self, countKey, countEvals, reg_bump_self, hsize, Nat.mod_add_mod]

/-- Bytes stored by an operation that has begun are all its results: they stand in memory, and it is in flight with them
produced. -/
theorem Begun.storedDone {l : Core} {idx : Nat} {s t : State} {a : Nat} {b : List Byte} (h : Begun l idx s t) (hmem : s.MemOk)
    (hm : spanMirrored s a b.length = false) :
    Slice0.Stored s (markDone (writeBytes t a b) l idx) a b ∧ Slice0.InFlightDone (markDone (writeBytes t a b) l idx) l idx :=
  ⟨stored_of_mem (h.stored hmem hm) (markDone_mem _ l idx), (h.flying.tended (writeBytes_tended t l a b)).markDone⟩

section
variable {s : State} {l : Core} {idx : Nat} {w : BitVec 256} {src dst : Desc}

section
variable (hs : operand! s l (opArg w 0) = .ok src) (hd : dest! s l (opArg w 1) = .ok dst)
include hs hd

/-- The meaning of COPY for an operation that may issue and whose operands are in order. -/
theorem execCopy_of_canIssue (hi : canIssue s l idx w .copy = true) :
    let runs := if bitOf (opFlags w) 1 then descRuns else dataRuns
    let u := copyData (askRuns (readRuns (issue s l idx w .copy true) l idx .gutter src (runs src)) l idx .gutter true (runs dst))
      src dst (bitOf (opFlags w) 0) (bitOf (opFlags w) 1)
    execCopy l idx s = .next (if bitOf (opFlags w) 0 then modCore u l fun c => { c with
      published := (dst.base, 0) :: (c.published.filter fun p => p.1 != dst.base) } else markDone u l idx) := by
  simp [execCopy, streamWord_of_canIssue hi, hi, hs, hd]

/-- The meaning of PREFETCH for an operation that may issue, with a comparator free and its operands in order. -/
theorem execPrefetch_of_canIssue (hi : canIssue s l idx w .prefetch = true) (hfree : comparators (coreOf s l) < 64) :
    let u := modCore (issue s l idx w .prefetch true) l fun c => { c with guards := c.guards ++
      [{ op := idx, consumer := idx + opImm w 15 0, base := src.base, len := src.spanBytes, buffer := dst.base }] }
    let v := askRuns u l idx .prefetch false (dataRuns src)
    execPrefetch l idx s = .next (markDone (putRowBytes v dst (rowBytesOf v src)) l idx) := by
  simp [execPrefetch, streamWord_of_canIssue hi, hi, Nat.not_le.mpr hfree, hs, hd]

/-- The meaning of NORM in mode 0 for an operation that may issue and whose operands are in order. -/
theorem execNormSquares_of_canIssue (hi : canIssue s l idx w .norm = true) (hm : opImm w 1 0 = 0) :
    execNormSquares l idx s = .next (markDone (writeBytes (traffic (issue s l idx w .norm true) l idx .valley [src] [dst]) dst.base
      ((w32All s src).foldl NormAcc.square (parseAcc (readBytes s dst.base 88))).bytes) l idx) := by
  simp [execNormSquares, streamWord_of_canIssue hi, hi, hm, hs, hd]

/-- The meaning of NORM in mode 1 for an operation that may issue and whose operands are in order. -/
theorem execNormAdd_of_canIssue (hi : canIssue s l idx w .norm = true) (hm : opImm w 1 0 = 1) :
    execNormAdd l idx s = .next (markDone (writeBytes (traffic (issue s l idx w .norm true) l idx .valley [src] [dst]) dst.base
      ((parseAcc (readBytes s dst.base 88)).add (parseAcc (readBytes s src.base 88))).bytes) l idx) := by
  simp [execNormAdd, streamWord_of_canIssue hi, hi, hm, hs, hd]

end

/-- The index of a draw depends on the image alone (R225). -/
theorem drawIndex_of_begun {t : State} (h : Begun l idx s t) (c : Core) (i : Nat) : drawIndex t c i = drawIndex s c i := by
  funext n
  rw [drawIndex, h.job, drawIndex]

/-- The meaning of FILL of a dropout mask for an operation that may issue and whose destination is in order. -/
theorem execFillDropout_of_canIssue (hd : dest! s l (opArg w 0) false = .ok dst) (hi : canIssue s l idx w .fill = true)
    (hp : fillPurpose w = 1) :
    let b := (List.range ((fillCount dst true + 7) / 8)).map
      (maskByte (fillDraw s dst w) (drawIndex s l idx) (opImm w 63 32) (fillCount dst true))
    execFillDropout l idx s = .next (markDone (countEvals (countKey
      (writeBytes (traffic (issue s l idx w .fill true) l idx .sloe [] [dst]) dst.base b)) ((fillCount dst true + 3) / 4)) l idx) := by
  simp [execFillDropout, streamWord_of_canIssue hi, hi, hp, hd,
    drawIndex_of_begun (traffic_begun s l idx w .fill .sloe [] [dst])]

end

end Sys2Proof.Machine

namespace Sys2Proof.Slice0
open Sys2Proof.Machine

/-- Settles O12: each operation has begun when it stores its bytes, so they are all that its command stores. -/
theorem engineOperationsStoreTheirResults : Obligations.EngineOperationsStoreTheirResults := by
  intro s l idx w hmem
  refine ⟨fun src dst hs hd => ⟨fun hi h0 h1 hsk hdk hm => ?_, fun hi => execCopy_of_canIssue hs hd hi,
    fun hi hfree => execPrefetch_of_canIssue hs hd hi hfree, fun hi hfree hsk hdk hm => ?_, fun hi hmode hm => ?_,
    fun hi hmode hm => ?_⟩, fun hi hp d hd hm => ?_⟩
  · have hbegun : Begun l idx s (askRuns (readRuns (issue s l idx w .copy true) l idx .gutter src (dataRuns src)) l idx
        .gutter true (dataRuns dst)) :=
      ((issue_begun s l idx w .copy).trans (readRuns_requested _ l idx .gutter src _)).trans
        (askRuns_requested _ l idx .gutter true _)
    refine ⟨_, (execCopy_of_canIssue hs hd hi).trans ?_, hbegun.storedDone hmem (by rwa [length_take_readBytes])⟩
    simp only [h0, h1, copyData, Bool.false_eq_true, if_false, putRowBytes_of_regions _ _ hsk hdk, readBytes_of_begun hbegun]
  · have hbegun := ((issue_begun s l idx w .prefetch).trans (requested_modCore (c := l) (f := fun c => { c with
      guards := c.guards ++ [{ op := idx, consumer := idx + opImm w 15 0, base := src.base, len := src.spanBytes,
                               buffer := dst.base }] })
      fun _ => ⟨rfl, rfl, rfl⟩)).trans (askRuns_requested _ l idx .prefetch false (dataRuns src))
    refine ⟨_, (execPrefetch_of_canIssue hs hd hi hfree).trans ?_, hbegun.storedDone hmem (by rwa [length_take_readBytes])⟩
    simp only [putRowBytes_of_regions _ _ hsk hdk, readBytes_of_begun hbegun]
  · exact ⟨_, execNormSquares_of_canIssue hs hd hi hmode,
      (traffic_begun s l idx w .norm .valley [src] [dst]).storedDone hmem (by rwa [length_accBytes])⟩
  · exact ⟨_, execNormAdd_of_canIssue hs hd hi hmode,
      (traffic_begun s l idx w .norm .valley [src] [dst]).storedDone hmem (by rwa [length_accBytes])⟩
  · have hbegun := traffic_begun s l idx w .fill .sloe [] [d]
    refine ⟨_, execFillDropout_of_canIssue hd hi hp,
      stored_of_mem (hbegun.stored hmem (by rwa [List.length_map, List.length_range])) (by simp),
      ((hbegun.flying.tended (writeBytes_tended _ l d.base _)).of_coreOf
        ((countEvals_coreOf _ _ l).trans (countKey_coreOf _ l))).markDone, ?_⟩
    have hevals : keyIdx Obj.sloeEvals ∉ unitIdx := by decide
    exact (reg_countEvals_countKey _ _).trans
      (by rw [(writeBytes_tended _ l _ _).reg _ hevals, hbegun.reg _ hevals])

end Sys2Proof.Slice0

/-! ### ATTN, SAMPLE, OPTSTEP and NORM of layer sums (R190, R192, R194, R195, R200, R242, R254, R278, R279) -/

namespace Sys2Proof.Machine

theorem freePipe_lt {s : State} {d : Die} {q : Nat} (h : freePipe s d = some q) : q < 32 := by
  have hd := d.isLt
  obtain ⟨i, hi, rfl⟩ := List.mem_map.mp (List.mem_of_find?_eq_some h)
  have hi := List.mem_range.mp hi
  omega

/-! #### ATTN (R242, R254) -/

section
variable (s : State) (l : Core) (idx : Nat) (a : AttnOp)

theorem AttnOp.load_requested (vals : Bool) (js : List Nat) : Requested l s (AttnOp.load s l idx a vals js) := by
  unfold AttnOp.load
  dsimp only
  split
  case h_1 => exact readRuns_requested s l idx .quince _ _
  case h_2 => exact askRuns_requested s l idx .quince false _

theorem AttnOp.stateTraffic_requested (i : Nat) : Requested l s (AttnOp.stateTraffic s l idx a i) := by
  refine .trans ?_ (askRuns_requested _ l idx .quince true _)
  split
  case isTrue => exact .refl l s
  case isFalse => exact askRuns_requested s l idx .quince false _

theorem AttnOp.traffic_requested (fed : List Nat) : Requested l s (AttnOp.traffic s l idx a fed) := by
  refine .trans (.trans (.trans ?_ (Machine.traffic_requested _ l idx .quince _ _))
    (List.foldlRecOn _ _ (motive := Requested l _) (.refl l _) fun t ht x _ => ?_)) (Machine.traffic_requested _ l idx .quince _ _)
  · split
    case h_1 => exact askRuns_requested s l idx .quince false _
    case h_2 => exact .refl l s
  · exact ht.trans ((AttnOp.load_requested t l idx a false _).trans
      ((AttnOp.load_requested _ l idx a true _).trans (AttnOp.stateTraffic_requested _ l idx a _)))

end

/-- The run of an attention operation as it takes its pipeline. -/
def attnRun (s : State) (l : Core) (idx q : Nat) (w : BitVec 256) (a : AttnOp) : QRun :=
  { pipe := q, core := l.val, idx := idx, word := w, fed := (a.blocks s).1 }

/-- An attention operation's requests made, and the blocks that it skips counted. -/
def attnAsked (s : State) (l : Core) (idx q : Nat) (w : BitVec 256) (a : AttnOp) : State :=
  bumpIf (AttnOp.traffic (issue s l idx w .attn true) l idx a (a.blocks s).1) ((a.blocks s).2 != 0)
    (Obj.quinceBlocksSkipped + q) (a.blocks s).2

/-- A run put on its pipeline. -/
def takePipe (s : State) (r : QRun) : State := { s with kv := { s.kv with runs := s.kv.runs ++ [r] } }

section
variable {s : State} {l : Core} {idx q : Nat} {w : BitVec 256} {a : AttnOp}

/-- The meaning of ATTN for an operation in order, with a pipeline free. -/
theorem execAttn_of_canIssue (hq : freePipe s l.die = some q) (hi : canIssue s l idx w .attn = true)
    (ha : loadAttn s l w = .ok a) (hfin : w32IsFin a.b.sigma = true) (hpos : w32Lt 0#32 a.b.sigma = true)
    (hscale : scaleOk a.scale = true) (hwalk : a.walkOver = false) :
    let r := attnRun s l idx q w a
    let u := takePipe (attnAsked s l idx q w a) r
    execAttn l idx s = .next (if (a.blocks s).1.isEmpty then finishAttn u l a r else u) := by
  simp [execAttn, streamWord_of_canIssue hi, hq, hi, ha, hfin, hpos, hscale, hwalk, attnRun, attnAsked, takePipe]

/-- What an attention operation's issue leaves: the rest of the state, the operation in flight, and the count of skipped blocks. -/
theorem attnAsked_spec (s : State) (l : Core) (idx : Nat) {q : Nat} (w : BitVec 256) (a : AttnOp) (hq : q < 32) :
    let u := attnAsked s l idx q w a
    u = { s with cores := u.cores, regs := u.regs } ∧ Flying u l idx ∧ issuedAt (coreOf u l) idx = true ∧
      reg u (Obj.quinceBlocksSkipped + q) = (if (a.blocks s).2 = 0 then reg s (Obj.quinceBlocksSkipped + q)
        else (reg s (Obj.quinceBlocksSkipped + q) + (a.blocks s).2) % 2 ^ 64) := by
  have hbegun : Begun l idx s (AttnOp.traffic (issue s l idx w .attn true) l idx a (a.blocks s).1) :=
    (issue_begun s l idx w .attn).trans (AttnOp.traffic_requested _ l idx a _)
  have hlow : Obj.quinceBlocksSkipped % 2 ^ 32 + q < 2 ^ 32 := by simp only [Obj.quinceBlocksSkipped]; omega
  have hsize : keySize (Obj.quinceBlocksSkipped + q) = 8 := by
    rw [keySize_add_elem hlow]
    decide
  have hreg := hbegun.reg (Obj.quinceBlocksSkipped + q) (by rw [keyIdx_add_elem hlow]; decide)
  unfold attnAsked
  generalize AttnOp.traffic (issue s l idx w .attn true) l idx a (a.blocks s).1 = v at hbegun hreg
  refine ⟨?_, hbegun.flying.of_coreOf (bumpIf_coreOf _ _ _ _ l), ?_, ?_⟩
  · have hrest := hbegun.rest
    rw [bumpIf_eq, hrest]
  · rw [bumpIf_coreOf, hbegun.issued]
  · by_cases hskip : (a.blocks s).2 = 0
    · simp only [hskip, bumpIf, bne_self_eq_false, Bool.false_eq_true, if_false, if_true, hreg]
    · rw [if_neg hskip, bumpIf, if_pos (bne_iff_ne.mpr hskip), reg_bump_self, hsize, hreg]

theorem addMass_tended (s : State) (l : Core) (d : Die) (m : List (Nat × Nat)) : Tended l s (addMass s d m) :=
  List.foldlRecOn m _ (motive := Tended l s) (.refl l s) fun t ht _ _ => ht.trans (writeLE_tended t l _ _ _)

/-- The end of an attention operation in flight produces its results (R251). -/
theorem finishAttn_inFlightDone {s : State} {l : Core} {r : QRun} (a : AttnOp) (h : Flying s l r.idx) :
    Slice0.InFlightDone (finishAttn s l a r) l r.idx := by
  unfold finishAttn
  refine Flying.markDone (.tended (.of_coreOf (.tended (.tended (.tended h (writeBytes_tended s l a.out.base _))
    (writeBytes_tended _ l a.lse.base _)) (writeLE_tended _ l a.status.base 8 _)) (bumpIf_coreOf _ _ _ _ l))
    (addMass_tended _ l l.die r.mass))

/-! #### SAMPLE (R278, R279) -/

/-- The seed, the step and the base counter of a draw depend on no operation (R220 to R224). -/
theorem drawOf_of_begun {t : State} (h : Begun l idx s t) {purpose : Nat} (hp : purpose < 2 ^ 32) (ident draw step : Nat) :
    drawOf t purpose ident draw step = drawOf s purpose ident draw step := by
  have hbase : reg t (Obj.sloeBase + purpose) = reg s (Obj.sloeBase + purpose) :=
    h.reg _ (by rw [keyIdx_add_elem (by simp only [Obj.sloeBase]; omega)]; decide)
  rw [drawOf, h.job, hbase, drawOf]

/-- The sampling record of a sequence on a core's die. -/
def sampleRecord (s : State) (l : Core) (e : Nat) : Nat := thatchAddr l.die + s.kv.sampleRecords + 16 * (seqAt s e).srec

/-- The token that an operation draws, and whether the sample is invalid (R279). -/
def drawnToken (s : State) (l : Core) (e p : Nat) (z : Desc) : Nat × Bool :=
  sampleToken ((List.range z.dim0).map fun k => w32Elem s z z.dim0 0 k) (readW32 s (sampleRecord s l e))
    (readLE s (sampleRecord s l e + 4) 4) ((drawOf s 3 z.ident 0 0).eval ((seqAt s e).id % 2 ^ 40 * 2 ^ 24 + p % 2 ^ 24))

/-- A token kept for the response record, and the run that drew it on its pipeline (R278). -/
def keepToken (s : State) (r : QRun) (x : Sampled) : State :=
  { s with kv := { s.kv with runs := s.kv.runs ++ [r], sampled := s.kv.sampled ++ [x] } }

@[simp] theorem keepToken_mem (s : State) (r : QRun) (x : Sampled) : (keepToken s r x).mem = s.mem := rfl
@[simp] theorem keepToken_coreOf (s : State) (r : QRun) (x : Sampled) (l : Core) : coreOf (keepToken s r x) l = coreOf s l := rfl

/-- The meaning of SAMPLE for an operation in order, with a pipeline free. -/
theorem execSample_of_canIssue {z out : Desc} (hq : freePipe s l.die = some q) (hi : canIssue s l idx w .sample = true)
    (hz : operand! s l (opArg w 0) = .ok z) (hout : dest! s l (opArg w 1) = .ok out)
    (hrec : sampleRecordOk (readW32 s (sampleRecord s l (opImm w 12 0)))
      (readLE s (sampleRecord s l (opImm w 12 0) + 4) 4) = true) :
    let y := drawnToken s l (opImm w 12 0) (opImm w 63 40) z
    let u := writeLE (traffic (issue s l idx w .sample true) l idx .quince [z] [out]) out.base 4 y.1
    execSample l idx s = .next (markDone (keepToken (countEvals (countKey (bumpIf u y.2 (Obj.quinceSampleInvalid + q) 1)) 1)
      { pipe := q, core := l.val, idx := idx, word := w, sampling := true }
      { entry := opImm w 12 0, pos := opImm w 63 40, token := y.1 }) l idx) := by
  have hbegun := traffic_begun s l idx w .sample .quince [z] [out]
  unfold sampleRecord at hrec
  simp [execSample, streamWord_of_canIssue hi, hq, hi, hz, hout, hrec, w32Elem_of_begun hbegun,
    drawOf_of_begun hbegun (show 3 < 2 ^ 32 by decide), drawnToken, sampleRecord, keepToken]

/-! #### OPTSTEP and NORM of layer sums (R190, R192, R194, R195, R200) -/

/-- An optimizer step waits for G (R190). -/
theorem execOptstep_of_norm_unknown (l : Core) (idx : Nat) (h : s.num.norm.known = false) : execOptstep l idx s = .next s := by
  unfold execOptstep
  split
  case h_1 => rfl
  case h_2 => rw [h, Bool.not_false, Bool.or_true, if_pos rfl]

/-- The meaning of OPTSTEP once G is known, for an operation in order. -/
theorem execOptstep_of_canIssue {a : OptArgs} (hi : canIssue s l idx w .optstep = true) (hk : s.num.norm.known = true)
    (ha : optArgs s l w = .ok a) :
    let ha := hyperAddr s (opImm w 19 12)
    let h := parseHyper (readBytes s ha 64)
    hyperOk s ha h = true → (h.algo ≠ 2 → a.v8.isSome = true ∧ a.vrec.isSome = true) →
    let v := if h.algo = 2 then [] else a.v8.toList
    let u := advanceHyper (traffic (issue s l idx w .optstep true) l idx .damson
      ([a.grad, a.w16, a.rm8, a.m8] ++ v) ([a.w16, a.rm8, a.m8] ++ v)) ha h
    execOptstep l idx s = .next (markDone (if normBad u.1.num.norm then skipUpdate u.1 a (opImm w 11 0)
      else applyUpdate u.1 l a u.2 (learningRate s ha h) (opImm w 11 0)) l idx) := by
  intro hyper h hok hv
  have hguard : (!hyperOk s hyper h || (h.algo != 2 && (a.v8.isNone || a.vrec.isNone))) = false := by
    by_cases halgo : h.algo = 2
    · simp [hok, halgo]
    · obtain ⟨hv8, hvrec⟩ := hv halgo
      simp [hok, Option.isNone_eq_false_iff.mpr hv8, Option.isNone_eq_false_iff.mpr hvrec]
  simp only [execOptstep, streamWord_of_canIssue hi, hi, hk, ha, Bool.not_true, Bool.or_self, Bool.false_eq_true, if_false]
  rw [if_neg (by rw [hguard]; decide)]

end

end Sys2Proof.Machine

namespace Sys2Proof.Slice0
open Sys2Proof.Machine

theorem attentionAndSamplingTakeAPipeline : AttentionAndSamplingTakeAPipeline := by
  intro s l idx q w hq
  refine ⟨fun a hi ha hfin hpos hscale hwalk => ?_, fun z out hi hz hout => ?_⟩
  · have hexec := execAttn_of_canIssue hq hi ha hfin hpos hscale hwalk
    obtain ⟨hrest, hflying, hissued, hreg⟩ := attnAsked_spec s l idx w a (freePipe_lt hq)
    generalize attnAsked s l idx q w a = u at *
    refine ⟨takePipe u (attnRun s l idx q w a),
      (congrArg (fun x : State => { x.kv with runs := x.kv.runs ++ [attnRun s l idx q w a] }) hrest :), hissued,
      (congrArg (fun x : State => x.mem) hrest :), (congrArg (fun x : State => x.num) hrest :),
      (congrArg (fun x : State => x.dev) hrest :), (congrArg (fun x : State => x.sent) hrest :), hreg,
      fun hfed => ?_, fun hfed => ?_⟩
    · exact hexec.trans (congrArg _ (if_neg (by simpa using hfed)))
    · have hflying' : Flying (takePipe u (attnRun s l idx q w a)) l (attnRun s l idx q w a).idx := hflying
      exact ⟨_, hexec.trans (congrArg _ (if_pos (by simpa using hfed))), rfl, finishAttn_inFlightDone a hflying'⟩
  · intro x ra hrec hmem hm
    have hbegun := traffic_begun s l idx w .sample .quince [z] [out]
    refine ⟨_, (drawnToken s l (opImm w 12 0) (opImm w 63 40) z).1, execSample_of_canIssue hq hi hz hout hrec, rfl, ?_⟩
    generalize drawnToken s l (opImm w 12 0) (opImm w 63 40) z = y
    have htended := writeLE_tended (traffic (issue s l idx w .sample true) l idx .quince [z] [out]) l out.base 4 y.1
    refine ⟨?_, ?_, ?_, ?_⟩
    · exact stored_of_mem (hbegun.stored hmem (by rwa [length_leBytes])) (by simp [writeLE])
    · simp [keepToken, htended.kv, hbegun.kv]
    · have hevals : keyIdx Obj.sloeEvals ∉ unitIdx := by decide
      have hinvalid : Obj.sloeEvals ≠ Obj.quinceSampleInvalid + q := by simp only [Obj.sloeEvals, Obj.quinceSampleInvalid]; omega
      refine (reg_countEvals_countKey _ 1).trans ?_
      rw [reg_bumpIf_other _ _ _ hinvalid, htended.reg _ hevals, hbegun.reg _ hevals]
    · exact (Flying.of_coreOf (hbegun.flying.tended htended) (by simp)).markDone

theorem optimizerOperationsIssue : OptimizerOperationsIssue := by
  intro s l idx w
  refine ⟨execOptstep_of_norm_unknown l idx, fun a hi hk ha => execOptstep_of_canIssue hi hk ha, fun src acc hi hm hs hd => ?_⟩
  show execNormLayerSums l idx s = _
  have hbegun := traffic_begun s l idx w .norm .valley [src] [acc]
  simp [execNormLayerSums, streamWord_of_canIssue hi, hi, hm, hs, hd, hbegun.num]

/-- Settles O15, from the meaning of each operation's issue when its conditions hold and from what its requests leave. -/
theorem pipelineAndOptimizerOperationsIssue : Obligations.PipelineAndOptimizerOperationsIssue :=
  ⟨attentionAndSamplingTakeAPipeline, optimizerOperationsIssue⟩

end Sys2Proof.Slice0

/-! ### SAVE, LOAD, FILL of values, APPEND, COLL and CTXSAVE (R211 to R215, R220, R225, R231, R272, R299, R303, R317,
R388, R389) -/

namespace Sys2Proof.Machine

/-! #### SAVE (R211 to R215) -/

/-- The check of a save and of a load that a scaled tensor has its plane (R211). -/
theorem scaled_has_plane {f : Format} {plane : Option Desc} (h : f.isScaled = true → plane.isSome = true) :
    (f.isScaled && plane.isNone) = false := by
  cases hf : f.isScaled
  · rfl
  · rw [Option.isNone_eq_false_iff.mpr (h hf), Bool.and_false]

/-- A save's segments stored in the slots of their region, and its planes beside them (R212, R215). -/
def storeSave (s : State) (segs : Desc) (slot : Nat) (blobs : List (List Byte)) (plane : Option Desc)
    (planes : List Byte) : State :=
  plane.toList.foldl (fun t p => writeBytes t p.base planes)
    ((blobs.zipIdx).foldl (fun t (p : List Byte × Nat) => writeBytes t (segs.base + p.2 * slot) p.1) s)

/-- What a save counts: raw and stored bytes, and the saturations and flushes of narrow mode (R215, R76). -/
def countSave (s : State) (l : Core) (raw stored sat under : Nat) : State :=
  countFlush (bumpIf (bump (bump s (Obj.brambleRawBytes + l.die.val) raw) (Obj.brambleStoredBytes + l.die.val) stored)
    (sat != 0) (Obj.brambleSat + l.die.val) sat) l under

section
variable {s t : State} {l : Core} {idx : Nat} {w : BitVec 256}

theorem storeSave_tended (s : State) (l : Core) (segs : Desc) (slot : Nat) (blobs : List (List Byte)) (plane : Option Desc)
    (planes : List Byte) : Tended l s (storeSave s segs slot blobs plane planes) :=
  List.foldlRecOn _ _ (motive := Tended l s)
    (List.foldlRecOn _ _ (motive := Tended l s) (.refl l s) fun t ht _ _ => ht.trans (writeBytes_tended t l _ _))
    fun t ht _ _ => ht.trans (writeBytes_tended t l _ _)

theorem sameBytes_storeSave (h : SameBytes s t) (segs : Desc) (slot : Nat) (blobs : List (List Byte)) (plane : Option Desc)
    (planes : List Byte) : SameBytes (storeSave s segs slot blobs plane planes) (storeSave t segs slot blobs plane planes) := by
  refine sameBytes_foldl ?_ (fun u v p k => ?_) _
  · refine sameBytes_foldl h (fun u v p k => ?_) _
    exact sameBytes_writeBytes k (segs.base + p.2 * slot) p.1
  · exact sameBytes_writeBytes k p.base planes

@[simp] theorem countSave_mem (s : State) (l : Core) (raw stored sat under : Nat) :
    (countSave s l raw stored sat under).mem = s.mem := by simp [countSave]

@[simp] theorem countSave_coreOf (s : State) (l : Core) (raw stored sat under : Nat) (c : Core) :
    coreOf (countSave s l raw stored sat under) c = coreOf s c := by simp [countSave]

theorem reg_countSave (s : State) (l : Core) (raw stored sat under : Nat) :
    let t := countSave s l raw stored sat under
    reg t (Obj.brambleRawBytes + l.die.val) = (reg s (Obj.brambleRawBytes + l.die.val) + raw) % 2 ^ 64 ∧
      reg t (Obj.brambleStoredBytes + l.die.val) = (reg s (Obj.brambleStoredBytes + l.die.val) + stored) % 2 ^ 64 := by
  have hd := l.die.isLt
  have hraw : keySize (Obj.brambleRawBytes + l.die.val) = 8 := by
    rw [keySize_add_elem (by simp only [Obj.brambleRawBytes]; omega)]
    decide
  have hstored : keySize (Obj.brambleStoredBytes + l.die.val) = 8 := by
    rw [keySize_add_elem (by simp only [Obj.brambleStoredBytes]; omega)]
    decide
  have hother {k : Nat} (hsat : k ≠ Obj.brambleSat + l.die.val) (hunder : k ≠ Obj.eavesUnderflow + l.cluster.val) :
      reg (countSave s l raw stored sat under) k = reg (bump (bump s (Obj.brambleRawBytes + l.die.val) raw)
        (Obj.brambleStoredBytes + l.die.val) stored) k :=
    (reg_bumpIf_other _ _ under hunder).trans (reg_bumpIf_other _ _ sat hsat)
  have hc := l.cluster.isLt
  refine ⟨?_, ?_⟩
  · rw [hother (by simp only [Obj.brambleRawBytes, Obj.brambleSat]; omega)
      (by simp only [Obj.brambleRawBytes, Obj.eavesUnderflow]; omega),
      reg_bump_other _ _ (by simp only [Obj.brambleRawBytes, Obj.brambleStoredBytes]; omega), reg_bump_self, hraw]
  · rw [hother (by simp only [Obj.brambleStoredBytes, Obj.brambleSat]; omega)
      (by simp only [Obj.brambleStoredBytes, Obj.eavesUnderflow]; omega), reg_bump_self, hstored,
      reg_bump_other _ _ (by simp only [Obj.brambleRawBytes, Obj.brambleStoredBytes]; omega)]

/-- A save's requests: its source read, then its segments and its planes written (R212, R303). -/
def saveAsked (s : State) (l : Core) (idx : Nat) (w : BitVec 256) (src segs : Desc) (slot : Nat) (blobs : List (List Byte))
    (plane : Option Desc) (planes : List Byte) : State :=
  askRuns (traffic (issue s l idx w .save true) l idx .bramble [src] []) l idx .bramble true
    (((blobs.zipIdx).map fun (b, i) => (segs.base + i * slot, segBytes b.length)) ++
      plane.toList.map fun p => (p.base, planes.length))

/-- The meaning of SAVE for an operation in order: its bytes are stored, and counted. -/
theorem execSave_of_canIssue {src segs : Desc} {plane : Option Desc} (hi : canIssue s l idx w .save = true)
    (hs : operand! s l (opArg w 0) = .ok src) (hd : dest! s l (opArg w 1) = .ok segs) (hp : destOpt s l (opArg w 2) = .ok plane)
    (hscaled : src.fmt.isScaled = true → plane.isSome = true) :
    let fm := if opImm w 1 0 = 2 then Format.b4 else src.fmt
    let slot := segSlot fm (blockSize src.blk)
    let planes := savedPlane s src (opImm w 1 0)
    let r := savedBlocks s src (opImm w 1 0)
    let blobs := (piecesOf 64 (r.1.length + 1) r.1).map fun p => segment (opImm w 1 0) fm src.blk p
    execSave l idx s = .next (markDone (countSave
      (storeSave (saveAsked s l idx w src segs slot blobs plane planes) segs slot blobs plane planes) l (src.rows * src.rowBytes)
      (blobs.map List.length).sum r.2.1 r.2.2) l idx) := by
  have hlengths (blobs : List (List Byte)) : (blobs.zipIdx.map fun x => x.1.length) = blobs.map List.length :=
    (List.map_map (f := Prod.fst) (g := List.length)).symm.trans (by rw [List.zipIdx_map_fst])
  simp only [execSave, streamWord_of_canIssue hi, hi, hs, hd, hp, scaled_has_plane hscaled, hlengths, ok_check_bind,
    orFault_ok, Bool.not_true, Bool.false_eq_true, if_false, saveAsked, storeSave, countSave]

theorem saveAsked_begun (s : State) (l : Core) (idx : Nat) (w : BitVec 256) (src segs : Desc) (slot : Nat)
    (blobs : List (List Byte)) (plane : Option Desc) (planes : List Byte) :
    Begun l idx s (saveAsked s l idx w src segs slot blobs plane planes) :=
  (traffic_begun s l idx w .save .bramble [src] []).trans (askRuns_requested _ l idx .bramble true _)

/-- What the bytes and the counts of a save that has begun leave. -/
theorem saved_spec (h : Begun l idx s t) (segs : Desc) (slot : Nat) (blobs : List (List Byte)) (plane : Option Desc)
    (planes : List Byte) (raw stored sat under : Nat) :
    let u := markDone (countSave (storeSave t segs slot blobs plane planes) l raw stored sat under) l idx
    u.mem = (storeSave s segs slot blobs plane planes).mem ∧ Slice0.InFlightDone u l idx ∧ issuedAt (coreOf u l) idx = true ∧
      reg u (Obj.brambleRawBytes + l.die.val) = (reg s (Obj.brambleRawBytes + l.die.val) + raw) % 2 ^ 64 ∧
      reg u (Obj.brambleStoredBytes + l.die.val) = (reg s (Obj.brambleStoredBytes + l.die.val) + stored) % 2 ^ 64 := by
  have hbytes := sameBytes_storeSave h.sameBytes segs slot blobs plane planes
  have htended := storeSave_tended t l segs slot blobs plane planes
  obtain ⟨hraw, hstored⟩ := reg_countSave (storeSave t segs slot blobs plane planes) l raw stored sat under
  refine ⟨?_, ?_, ?_, ?_, ?_⟩
  · rw [markDone_mem, countSave_mem, hbytes.mem]
  · exact ((h.flying.tended htended).of_coreOf (countSave_coreOf _ _ _ _ _ _ l)).markDone
  · rw [markDone_issued, countSave_coreOf, htended.issued, h.issued]
  · have hkey : keyIdx (Obj.brambleRawBytes + l.die.val) ∉ unitIdx := by
      rw [keyIdx_add_die l.die (by decide)]
      decide
    rw [markDone_reg, hraw, htended.reg _ hkey, h.reg _ hkey]
  · have hkey : keyIdx (Obj.brambleStoredBytes + l.die.val) ∉ unitIdx := by
      rw [keyIdx_add_die l.die (by decide)]
      decide
    rw [markDone_reg, hstored, htended.reg _ hkey, h.reg _ hkey]

end

/-! #### FILL of values (R225, R231) -/

section
variable {s t : State} {l : Core} {idx : Nat} {w : BitVec 256}

theorem fillValues_of_canIssue {dst par : Desc} {purpose : Nat} (hi : canIssue s l idx w .fill = true)
    (hd : dest! s l (opArg w 0) false = .ok dst) (hp : operand! s l (opArg w 1) = .ok par) (hform : fillFormatOk dst = true)
    (ha : w32IsFin (readW32 s par.base) = true) (hb : w32IsFin (readW32 s (par.base + 4)) = true)
    (hpur : fillPurpose w = purpose) :
      let z := fun i => fillVariate (fillDraw s dst w) (opImm w 5 4) (drawIndex s l idx i)
      let r := (List.range (fillCount dst false)).foldl (fun acc i => putFill dst acc i
          (fillValue (readW32 s par.base) (readW32 s (par.base + 4)) (z i)))
        (traffic (issue s l idx w .fill true) l idx .sloe [par] [dst], 0)
      fillValues purpose l idx s = markDone (countEvals (countKey (bumpIf r.1 (r.2 != 0) (Obj.damsonMasterOvf + l.die.val) r.2))
        ((fillCount dst false + 3) / 4)) l idx := by
  simp [fillValues, streamWord_of_canIssue hi, hi, hpur, hd, hp, hform, ha, hb,
    drawIndex_of_begun (traffic_begun s l idx w .fill .sloe [par] [dst])]

end

/-! #### APPEND (R272) -/

section
variable {s t : State} {l : Core} {idx : Nat} {w : BitVec 256}

theorem appendHead_tended (s : State) (l : Core) (src dst : Desc) (zp hd row : Nat) :
    Tended l s (appendHead s src dst zp hd row).1 := by
  refine List.foldlRecOn _ _ (motive := fun acc : State × AppendCounts => Tended l s acc.1) (.refl l s) fun acc hacc j _ => ?_
  dsimp only
  refine Tended.trans ?_ (writeLE_tended _ l _ 1 _)
  refine List.foldlRecOn _ _ (motive := Tended l s) hacc fun t ht x _ => ?_
  exact ht.trans (putCode_tended t l dst row _ _)

theorem appendHeads_tended (s : State) (l : Core) (src dst : Desc) (zp : Nat) (row : Nat → Nat) (heads : List Nat) :
    Tended l s (heads.foldl (fun (acc : State × AppendCounts) h =>
      let y := appendHead acc.1 src dst zp h (row h)
      (y.1, acc.2.add y.2)) (s, {})).1 :=
  List.foldlRecOn heads _ (motive := fun acc : State × AppendCounts => Tended l s acc.1) (.refl l s) fun acc hacc h _ =>
    hacc.trans (appendHead_tended acc.1 l src dst zp h (row h))

/-- What an append that has begun leaves, its rows written and counted (R272). -/
theorem appended_spec {u : State} (h : Begun l idx s t) (k : Tended l t u) (x : AppendCounts) :
    let v := markDone (countFlush (bumpIf (bumpIf u (x.sat != 0) Obj.kvAppendSat x.sat) (x.ovf != 0)
      (Obj.eavesScaleOvf + l.cluster.val) x.ovf) l x.under) l idx
    Slice0.InFlightDone v l idx ∧ issuedAt (coreOf v l) idx = true ∧ v.kv = s.kv := by
  refine ⟨Flying.markDone (.of_coreOf (h.flying.tended k) (by simp)), ?_, by simp [k.kv, h.kv]⟩
  rw [markDone_issued, countFlush_coreOf, bumpIf_coreOf, bumpIf_coreOf, k.issued, h.issued]

end

/-! #### Tokens, and CTXSAVE (R296, R297, R299, R317) -/

theorem getLsbD_one_shiftLeft (x : Nat) {i : Nat} (hi : i < 256) : (1#256 <<< x).getLsbD i = decide (i = x) := by
  rw [BitVec.getLsbD_shiftLeft, BitVec.getLsbD_one, Bool.eq_iff_iff]
  simp only [Bool.and_eq_true, Bool.not_eq_true', decide_eq_true_eq, decide_eq_false_iff_not]
  omega

theorem getLsbD_clearMask (m : BitVec 256) (ts : List Nat) {i : Nat} (hi : i < 256) :
    (clearMask m ts).getLsbD i = (m.getLsbD i && !decide (i ∈ ts)) := by
  induction ts generalizing m with
  | nil => simp [clearMask]
  | cons x r ih =>
    refine (ih _).trans ?_
    rw [BitVec.getLsbD_and, BitVec.getLsbD_not, getLsbD_one_shiftLeft x hi, decide_eq_true hi, Bool.true_and, Bool.and_assoc]
    simp

/-- What tokens set leave of a state (R297, R300): the tokens stand, and beside them the core's watchdog and clock start again. -/
structure TokensSet (l : Core) (ts : List Nat) (s t : State) : Prop where
  rest : t = { s with cores := t.cores, regs := t.regs }
  core : coreOf t l = { coreOf s l with
    tokens := (coreOf t l).tokens, watch := (coreOf t l).watch, clockOn := (coreOf t l).clockOn }
  tokens : ∀ i : Fin 256, tokenSet (coreOf t l) i.val = (decide (i.val ∈ ts) || tokenSet (coreOf s l) i.val)
  others : Slice0.CoresBut s t l
  reg : ∀ k, k ≠ Obj.tokenDoubleSet + l.val → reg t k = reg s k

theorem TokensSet.trans {l : Core} {xs ys : List Nat} {s t u : State} (h : TokensSet l xs s t) (k : TokensSet l ys t u) :
    TokensSet l (xs ++ ys) s u where
  rest := k.rest.trans (congrArg (fun y : State => { y with cores := u.cores, regs := u.regs }) h.rest)
  core := k.core.trans (congrArg (fun c : CoreState =>
    { c with tokens := (coreOf u l).tokens, watch := (coreOf u l).watch, clockOn := (coreOf u l).clockOn }) h.core)
  tokens i := by rw [k.tokens, h.tokens, ← Bool.or_assoc, Bool.or_comm (decide (i.val ∈ ys))]; simp
  others c hc := (k.others c hc).trans (h.others c hc)
  reg x hx := (k.reg x hx).trans (h.reg x hx)

theorem setToken_tokensSet (s : State) (l : Core) (x : Nat) : TokensSet l [x] s (setToken s l x) := by
  unfold setToken
  dsimp only
  split
  case isTrue h =>
    refine ⟨rfl, rfl, fun i => ?_, fun _ _ => rfl, fun k hk => reg_bump_other s 1 hk⟩
    by_cases hi : i.val = x
    · simp [hi, h]
    · simp [hi]
  case isFalse =>
    refine ⟨rfl, by rw [coreOf_modCore_self], fun i => ?_, fun c hc => coreOf_modCore_other s _ hc, fun _ _ => rfl⟩
    rw [coreOf_modCore_self, tokenSet, BitVec.getLsbD_or, getLsbD_one_shiftLeft x i.isLt, Bool.or_comm]
    simp [tokenSet]

theorem setTokens_tokensSet (s : State) (l : Core) (ts : List Nat) : TokensSet l ts s (setTokens s l ts) := by
  induction ts generalizing s with
  | nil => exact ⟨rfl, rfl, fun _ => by simp [setTokens], fun _ _ => rfl, fun _ _ => rfl⟩
  | cons x r ih => exact (setToken_tokensSet s l x).trans (ih (setToken s l x))

theorem keySize_schedOps (l : Core) : keySize (Obj.schedOps + l.val) = 8 := by
  rw [keySize_add_elem (by have := l.isLt; simp only [Obj.schedOps]; omega)]
  decide

/-- An operation that issues and sets its tokens at once (R296, R297). -/
theorem issuedAtOnce_setTokens (s : State) (l : Core) (idx : Nat) (w : BitVec 256) (op : Opcode) :
    Slice0.IssuedAtOnce s (setTokens (issue s l idx w op false) l (opSets w)) l idx w := by
  have hset := setTokens_tokensSet (issue s l idx w op false) l (opSets w)
  refine ⟨?_, ?_, fun i => ?_, ?_, ?_, ?_,
    fun c hc => (hset.others c hc).trans (issue_coresBut s l idx w op false c hc), fun k hk => ?_⟩
  · rw [hset.core]
    exact (issue_issued_iff s l idx w op false idx).mpr (.inl rfl)
  · rw [hset.reg _ (by simp only [Obj.schedOps, Obj.tokenDoubleSet]; omega), issue, reg_bump_self, keySize_schedOps]
    rfl
  · rw [hset.tokens i, tokenSet, issue_tokens]
    cases opConsume w
    · simp [tokenSet]
    · rw [if_pos rfl, if_pos rfl, getLsbD_clearMask _ _ i.isLt, tokenSet]
  · rw [hset.core]
    exact issue_flight s l idx w op false
  · rw [hset.core]
    exact issue_halted s l idx w op false
  · rw [hset.core]
    exact issue_guards s l idx w op false
  · obtain ⟨hsched, hdouble⟩ : k ≠ Obj.schedOps + l.val ∧ k ≠ Obj.tokenDoubleSet + l.val := by simpa using hk
    exact (hset.reg k hdouble).trans (reg_bump_other _ 1 hsched)

section
variable {s t : State} {l : Core} {idx : Nat} {w : BitVec 256} {ds : List (Option Desc)}

theorem execCtxsave_of_not_secures (e : Option Nat) (hi : canIssue s l idx w .ctxsave = true)
    (hds : (List.range 8).mapM (fun k => operand s l (opArg w k) false) = .ok ds) (hsec : secures s = false) :
    execCtxsave l idx e s = .next (setTokens (issue s l idx w .ctxsave false) l (opSets w)) := by
  simp [execCtxsave, streamWord_of_canIssue hi, hi, hds, hsec]

/-- A context save's regions named to Batten, its requests made and its results produced (R317). -/
def captured (s : State) (l : Core) (idx : Nat) (w : BitVec 256) (regions : List (Nat × Nat)) : State :=
  markDone (nameRegions (askRuns (issue s l idx w .ctxsave true) l idx .batten false regions) (opImm w 15 0) regions) l idx

theorem execCtxsave_of_secures (e : Option Nat) (hi : canIssue s l idx w .ctxsave = true)
    (hds : (List.range 8).mapM (fun k => operand s l (opArg w k) false) = .ok ds) (hsec : secures s = true) :
    execCtxsave l idx e s = .next (foresee (captured s l idx w ((ds.filterMap id).flatMap descRegions)) e) := by
  simp [execCtxsave, streamWord_of_canIssue hi, hi, hds, hsec, captured]

theorem captured_spec (s : State) (l : Core) (idx : Nat) (w : BitVec 256) (regions : List (Nat × Nat)) :
    let t := captured s l idx w regions
    Slice0.InFlightDone t l idx ∧ issuedAt (coreOf t l) idx = true ∧
      t.recov.securing = s.recov.securing.map (fun x => { x with regions := x.regions ++ inSection (opImm w 15 0) regions }) ∧
      t = { s with cores := t.cores, regs := t.regs, recov := { s.recov with securing := t.recov.securing } } := by
  have hbegun := (issue_begun s l idx w .ctxsave).trans (askRuns_requested _ l idx .batten false regions)
  have hrest := hbegun.rest
  unfold captured
  generalize askRuns (issue s l idx w .ctxsave true) l idx .batten false regions = u at hbegun hrest
  refine ⟨(hbegun.flying.of_coreOf (modRec_coreOf u _ l)).markDone, ?_, ?_, ?_⟩
  · rw [markDone_issued, nameRegions, modRec_coreOf, hbegun.issued]
  · rw [hrest]
    rfl
  · rw [hrest]
    rfl

end

end Sys2Proof.Machine

namespace Sys2Proof.Slice0
open Sys2Proof.Machine

theorem blockMovingOperationsIssue : BlockMovingOperationsIssue := by
  intro s l idx w
  refine ⟨fun src segs plane hi hs hd hp hscaled =>
      ⟨_, execSave_of_canIssue hi hs hd hp hscaled,
        saved_spec (saveAsked_begun s l idx w src segs _ _ plane _) _ _ _ _ _ _ _ _ _⟩,
    fun segs dst plane hi hs hd hp hscaled => ?_,
    fun dst par hi hd hp hform ha hb => ⟨fun hpur => congrArg _ (fillValues_of_canIssue hi hd hp hform ha hb hpur),
      fun hpur => congrArg _ (fillValues_of_canIssue hi hd hp hform ha hb hpur)⟩,
    fun src hi hs hlo hhi hran => ?_⟩
  · have hexec : exec (.load l idx) s = execLoad l idx s := rfl
    simp only [hexec, execLoad, streamWord_of_canIssue hi, hi, hs, hd, hp, scaled_has_plane hscaled, ok_check_bind, orFault_ok,
      Bool.not_true, Bool.false_eq_true, if_false]
  · have hexec : exec (.append l idx) s = execAppend l idx s := rfl
    have hguard : (!s.kv.ran.contains (opImm w 12 0) || decide (opImm w 63 40 < (seqAt s (opImm w 12 0)).len) ||
        decide (opImm w 63 40 ≥ (seqAt s (opImm w 12 0)).len + (seqAt s (opImm w 12 0)).append)) = false := by
      rw [hran, decide_eq_false (by omega), decide_eq_false (by omega)]
      rfl
    simp only [hexec, execAppend, streamWord_of_canIssue hi, hi, hs, hguard, ok_check_bind, orFault_ok, Bool.not_true,
      Bool.false_eq_true, if_false]
    exact ⟨_, rfl, rfl, appended_spec (traffic_begun s l idx w .append .eaves [src] _) (appendHeads_tended _ l _ _ _ _ _) _⟩

theorem collectivesAndContextSavesIssue : CollectivesAndContextSavesIssue := by
  intro s l idx w
  refine ⟨fun src dst nrm hi => ?_, fun ds hi hds => ⟨fun hsec => ?_, fun hsec => ?_⟩⟩
  · intro e p hk hp hs hd hn
    have hentry : ¬ ((planAt s (opImm w 15 0)).kind > 7 ∨ (s.net.groups.getD (planAt s (opImm w 15 0)).group []).length = 0) :=
      not_or.mpr ⟨Nat.not_lt.mpr hk, Nat.ne_of_gt hp⟩
    have hnrm (f : Option Desc → Except (DescErr × Nat) State) :
        (if opFlags w % 2 = 1 then (dest! s l (opArg w 2)).map some >>= f else f none) = f nrm := by
      rw [← ok_check_bind nrm f, ← hn]
      split <;> rfl
    show execColl l idx s = _
    split at hd
    case isTrue hnone =>
      cases hd
      simp only [execColl, streamWord_of_canIssue hi, hi, hentry, hs, hnone, hnrm, ok_check_bind, orFault_ok, Bool.not_true,
        Bool.false_eq_true, if_false, if_true]
      rfl
    case isFalse hnone =>
      simp only [execColl, streamWord_of_canIssue hi, hi, hentry, hs, hnone, hd, hnrm, ok_check_bind, orFault_ok, Bool.not_true,
        Bool.false_eq_true, if_false]
      rfl
  · exact ⟨_, fun e => execCtxsave_of_not_secures e hi hds hsec, issuedAtOnce_setTokens s l idx w .ctxsave,
      (setTokens_tokensSet (issue s l idx w .ctxsave false) l (opSets w)).rest⟩
  · exact ⟨_, fun e => execCtxsave_of_secures e hi hds hsec, rfl, captured_spec s l idx w _⟩

/-- Settles O16: each operation has begun when it stores its bytes or captures its regions, so that nothing else of its command
shows in memory, in flight or in what has issued. -/
theorem movingOperationsIssue : Obligations.MovingOperationsIssue :=
  ⟨blockMovingOperationsIssue, collectivesAndContextSavesIssue⟩

end Sys2Proof.Slice0

/-! ### Uniform values (R227)

A value m / 2^j whose integer m has p + 1 bits at most is exact in a format of p fraction bits: with k the bits that m lacks,
its code has the integer m × 2^k and the exponent −(j + k). -/

namespace Sys2Proof.Machine

theorem two_pow_le_shifted {m k p : Nat} (hm : m ≠ 0) (hk : m.log2 + k = p) : 2 ^ p ≤ m * 2 ^ k := by
  rw [← hk, Nat.pow_add]
  exact Nat.mul_le_mul_right _ (Nat.log2_self_le hm)

theorem shifted_lt_two_pow {m k p : Nat} (hk : m.log2 + k = p) : m * 2 ^ k < 2 ^ (p + 1) := by
  rw [← hk, Nat.add_right_comm, Nat.pow_add]
  exact Nat.mul_lt_mul_of_pos_right Nat.lt_log2_self (Nat.two_pow_pos k)

section
variable (f : FloatFmt) {m j k : Nat}

/-- The code to which m / 2^j rounds when its last fraction bit stands k bits below the units of m and is normal (R72, R74). -/
theorem FloatFmt.roundNear_div_pow2 (hm : m ≠ 0) (hk : m.log2 + k = f.p) (hq : f.qmin ≤ -((j + k : Nat) : Int)) :
    f.roundNear ⟨m, 2 ^ j⟩ = (-((j + k : Nat) : Int) - f.qmin).toNat * 2 ^ f.p + m * 2 ^ k := by
  have hquantum : f.quantum ⟨m, 2 ^ j⟩ = -((j + k : Nat) : Int) := by
    rw [FloatFmt.quantum, Q.log2_div_pow2 j hm]
    omega
  have hscale : Q.scale2 ⟨m, 2 ^ j⟩ ((j + k : Nat) : Int) = ⟨m * 2 ^ (j + k), 2 ^ j⟩ := if_neg (by omega)
  have hsplit : m * 2 ^ (j + k) = m * 2 ^ k * 2 ^ j := by rw [Nat.add_comm, Nat.pow_add, Nat.mul_assoc]
  simp only [FloatFmt.roundNear, if_neg (Int.natCast_ne_zero.mpr hm), hquantum, Int.neg_neg, hscale, natAbs_mul_two_pow, hsplit,
    roundNat_mul_self _ (Nat.two_pow_pos j)]

/-- The code to which m / 2^j rounds has exactly that value. -/
theorem FloatFmt.mag_roundNear_div_pow2 (hm : m ≠ 0) (hk : m.log2 + k = f.p) (hq : f.qmin ≤ -((j + k : Nat) : Int)) :
    f.mag (f.roundNear ⟨m, 2 ^ j⟩) = ⟨(m * 2 ^ k : Nat), -((j + k : Nat) : Int)⟩ := by
  have hlow := two_pow_le_shifted hm hk
  have hhigh := shifted_lt_two_pow hk
  rw [f.roundNear_div_pow2 hm hk hq]
  generalize he : (-((j + k : Nat) : Int) - f.qmin).toNat = e
  obtain ⟨r, hr⟩ := Nat.exists_eq_add_of_le' hlow
  have hfrac : r < 2 ^ f.p := by rw [Nat.pow_succ] at hhigh; omega
  have hcode : e * 2 ^ f.p + (r + 2 ^ f.p) = r + 2 ^ f.p * (e + 1) := by rw [Nat.mul_succ, Nat.mul_comm]; omega
  have hdiv : (r + 2 ^ f.p * (e + 1)) / 2 ^ f.p = e + 1 := by
    rw [Nat.add_mul_div_left _ _ (Nat.two_pow_pos f.p), Nat.div_eq_of_lt hfrac, Nat.zero_add]
  rw [hr, hcode, f.mag_of_normal hdiv, Nat.add_mul_mod_self_left, Nat.mod_eq_of_lt hfrac]
  congr 1
  omega

end

/-- The word of a finite magnitude code with the sign clear has the code's value (R45). -/
theorem w32Val_ofNat {c : Nat} (hc : c ≤ fmtW32.maxCode) : w32Val (BitVec.ofNat 32 c) = .fin false (fmtW32.mag c) := by
  have hlt : c < 0x7F800000 := Nat.lt_of_le_of_lt hc (by decide)
  have hword : (BitVec.ofNat 32 c).toNat = c := Nat.mod_eq_of_lt (by omega)
  have hcode : c % 2 ^ 31 = c := Nat.mod_eq_of_lt (by omega)
  have hsign : decide (c ≥ 2 ^ 31) = false := decide_eq_false (by omega)
  simp only [w32Val, hword, hcode, hsign, if_neg (Nat.lt_asymm hlt), if_neg (Nat.ne_of_lt hlt), Bool.false_eq_true, if_false]

/-- A positive value that is neither flushed nor above the largest finite one rounds to the word of its code (R557). -/
theorem w32Val_roundQ_of_pos {q : Q} (zneg : Bool) (hpos : 0 < q.n) (hflush : q.lt ⟨1, 2 ^ 149⟩ = false)
    (hmax : fmtW32.roundNear q ≤ fmtW32.maxCode) : w32Val (roundQ q zneg) = .fin false (fmtW32.mag (fmtW32.roundNear q)) := by
  have hsign : q.isNeg = false := decide_eq_false (by omega)
  simp only [roundQ, if_neg (Int.ne_of_gt hpos), hsign, Q.abs_of_nonneg (Int.le_of_lt hpos), hflush, Bool.false_eq_true, if_false,
    if_neg (Nat.not_lt.mpr hmax), Nat.add_zero, w32Val_ofNat hmax]

/-- A W32 value holds m / 2^24 exactly for every m of 24 bits but 0. -/
theorem w32Val_roundQ_div_pow24 {m : Nat} (hm : m ≠ 0) (hlt : m < 2 ^ 24) :
    ∃ u, w32Val (roundQ ⟨m, 2 ^ 24⟩) = .fin false u ∧ 0 < u.toQ.d ∧ u.toQ.n * 2 ^ 24 = m * u.toQ.d := by
  have hlog : m.log2 < 24 := (Nat.log2_lt hm).mpr hlt
  obtain ⟨k, hk⟩ : ∃ k, m.log2 + k = fmtW32.p := Nat.le.dest (Nat.le_of_lt_succ hlog)
  have hk23 : m.log2 + k = 23 := hk
  have hq : fmtW32.qmin ≤ -((24 + k : Nat) : Int) := by simp only [fmtW32]; omega
  have hflush : Q.lt ⟨m, 2 ^ 24⟩ ⟨1, 2 ^ 149⟩ = false := by
    simp only [Q.lt, decide_eq_false_iff_not]
    omega
  have hmax : fmtW32.roundNear ⟨m, 2 ^ 24⟩ ≤ fmtW32.maxCode := by
    have hshift := shifted_lt_two_pow hk
    rw [fmtW32.roundNear_div_pow2 hm hk hq]
    simp only [fmtW32] at hshift ⊢
    omega
  have hpos : 0 < (m : Int) := by omega
  refine ⟨_, w32Val_roundQ_of_pos false hpos hflush hmax, ?_⟩
  rw [fmtW32.mag_roundNear_div_pow2 hm hk hq, Dy.toQ_of_neg _ (by omega), Int.neg_neg, Int.toNat_natCast]
  have hsplit : m * 2 ^ k * 2 ^ 24 = m * 2 ^ (24 + k) := by rw [Nat.add_comm, Nat.pow_add, Nat.mul_assoc]
  have hcast : ((m * 2 ^ k * 2 ^ 24 : Nat) : Int) = (m * 2 ^ (24 + k) : Nat) := congrArg Nat.cast hsplit
  rw [Int.natCast_mul (m * 2 ^ k), Int.natCast_mul m (2 ^ (24 + k))] at hcast
  exact ⟨Nat.two_pow_pos _, hcast⟩

theorem two_mul_ushiftRight_succ_lt (a : Word) : 2 * (a >>> 9).toNat + 1 < 2 ^ 24 := by
  have hword := a.isLt
  rw [BitVec.toNat_ushiftRight, Nat.shiftRight_eq_div_pow]
  omega

theorem sloeUniform_toQ (a : Word) : (sloeUniform a).toQ = ⟨(2 * (a >>> 9).toNat + 1 : Nat), 2 ^ 24⟩ := by
  have hm : (2 * (a.toNat / 512) + 1 : Int) = (2 * (a >>> 9).toNat + 1 : Nat) := by
    rw [BitVec.toNat_ushiftRight, Nat.shiftRight_eq_div_pow]
    omega
  rw [sloeUniform, hm, Dy.toQ_of_neg _ (by decide)]
  rfl

/-- The variate of the uniform method (R231). The match is split, not computed: comparing the rounded value with the whole
match by `rfl` would run the draw. -/
theorem fillVariate_uniform (x : Draw) (i : Nat) : fillVariate x 0 i = roundDy (sloeUniform (x.word i)) := by
  unfold fillVariate
  split
  · rfl
  · contradiction
  · contradiction

/-- A ratio that is m / 2^24 for a positive m below 2^24 lies from 2^−24 to 1 − 2^−24. -/
theorem Q.within_unit_of_div_pow24 {q : Q} {m : Int} (hd : 0 < q.d) (hexact : q.n * 2 ^ 24 = m * q.d) (hm : 0 < m) (hlt : m < 2 ^ 24) :
    q.d ≤ q.n * 2 ^ 24 ∧ q.n * 2 ^ 24 ≤ (2 ^ 24 - 1) * q.d ∧ 0 < q.n ∧ q.n < q.d := by
  have hlow : 1 * (q.d : Int) ≤ m * q.d := Int.mul_le_mul_of_nonneg_right hm (by omega)
  have hhigh : m * (q.d : Int) ≤ (2 ^ 24 - 1) * q.d := Int.mul_le_mul_of_nonneg_right (by omega) (by omega)
  omega

end Sys2Proof.Machine

namespace Sys2Proof.Slice0
open Sys2Proof.Machine

/-- Settles O59: 2 × (a >> 9) + 1 has 24 bits at most, so W32 holds the value exactly, and an odd number of 2^−24 below 2^24 of
them is neither 0 nor 1. -/
theorem uniformValuesAreExactOddMultiples : Obligations.UniformValuesAreExactOddMultiples := by
  intro x i
  have hlt := two_mul_ushiftRight_succ_lt (x.word i)
  obtain ⟨u, hval, hd, hexact⟩ := w32Val_roundQ_div_pow24 (Nat.succ_ne_zero _) hlt
  rw [← sloeUniform_toQ, ← roundDy, ← fillVariate_uniform] at hval
  rw [Int.natCast_succ, Int.natCast_mul] at hexact
  exact ⟨u, hval, hexact, Q.within_unit_of_div_pow24 hd hexact (by omega) (by omega)⟩

end Sys2Proof.Slice0

/-! ### What may not issue, what issues at once, and what signals set (R283, R294, R296 to R299, R309, R311) -/

namespace Sys2Proof.Machine

/-! #### An operation that may not issue (R283, R294, R296) -/

section
variable {c : Instr} {s : State} {l : Core} {i : Nat}

/-- What an operation that may issue meets (R283, R294, R296). -/
theorem conditions_of_canIssue {w : BitVec 256} {op : Opcode} (h : canIssue s l i w op = true) :
    executing s = true ∧ (coreOf s l).halted = false ∧ (coreOf s l).moving = false ∧ (coreOf s l).switchedOut = false ∧
      (coreOf s l).base ≤ i ∧ i < (coreOf s l).base + 32 ∧ issuedAt (coreOf s l) i = false ∧
      (∀ k ∈ opWaits w, tokenSet (coreOf s l) k = true) ∧ earlierReady s l i = false := by
  simp only [canIssue, mayIssue, Bool.and_eq_true, Bool.not_eq_true', decide_eq_true_eq, and_assoc] at h
  obtain ⟨hrun, hhalt, hmove, hout, -, -, hlo, hhi, hissued, -, -, -, -, hwaits, -, hearlier⟩ := h
  exact ⟨hrun, hhalt, hmove, hout, hlo, hhi, hissued, List.all_eq_true.mp hwaits, hearlier⟩

theorem markReady_of_not_canIssue (hno : ∀ w op, canIssue s l i w op = false) (kind : Nat) : markReady s l i kind = none := by
  unfold markReady
  split
  case h_1 => rfl
  case h_2 w _ => rw [hno w]; rfl

theorem slateIssue_of_not_canIssue (hno : ∀ w op, canIssue s l i w op = false) (op : Opcode) : slateIssue op l i s = s := by
  unfold slateIssue
  split
  case h_1 => rfl
  case h_2 w _ => rw [hno w]; rfl

theorem fillValues_of_not_canIssue (hno : ∀ w op, canIssue s l i w op = false) (purpose : Nat) :
    fillValues purpose l i s = s := by
  unfold fillValues
  split
  case h_1 => rfl
  case h_2 w _ => rw [hno w]; rfl

/-- The command of an operation that may not issue changes nothing. -/
theorem exec_of_not_canIssue (hc : Slice0.issuesAt c = some (l, i)) (hno : ∀ w op, canIssue s l i w op = false) :
    exec c s = .next s := by
  cases c <;> cases hc <;> dsimp only [exec]
  case phaseOpen | phaseClose | microbatchOpen | microbatchClose | stepClose =>
    simp only [execPhaseOpen, execPhaseClose, execMicrobatchOpen, execMicrobatchClose, execStepClose,
      markReady_of_not_canIssue hno]
  case bwd | bpair => simp only [execBwd, execBpair, slateIssue_of_not_canIssue hno]
  case fillInit | fillNoise => simp only [execFillInit, execFillNoise, fillValues_of_not_canIssue hno]
  -- The others look up the operation's word themselves: without one, and with one that may not issue, the state stands.
  all_goals
    simp only [execNop, execWait, execSignal, execFence, execFwd, execTiedsum, execConvert, execAppend, execAttn, execSample,
      execOptstep, execCopy, execPrefetch, execSave, execLoad, execFillDropout, execColl, execNormSquares, execNormAdd,
      execNormLayerSums, execCtxsave, hno, Bool.not_false, Bool.true_or, Bool.false_eq_true, if_true, if_false]
    split <;> rfl

end

end Sys2Proof.Machine

namespace Sys2Proof.Slice0
open Sys2Proof.Machine

/-- Settles O7: each of the conditions named contradicts what `canIssue` asks, and without it no command of a stream acts. -/
theorem operationThatMayNotIssueChangesNothing : Obligations.OperationThatMayNotIssueChangesNothing := by
  intro c l i s hc hbar
  refine exec_of_not_canIssue hc fun w op => Bool.eq_false_iff.mpr fun hi => ?_
  obtain ⟨hrun, hhalt, hmove, hout, hlo, hhi, hissued, hwaits, hearlier⟩ := conditions_of_canIssue hi
  have hword := streamWord_of_canIssue hi
  obtain h | h | h | h | h | h | h | h | h | ⟨v, hv, k, hk, h⟩ := hbar
  · simp [h] at hrun
  · simp [h] at hhalt
  · simp [h] at hmove
  · simp [h] at hout
  · omega
  · omega
  · simp [h] at hissued
  · simp [h] at hword
  · simp [h] at hearlier
  · obtain rfl : v = w := Option.some.inj (hv.symm.trans hword)
    simp [hwaits k hk] at h

/-- Settles O8: the issue advances the window, clears the tokens and counts once. -/
theorem issueConsumesTokensAndCounts : Obligations.IssueConsumesTokensAndCounts := by
  intro s l idx w op fly
  refine ⟨(issue_issued_iff s l idx w op fly idx).mpr (.inl rfl), fun j hj => (issue_issued_iff s l idx w op fly j).mpr (.inr hj),
    fun j => (issue_issued_iff s l idx w op fly j).mp, fun i => ?tokens, ?flight, issue_guards s l idx w op fly, ?count,
    fun k hk => reg_bump_other _ 1 (by simpa using hk), issue_coresBut s l idx w op fly, rfl⟩
  case tokens =>
    rw [tokenSet, issue_tokens]
    cases opConsume w
    · simp [tokenSet]
    · rw [if_pos rfl, if_pos rfl, getLsbD_clearMask _ _ i.isLt]
      simp [tokenSet]
  case flight =>
    rw [issue_flight]
    cases fly <;> simp
  case count =>
    rw [issue, reg_bump_self, keySize_schedOps]
    rfl

end Sys2Proof.Slice0

namespace Sys2Proof.Machine

/-! #### Tokens set once more, and those of the SCHED queue (R297 to R299, R309) -/

theorem keySize_tokenDoubleSet (l : Core) : keySize (Obj.tokenDoubleSet + l.val) = 4 := by
  rw [keySize_add_elem (by have := l.isLt; simp only [Obj.tokenDoubleSet]; omega)]
  decide

/-- A token set that is set already only counts (R297). -/
theorem setToken_of_set {s : State} {l : Core} {k : Nat} (h : tokenSet (coreOf s l) k = true) :
    setToken s l k = bump s (Obj.tokenDoubleSet + l.val) 1 := if_pos h

/-- Clearing a clear token changes no token (R297). -/
theorem clearMask_singleton_of_clear {m : BitVec 256} {k : Nat} (h : m.getLsbD k = false) : clearMask m [k] = m := by
  refine BitVec.eq_of_getLsbD_eq fun i hi => ?_
  rw [getLsbD_clearMask m [k] hi]
  by_cases hk : i = k
  · subst hk
    rw [h]
    rfl
  · simp [hk]

/-- Two changes of one core are the change that does both. -/
theorem modCore_modCore (s : State) (l : Core) (f g : CoreState → CoreState) :
    modCore (modCore s l f) l g = modCore s l fun c => g (f c) := by
  simp [modCore]

/-- The cache emptied and a token set, in either order (R297, R309). -/
theorem setToken_invalidateCache (s : State) (l : Core) (k : Nat) :
    setToken (invalidateCache s l) l k = invalidateCache (setToken s l k) l := by
  have htoken : tokenSet (coreOf (invalidateCache s l) l) k = tokenSet (coreOf s l) k := by
    rw [invalidateCache, coreOf_modCore_self]
    rfl
  unfold setToken
  dsimp only
  rw [htoken]
  split
  case isTrue => rfl
  case isFalse =>
    simp only [invalidateCache, modCore_modCore]
    rfl

theorem setTokens_invalidateCache (s : State) (l : Core) (ts : List Nat) :
    setTokens (invalidateCache s l) l ts = invalidateCache (setTokens s l ts) l := by
  induction ts generalizing s with
  | nil => rfl
  | cons k r ih =>
    show setTokens (setToken (invalidateCache s l) l k) l r = _
    rw [setToken_invalidateCache, ih]
    rfl

section
variable {s : State} {l : Core} {idx : Nat} {w : BitVec 256}

theorem execNop_of_canIssue (hi : canIssue s l idx w .nop = true) :
    execNop l idx s = .next (setTokens (issue s l idx w .nop false) l (opSets w)) := by
  simp only [execNop, streamWord_of_canIssue hi, hi, if_true]

theorem execWait_of_canIssue (hi : canIssue s l idx w .wait = true) :
    execWait l idx s = .next (setTokens (issue s l idx w .wait false) l (opSets w)) := by
  simp only [execWait, streamWord_of_canIssue hi, hi, if_true]

/-- A signal on its way to a core (R298). -/
def signalled (s : State) (w : BitVec 256) : State :=
  { s with job := { s.job with signals := s.job.signals ++ [(opImm w 6 0, opImm w 15 8)] } }

theorem execSignal_of_canIssue (hi : canIssue s l idx w .signal = true) :
    execSignal l idx s = .next (signalled (setTokens (issue s l idx w .signal false) l (opSets w)) w) := by
  simp only [execSignal, streamWord_of_canIssue hi, hi, if_true, signalled]

/-- An issue and the tokens that it sets leave the cache (R309). -/
theorem setTokens_issue_cache (s : State) (l : Core) (idx : Nat) (w : BitVec 256) (op : Opcode) :
    (coreOf (setTokens (issue s l idx w op false) l (opSets w)) l).lines = (coreOf s l).lines ∧
    (coreOf (setTokens (issue s l idx w op false) l (opSets w)) l).windows = (coreOf s l).windows := by
  rw [(setTokens_tokensSet (issue s l idx w op false) l (opSets w)).core]
  simp only [issue, bump_coreOf, coreOf_modCore_self, and_self]

/-- The cache of a core as a fence leaves it (R309). -/
def fenced (s : State) (l : Core) (w : BitVec 256) : State := if bitOf (opFlags w) 0 then invalidateCache s l else s

theorem execFence_of_canIssue (hi : canIssue s l idx w .fence = true) :
    execFence l idx s = .next (fenced (setTokens (issue s l idx w .fence false) l (opSets w)) l w) := by
  simp only [execFence, streamWord_of_canIssue hi, hi, if_true, fenced]
  split
  case isTrue => rw [setTokens_invalidateCache]
  case isFalse => rfl

theorem fenced_eq (t : State) : fenced t l w = { t with cores := (fenced t l w).cores } := by
  unfold fenced
  split <;> rfl

theorem fenced_coreOf (t : State) : coreOf (fenced t l w) l = { coreOf t l with
    lines := if bitOf (opFlags w) 0 then [] else (coreOf t l).lines
    windows := if bitOf (opFlags w) 0 then [] else (coreOf t l).windows } := by
  unfold fenced
  split
  case isTrue => exact coreOf_modCore_self t l _
  case isFalse => rfl

theorem fenced_coresBut (t : State) : Slice0.CoresBut t (fenced t l w) l := fun c hc => by
  unfold fenced
  split
  case isTrue => exact coreOf_modCore_other t _ hc
  case isFalse => rfl

/-- A fence that issues at once does so whether it empties the cache or not. -/
theorem issuedAtOnce_fenced {t : State} (h : Slice0.IssuedAtOnce s t l idx w) :
    Slice0.IssuedAtOnce s (fenced t l w) l idx w := by
  obtain ⟨hissued, hcount, htokens, hflight, hhalted, hguards, hothers, hregs⟩ := h
  have hreg (k : Nat) : reg (fenced t l w) k = reg t k := by rw [fenced_eq t]; rfl
  refine ⟨?_, (hreg _).trans hcount, fun i => ?_, ?_, ?_, ?_, fun c hc => (fenced_coresBut t c hc).trans (hothers c hc),
    fun k hk => (hreg k).trans (hregs k hk)⟩ <;> rw [fenced_coreOf]
  · exact hissued
  · exact htokens i
  · exact hflight
  · exact hhalted
  · exact hguards

/-- The meaning of SIGNAL_ARRIVAL, with the oldest signal on its way to the core taken off the list (R298). -/
theorem execSignalArrival_of_first {k : Nat} {pre post : List (Nat × Nat)} (e : Option Nat)
    (hs : s.job.signals = pre ++ (l.val, k) :: post) (hpre : ∀ x ∈ pre, x.1 ≠ l.val) :
    execSignalArrival ⟨l, e⟩ s =
      .next (projectEnd (setToken { s with job := { s.job with signals := pre ++ post } } l k) l e) := by
  have hfind : s.job.signals.find? (fun x => x.1 == l.val) = some (l.val, k) := by
    rw [hs, List.find?_append, List.find?_eq_none.mpr (by simpa using hpre)]
    simp
  have herase : s.job.signals.erase (l.val, k) = pre ++ post := by
    rw [hs, List.erase_append_right _ fun hmem => hpre _ hmem rfl, List.erase_cons_head]
  simp only [execSignalArrival, hfind, herase]

theorem projectEnd_none (t : State) (c : Core) : projectEnd t c none = t := rfl

end

end Sys2Proof.Machine

namespace Sys2Proof.Slice0
open Sys2Proof.Machine

/-- Settles O9: the mask of one token is idempotent, and only the second setting counts. -/
theorem settingASetTokenCounts : Obligations.SettingASetTokenCounts := by
  intro s l k
  have hset : tokenSet (coreOf (setToken s l k.val) l) k.val = true := by simp [(setToken_tokensSet s l k.val).tokens k]
  refine ⟨fun h => ⟨hset, ?_, ?_, fun x hx => ?_⟩, fun h => ⟨hset, clearMask_singleton_of_clear h⟩⟩
  · rw [setToken_of_set h, reg_bump_self, keySize_tokenDoubleSet]
  · rw [setToken_of_set h]
    rfl
  · exact (setToken_tokensSet s l k.val).reg x (by simpa using hx)

theorem schedulerOperationsIssueAtOnce : SchedulerOperationsIssueAtOnce := by
  intro s l idx w
  have hrest (op : Opcode) : setTokens (issue s l idx w op false) l (opSets w) =
      { s with cores := (setTokens (issue s l idx w op false) l (opSets w)).cores
               regs := (setTokens (issue s l idx w op false) l (opSets w)).regs } :=
    (setTokens_tokensSet (issue s l idx w op false) l (opSets w)).rest
  obtain ⟨hcache, hwindows⟩ := setTokens_issue_cache s l idx w .fence
  refine ⟨fun hi => ⟨_, execNop_of_canIssue hi, issuedAtOnce_setTokens s l idx w .nop, hrest .nop⟩,
    fun hi => ⟨_, execWait_of_canIssue hi, issuedAtOnce_setTokens s l idx w .wait, hrest .wait⟩,
    fun hi => ⟨_, execSignal_of_canIssue hi, issuedAtOnce_setTokens s l idx w .signal, ?_, ?_⟩,
    fun hi => ⟨_, execFence_of_canIssue hi, issuedAtOnce_fenced (issuedAtOnce_setTokens s l idx w .fence), ?_, ?_, ?_⟩⟩
  · rw [signalled, hrest]
  · rw [signalled, hrest]
  · rw [fenced_coreOf, hcache]
  · rw [fenced_coreOf, hwindows]
  · rw [fenced_eq, hrest]

theorem signalsRegisterAtTheirTargets : SignalsRegisterAtTheirTargets := by
  intro s l k pre post hs hpre
  have hset := setToken_tokensSet { s with job := { s.job with signals := pre ++ post } } l k.val
  refine ⟨_, fun e => execSignalArrival_of_first e hs hpre, projectEnd_none _ l, ?_, fun i => ?_,
    fun x hx => hset.reg x (by simpa using hx), hset.others, ?_⟩
  · rw [hset.rest]
  · rw [hset.tokens i]
    simp [Fin.ext_iff, coreOf]
  · rw [hset.rest]

/-- Settles O10: the operations of the SCHED queue are an issue with tokens set at once, and a signal that arrives is a token set. -/
theorem schedulerOperationsIssueAndSignalsArrive : Obligations.SchedulerOperationsIssueAndSignalsArrive :=
  ⟨schedulerOperationsIssueAtOnce, signalsRegisterAtTheirTargets⟩

end Sys2Proof.Slice0

/-! ### Completions (R198, R242, R269, R296, R472) -/

namespace Sys2Proof.Machine

/-! #### What an end brings leaves Dunrel as it stands -/

theorem writeBytes_dunrel (s : State) (a : Nat) (b : List Byte) : (writeBytes s a b).dunrel = s.dunrel := by
  rw [(writeBytes_tended s 0 a b).rest]

theorem putCopies_dunrel (s : State) (i : Nat) (b : List Byte) : (putCopies s i b).dunrel = s.dunrel := by
  unfold putCopies
  split
  case h_1 => rfl
  case h_2 =>
    exact List.foldlRecOn _ _ (motive := fun t : State => t.dunrel = s.dunrel) rfl fun t ht d _ =>
      (writeBytes_dunrel t _ _).trans ht

theorem putSeq_dunrel (s : State) (i : Nat) (x : Seq) : (putSeq s i x).dunrel = s.dunrel := by
  rw [putSeq, putCopies_dunrel, setRegBytes, setReg_dunrel]

theorem momentComplete_dunrel (s : State) (a : Nat) : (momentComplete s a).dunrel = s.dunrel := by
  unfold momentComplete
  split
  case h_1 => rfl
  case h_2 =>
    dsimp only
    split
    case isTrue => exact writeBytes_dunrel _ _ _
    case isFalse => rfl

theorem leavePipe_dunrel (s : State) (l : Core) (idx : Nat) : (leavePipe s l idx).dunrel = s.dunrel := by
  unfold leavePipe
  split
  case h_1 => rfl
  case h_2 r _ =>
    dsimp only
    have hwalk (c : Prop) [Decidable c] (u : State) (i : Nat) (x : Seq) :
        (if c then putSeq u i x else u).dunrel = u.dunrel := by
      split
      · exact putSeq_dunrel u i x
      · rfl
    split <;> exact hwalk _ _ _ _

theorem completeOp_dunrel (s : State) (l : Core) (f : Flight) : (completeOp s l f).dunrel = s.dunrel := by
  unfold completeOp
  split
  case h_1 =>
    exact List.foldlRecOn _ _ (motive := fun t : State => t.dunrel = s.dunrel) rfl fun t ht a _ =>
      (momentComplete_dunrel t a).trans ht
  case h_2 => exact leavePipe_dunrel s l f.idx
  case h_3 => exact leavePipe_dunrel s l f.idx
  case h_4 => rfl

/-- Only an optimizer step, an attention and a sampling operation bring something with their end. -/
theorem completeOp_of_other {s : State} {l : Core} {f : Flight} (hopt : opcodeOf f.word ≠ some .optstep)
    (hattn : opcodeOf f.word ≠ some .attn) (hsample : opcodeOf f.word ≠ some .sample) : completeOp s l f = s := by
  unfold completeOp
  split
  case h_1 h => exact absurd h hopt
  case h_2 h => exact absurd h hattn
  case h_3 h => exact absurd h hsample
  case h_4 => rfl

/-- With no transaction waiting a release tries none (R472). -/
theorem settle_of_none_waiting {s : State} (h : ∀ x ∈ s.dunrel.txns, x.waits = false) : settle s = s := by
  have hnone : s.dunrel.txns.filter Txn.waits = [] := List.filter_eq_nil_iff.mpr fun x hx => by simp [h x hx]
  simp only [settle, waitingInOrder, hnone]
  rfl

/-! #### An operation that leaves the in-flight table (R296) -/

/-- An operation out of the in-flight table. -/
def landed (s : State) (l : Core) (idx : Nat) : State :=
  modCore s l fun c => { c with flight := c.flight.filter fun x => x.idx != idx }

/-- The meaning of OPERATION_COMPLETE for an operation whose results are produced and acknowledged, while no transaction waits. -/
theorem execOperationComplete_of_done {s : State} {l : Core} {idx : Nat} {f : Flight} (e : Option Nat)
    (hf : (coreOf s l).flight.find? (fun x => x.idx == idx) = some f) (hdone : f.done = true)
    (hreq : hasRequests (coreOf s l) idx = false) (hwait : ∀ x ∈ s.dunrel.txns, x.waits = false) :
    execOperationComplete ⟨l, e⟩ idx s =
      .next (projectEnd (setTokens (landed (completeOp s l f) l idx) l (opSets f.word)) l e) := by
  have hdunrel : (setTokens (landed (completeOp s l f) l idx) l (opSets f.word)).dunrel = s.dunrel := by
    rw [(setTokens_tokensSet _ l _).rest]
    exact completeOp_dunrel s l f
  have hsettle : settle (setTokens (landed (completeOp s l f) l idx) l (opSets f.word)) = _ :=
    settle_of_none_waiting (hdunrel.symm ▸ hwait)
  simp only [execOperationComplete, hf, hdone, hreq, Bool.not_true, Bool.or_self, Bool.false_eq_true, if_false]
  rw [← landed, hsettle]

end Sys2Proof.Machine

namespace Sys2Proof.Slice0
open Sys2Proof.Machine

/-- Settles O17: a completion is the end's own effect, the operation out of the in-flight table, and its tokens set. -/
theorem completionLeavesFlightAndSetsTokens : Obligations.CompletionLeavesFlightAndSetsTokens := by
  intro s l idx f hf hdone hreq hwait
  have hset := setTokens_tokensSet (landed (completeOp s l f) l idx) l (opSets f.word)
  have hcore : coreOf (landed (completeOp s l f) l idx) l = { coreOf (completeOp s l f) l with
      flight := (coreOf (completeOp s l f) l).flight.filter fun x => x.idx != idx } := coreOf_modCore_self _ l _
  refine ⟨_, fun e => execOperationComplete_of_done e hf hdone hreq hwait, projectEnd_none _ l, ?flight, fun i => ?token,
    fun c hc => (hset.others c hc).trans (coreOf_modCore_other _ _ hc), fun k hk => hset.reg k (by simpa using hk), hset.rest,
    completeOp_of_other⟩
  case flight => rw [hset.core, hcore]
  case token =>
    rw [hset.tokens i, hcore]
    simp [tokenSet]

end Sys2Proof.Slice0

/-! ### Responses, request timeouts and the token watchdog (R300, R304 to R307, R314, R334, R479) -/

namespace Sys2Proof.Machine

/-! #### What serving the streams that wait for a slot leaves (R304, R305) -/

/-- What the slot allocator of core l changes: the core's requests, slots and turn, and HOTSPOT; no operation that had neither a
request nor a slot gets one. -/
structure Granted (l : Core) (s t : State) : Prop where
  rest : t = { s with cores := t.cores, regs := t.regs }
  core : coreOf t l = { coreOf s l with
    reqs := (coreOf t l).reqs, slots := (coreOf t l).slots, lastUnit := (coreOf t l).lastUnit }
  others : Slice0.CoresBut s t l
  reg : ∀ k, k ≠ Obj.hotspot + l.val → reg t k = reg s k
  requests : ∀ idx, hasRequests (coreOf s l) idx = false → hasRequests (coreOf t l) idx = false

theorem hasRequests_eq_false_iff {c : CoreState} {idx : Nat} :
    hasRequests c idx = false ↔ (∀ r ∈ c.reqs, r.op ≠ idx) ∧ ∀ x ∈ c.slots, x.req.op ≠ idx := by
  simp [hasRequests]

section
variable {l : Core} {s t u : State}

theorem Granted.refl (l : Core) (s : State) : Granted l s s := ⟨rfl, rfl, fun _ _ => rfl, fun _ _ => rfl, fun _ h => h⟩

theorem Granted.trans (h : Granted l s t) (k : Granted l t u) : Granted l s u where
  rest := k.rest.trans (congrArg (fun x : State => { x with cores := u.cores, regs := u.regs }) h.rest)
  core := k.core.trans (congrArg (fun c : CoreState =>
    { c with reqs := (coreOf u l).reqs, slots := (coreOf u l).slots, lastUnit := (coreOf u l).lastUnit }) h.core)
  others c hc := (k.others c hc).trans (h.others c hc)
  reg x hx := (k.reg x hx).trans (h.reg x hx)
  requests idx hidx := k.requests idx (h.requests idx hidx)

theorem granted_modCore {f : CoreState → CoreState}
    (hf : ∀ c, f c = { c with reqs := (f c).reqs, slots := (f c).slots, lastUnit := (f c).lastUnit })
    (hr : ∀ idx, hasRequests (coreOf s l) idx = false → hasRequests (f (coreOf s l)) idx = false) :
    Granted l s (modCore s l f) where
  rest := rfl
  core := by rw [coreOf_modCore_self]; exact hf _
  others _ hc := coreOf_modCore_other s f hc
  reg _ _ := rfl
  requests idx hidx := by rw [coreOf_modCore_self]; exact hr idx hidx

theorem granted_bump_hotspot (n : Nat) : Granted l s (bump s (Obj.hotspot + l.val) n) :=
  ⟨rfl, rfl, fun _ _ => rfl, fun _ hk => reg_bump_other s n hk, fun _ h => h⟩

/-- Marking a request as held changes no request's operation. -/
theorem op_of_mem_markHeld {v : Nat} {rs : List Request} {r : Request} (h : r ∈ markHeld v rs) : ∃ x ∈ rs, x.op = r.op := by
  induction rs with
  | nil => cases h
  | cons y rs ih =>
    unfold markHeld at h
    split at h
    · obtain rfl | h := List.mem_cons.mp h
      · exact ⟨y, List.mem_cons_self, rfl⟩
      · exact ⟨r, List.mem_cons_of_mem _ h, rfl⟩
    · obtain rfl | h := List.mem_cons.mp h
      · exact ⟨r, List.mem_cons_self, rfl⟩
      · obtain ⟨x, hx, hop⟩ := ih h
        exact ⟨x, List.mem_cons_of_mem _ hx, hop⟩

theorem countHeld_granted (s : State) (l : Core) : Granted l s (countHeld s l) := by
  refine List.foldlRecOn _ _ (motive := Granted l s) (.refl l s) fun t ht v _ => ?_
  dsimp only
  split
  case h_1 =>
    split
    case isTrue => exact ht
    case isFalse =>
      refine (ht.trans (granted_modCore (fun _ => rfl) fun idx hidx => ?_)).trans (granted_bump_hotspot 1)
      obtain ⟨hreqs, hslots⟩ := hasRequests_eq_false_iff.mp hidx
      refine hasRequests_eq_false_iff.mpr ⟨fun r hr => ?_, hslots⟩
      obtain ⟨x, hx, hop⟩ := op_of_mem_markHeld hr
      exact hop ▸ hreqs x hx
  case h_2 => exact ht

theorem mem_reqs_of_firstOf {c : CoreState} {v : Nat} {r : Request} (h : firstOf c v = some r) : r ∈ c.reqs :=
  List.mem_of_find?_eq_some h

/-- A request moved to a slot (R304). -/
def toSlot (r : Request) (since : Nat) (c : CoreState) : CoreState :=
  { c with reqs := c.reqs.erase r, slots := c.slots ++ [{ req := r, since := since }], lastUnit := r.unit.num }

theorem toSlot_granted {r : Request} (since : Nat) (h : r ∈ (coreOf s l).reqs) : Granted l s (modCore s l (toSlot r since)) := by
  refine granted_modCore (fun _ => rfl) fun idx hidx => ?_
  obtain ⟨hreqs, hslots⟩ := hasRequests_eq_false_iff.mp hidx
  refine hasRequests_eq_false_iff.mpr ⟨fun y hy => hreqs y (List.mem_of_mem_erase hy), fun x hx => ?_⟩
  obtain hx | hx := List.mem_append.mp hx
  · exact hslots x hx
  · obtain rfl := List.mem_singleton.mp hx
    exact hreqs r h

theorem grant_granted (l : Core) (n : Nat) (s : State) : Granted l s (grant l n s) := by
  induction n generalizing s with
  | zero => exact .refl l s
  | succ n ih =>
    have hheld := countHeld_granted s l
    unfold grant
    dsimp only
    split
    case isTrue => exact hheld
    case isFalse =>
      split
      case h_1 => exact hheld
      case h_2 r hr =>
        obtain ⟨v, -, hv⟩ := List.mem_filterMap.mp (List.mem_of_find?_eq_some hr)
        exact (hheld.trans (toSlot_granted (countHeld s l).clk (mem_reqs_of_firstOf hv))).trans (ih _)

theorem freeSlot_granted (s : State) (l : Core) (i : Nat) : Granted l s (freeSlot s l i) := by
  refine .trans (granted_modCore (fun _ => rfl) fun idx hidx => ?_) (grant_granted l _ _)
  obtain ⟨hreqs, hslots⟩ := hasRequests_eq_false_iff.mp hidx
  exact hasRequests_eq_false_iff.mpr ⟨hreqs, fun x hx => hslots x (List.mem_of_mem_eraseIdx hx)⟩

/-- With no request waiting a slot freed is only gone (R304). -/
theorem freeSlot_of_no_requests {i : Nat} (h : (coreOf s l).reqs = []) :
    freeSlot s l i = modCore s l fun c => { c with slots := c.slots.eraseIdx i } := by
  rw [freeSlot, h]
  rfl

/-- The requests and slots of an operation removed (R304). -/
def forgetRequests (s : State) (l : Core) (idx : Nat) : State :=
  modCore s l fun c => { c with reqs := c.reqs.filter fun r => r.op != idx, slots := c.slots.filter fun x => x.req.op != idx }

theorem forgetRequests_granted (s : State) (l : Core) (idx : Nat) : Granted l s (forgetRequests s l idx) := by
  refine granted_modCore (fun _ => rfl) fun j hj => ?_
  obtain ⟨hreqs, hslots⟩ := hasRequests_eq_false_iff.mp hj
  exact hasRequests_eq_false_iff.mpr
    ⟨fun r hr => hreqs r (List.mem_filter.mp hr).1, fun x hx => hslots x (List.mem_filter.mp hx).1⟩

theorem dropRequests_granted (s : State) (l : Core) (idx : Nat) : Granted l s (dropRequests s l idx) :=
  (forgetRequests_granted s l idx).trans (grant_granted l _ _)

/-- An operation that faulted has no request and no slot (R304). -/
theorem hasRequests_dropRequests (s : State) (l : Core) (idx : Nat) : hasRequests (coreOf (dropRequests s l idx) l) idx = false := by
  refine (grant_granted l _ _).requests idx (hasRequests_eq_false_iff.mpr ?_)
  rw [coreOf_modCore_self]
  exact ⟨fun r hr => by simpa using (List.mem_filter.mp hr).2, fun x hx => by simpa using (List.mem_filter.mp hx).2⟩

end

/-! #### The responses of a slot's request (R304, R307, R334) -/

section
variable {s u : State} {l : Core} {i : Nat} {x : Slot}

theorem execMemReadResponse_of_data {errs mErrs : List SymErr} {d : List Byte} (hx : (coreOf s l).slots[i]? = some x)
    (hw : x.req.write = false) (hr : readGranule s x.req.addr errs mErrs l.val = (u, some d)) :
    execMemReadResponse l i errs mErrs s = .next (freeSlot u l i) := by
  simp [execMemReadResponse, hx, hw, hr]

theorem execMemReadResponse_of_error {errs mErrs : List SymErr} (hx : (coreOf s l).slots[i]? = some x)
    (hw : x.req.write = false) (hr : readGranule s x.req.addr errs mErrs l.val = (u, none)) :
    execMemReadResponse l i errs mErrs s = .next
      (opFault (dropRequests (freeSlot u l i) l x.req.op) l x.req.unit x.req.op 0 x.req.addr eUNCORR 0x03) := by
  simp [execMemReadResponse, hx, hw, hr]

theorem execMemWriteAck_of_write (hx : (coreOf s l).slots[i]? = some x) (hw : x.req.write = true) :
    execMemWriteAck l i s = .next (freeSlot s l i) := by
  simp [execMemWriteAck, hx, hw]

theorem execMemRequestTimeout_of_early (hx : (coreOf s l).slots[i]? = some x) (ht : elapsed s x.since 50000 = false) (late : Bool) :
    execMemRequestTimeout l i late s = .next s := by
  simp [execMemRequestTimeout, hx, ht]

theorem execMemRequestTimeout_of_unanswered (hx : (coreOf s l).slots[i]? = some x) (ht : elapsed s x.since 50000 = true) :
    execMemRequestTimeout l i false s =
      .next (opFault (dropRequests s l x.req.op) l x.req.unit x.req.op 0 x.req.addr eTIMEOUT 0x10) := by
  simp [execMemRequestTimeout, hx, ht]

/-- A request whose answer registers in the cycle of its timeout is answered after all (R314). -/
theorem execMemRequestTimeout_of_late (hx : (coreOf s l).slots[i]? = some x) (ht : elapsed s x.since 50000 = true) :
    execMemRequestTimeout l i true s =
      if x.req.write then execMemWriteAck l i (lateAccept s 1) else execMemReadResponse l i [] [] (lateAccept s 1) := by
  simp [execMemRequestTimeout, hx, ht]

end

/-! #### The token watchdog (R300, R314) -/

section
variable {s : State} {l : Core} {w : BitVec 256}

/-- While the watchdog is held nothing happens (R300). -/
theorem execTokenTimeout_of_held (hheld : s.job.held = true) (late : Option (Fin 256)) : execTokenTimeout l late s = .next s := by
  unfold execTokenTimeout
  dsimp only
  split
  case h_1 => rfl
  case h_2 => simp [hheld]

/-- The meaning of TOKEN_TIMEOUT for an oldest operation that has waited for TOKEN_TIMEOUT. -/
theorem execTokenTimeout_of_due (hw : streamWord s l (coreOf s l).base = some w) (hrun : executing s = true)
    (hheld : s.job.held = false) (hhalt : (coreOf s l).halted = false)
    (hwait : ∃ k ∈ opWaits w, tokenSet (coreOf s l) k = false)
    (ht : elapsed s (coreOf s l).watch (reg s Obj.tokenTimeout) = true) (late : Option (Fin 256)) :
    execTokenTimeout l late s = .next (late.elim
      (opFault s l (((opcodeOf w).map Opcode.queue).getD .sched) (coreOf s l).base 3 (coreOf s l).base eTIMEOUT 0x10)
      fun k => setToken (lateAccept s 0) l k.val) := by
  have hall : (opWaits w).all (tokenSet (coreOf s l)) = false := by simpa using hwait
  simp only [execTokenTimeout, hw, hrun, hheld, hhalt, hall, ht, Bool.not_true, Bool.or_self, Bool.false_eq_true, if_false]
  cases late with
  | none =>
    cases opcodeOf w <;>
      simp only [Option.elim_none, Option.map_none, Option.map_some, Option.getD_none, Option.getD_some]
  | some k => rfl

end

@[simp] theorem lateAccept_coreOf (s : State) (n : Nat) (l : Core) : coreOf (lateAccept s n) l = coreOf s l := rfl

/-- A late acceptance counts in its class (R314, R315). -/
theorem reg_lateAccept (s : State) {n : Nat} (hn : n < 2 ^ 32) :
    reg (lateAccept s n) (Obj.lateAccept + n) = (reg s (Obj.lateAccept + n) + 1) % 2 ^ 32 := by
  have hsize : keySize (Obj.lateAccept + n) = 4 := by
    rw [keySize_add_elem (by simp only [Obj.lateAccept]; omega)]
    decide
  rw [lateAccept, reg_bump_self, hsize]

/-! #### The violation entry of a schedule fault (R294, R479) -/

/-- An entry of the violation log (R479). -/
def violationEntry (s : State) (kind num space addr code : Nat) (key : List Byte) : List Byte :=
  leBytes 8 (ptpNow s) ++ leBytes 8 addr ++ leBytes 4 (num % 2 ^ 24 + kind * 2 ^ 24) ++ leBytes 1 space ++ leBytes 1 code
    ++ leBytes 2 0 ++ (key ++ List.replicate 8 0#8).take 8

/-- After its time an entry of the violation log holds the address, who, the space, the code and the key (R479). -/
theorem drop_violationEntry (s : State) (kind num space addr code : Nat) :
    (leBytes 32 (ofLE (violationEntry s kind num space addr code []))).drop 8 =
      leBytes 8 addr ++ leBytes 4 (num % 2 ^ 24 + kind * 2 ^ 24) ++ leBytes 1 space ++ leBytes 1 code ++ leBytes 2 0 ++
        List.replicate 8 0#8 := by
  have hlen : (violationEntry s kind num space addr code []).length = 32 := by
    simp only [violationEntry, List.length_append, length_leBytes]
    rfl
  have hkey : ([] ++ List.replicate 8 0#8).take 8 = List.replicate 8 (0#8 : Byte) := rfl
  rw [← hlen, leBytes_ofLE, violationEntry, hkey]
  simp only [List.append_assoc]
  exact List.drop_left' (length_leBytes 8 _)

/-- A violation is logged by its entry, and then only told (R479). -/
theorem violation_logged (s : State) (kind num space addr code : Nat) (key : List Byte) :
    Told (logViolation s (violationEntry s kind num space addr code key)) (violation s kind num space addr code key) :=
  raiseEvent_told _ _ _

/-- The violation log after a violation and its fault holds the violation's entry at its head (R479). -/
theorem reg_violLog_logViolation {s u t : State} {code : Nat} {v e : List Byte} (hcode : code < 0x20)
    (hu : Told (logViolation s v) u) (ht : Told (logFault u code e) t) :
    reg t (Obj.violLog + reg s Obj.violHead % 64) = ofLE v := by
  have hd : Obj.eventDropped + 16 ≤ Obj.violLog + reg s Obj.violHead % 64 := by
    simp only [Obj.eventDropped, Obj.violLog]
    omega
  rw [ht.reg _ (ne_eventDropped hd), logFault, reg_bump_other _ 1 (by simp only [Obj.violLog, Obj.faultCount]; omega),
    reg_setReg_other _ _ (by simp only [Obj.violLog, Obj.faultLogHead]; omega),
    reg_setReg_other _ _ (by simp only [Obj.violLog, Obj.faultLog]; omega), hu.reg _ (ne_eventDropped hd), logViolation,
    reg_setReg_other _ _ (by simp only [Obj.violLog, Obj.violHead]; omega), reg_setReg_self]

theorem reg_job (s : State) (j : JobState) (k : Nat) : reg { s with job := j } k = reg s k := rfl

/-- The entry that a schedule fault leaves in the violation log names its core and queue, and what it met (R294, R479). -/
theorem opFault_violLog (s : State) (l : Core) (q : Queue) (idx space addr err : Nat) {code : Nat} (hcode : code < 0x20) :
    (leBytes 32 (reg (opFault s l q idx space addr err code) (Obj.violLog + reg s Obj.violHead % 64))).drop 8 =
      leBytes 8 addr ++ leBytes 4 ((l.val * 256 + q.num) % 2 ^ 24 + 2 ^ 24) ++ leBytes 1 space ++ leBytes 1 err ++ leBytes 2 0 ++
        List.replicate 8 0#8 := by
  have hlog := reg_violLog_logViolation hcode
    (violation_logged (leaveUnits s l idx) 1 (l.val * 256 + q.num) space addr err [])
    (reportFault_told _ code 1 (if code = 0x10 then idx else addr) err l.die.val l.val)
  have hreg (k : Nat) : reg (opFault s l q idx space addr err code) k =
      reg (reportFault (violation (leaveUnits s l idx) 1 (l.val * 256 + q.num) space addr err []) code 1
        (if code = 0x10 then idx else addr) err l.die.val l.val) k := by
    rw [opFault_eq]
    exact reg_job _ _ k
  have hhead : reg (leaveUnits s l idx) Obj.violHead = reg s Obj.violHead := rfl
  rw [hreg, ← hhead, hlog, drop_violationEntry, Nat.one_mul]

end Sys2Proof.Machine

namespace Sys2Proof.Slice0
open Sys2Proof.Machine

/-- Settles O18: a response frees its slot, and what the slot's freeing serves changes requests and slots alone. -/
theorem responsesFreeTheirSlots : Obligations.ResponsesFreeTheirSlots := by
  intro s l i x hx
  have hgranted := freeSlot_granted s l i
  refine ⟨fun hw errs mErrs u d hr => execMemReadResponse_of_data hx hw hr,
    fun hw errs mErrs u hr => execMemReadResponse_of_error hx hw hr,
    fun hw => ⟨_, execMemWriteAck_of_write hx hw, rfl, ?_, ?_, ?_⟩, fun hreqs => ?_⟩
  · rw [hgranted.rest]
  · rw [hgranted.core]
  · rw [hgranted.core]
  · rw [freeSlot_of_no_requests hreqs]
    exact ⟨coreOf_modCore_self s l _, fun c hc => coreOf_modCore_other s _ hc, rfl⟩

/-- Settles O19: the operation's requests are dropped, and then it is a schedule fault like any other. -/
theorem unansweredRequestFaultsItsOperation : Obligations.UnansweredRequestFaultsItsOperation := by
  intro s l i x hx
  refine ⟨fun ht late => execMemRequestTimeout_of_early hx ht late,
    fun ht => ⟨⟨_, execMemRequestTimeout_of_unanswered hx ht, ?_⟩, reg_lateAccept s (by decide), fun hw => ?_, fun hw => ?_⟩⟩
  · have hgranted := dropRequests_granted s l x.req.op
    obtain ⟨hreqs, hslots⟩ := hasRequests_eq_false_iff.mp (hasRequests_dropRequests s l x.req.op)
    have hviol := opFault_violLog (dropRequests s l x.req.op) l x.req.unit x.req.op 0 x.req.addr eTIMEOUT (code := 0x10) (by decide)
    obtain ⟨-, hflight, -, -, hothers, hjob, hmem, -, -, -, -, -, -, -, -, -, -, hcount, -⟩ :=
      scheduleFaultHaltsItsCore (dropRequests s l x.req.op) l x.req.unit x.req.op 0 x.req.addr eTIMEOUT 0x10 (by decide)
    rw [hgranted.reg _ (by simp only [Obj.violHead, Obj.hotspot]; omega)] at hviol
    rw [hgranted.reg _ (by simp only [Obj.faultCount, Obj.hotspot]; omega)] at hcount
    have hcore := opFault_coreOf (dropRequests s l x.req.op) l x.req.unit x.req.op 0 x.req.addr eTIMEOUT 0x10
    refine ⟨?_, fun y hy => hslots y ?_, fun y hy => hreqs y ?_, ?_, fun y => ?_,
      fun c hc => (hothers c hc).trans (hgranted.others c hc), ?_, ?_, hviol, hcount⟩
    · rw [hcore]
      rfl
    · rwa [hcore] at hy
    · rwa [hcore] at hy
    · rw [hcore, hgranted.core]
      rfl
    · rw [hflight, hgranted.core]
    · rw [hmem, hgranted.rest]
    · rw [hjob, hgranted.rest]
  · rw [← execMemWriteAck_of_write (s := lateAccept s 1) hx hw]
    exact (execMemRequestTimeout_of_late hx ht).trans (if_pos hw)
  · exact (execMemRequestTimeout_of_late hx ht).trans (if_neg (by simp [hw]))

/-- Settles O20: the watchdog's fault is a schedule fault of the oldest operation, and a token that registers in that clock is set. -/
theorem tokenWatchdogFaultsTheOldestOperation : Obligations.TokenWatchdogFaultsTheOldestOperation := by
  intro s l w hw
  refine ⟨fun hheld late => execTokenTimeout_of_held hheld late,
    fun hrun hheld hhalt hwait ht => ⟨⟨_, execTokenTimeout_of_due hw hrun hheld hhalt hwait ht none, ?_⟩, fun k hk => ?_⟩⟩
  · have hqueue : (((opcodeOf w).map fun op => op.queue.num).getD Queue.sched.num) =
        (((opcodeOf w).map Opcode.queue).getD .sched).num := by cases opcodeOf w <;> rfl
    obtain ⟨-, -, -, -, hothers, -, hmem, -⟩ := scheduleFaultHaltsItsCore s l (((opcodeOf w).map Opcode.queue).getD .sched)
      (coreOf s l).base 3 (coreOf s l).base eTIMEOUT 0x10 (by decide)
    rw [hqueue]
    have hcore := opFault_coreOf s l (((opcodeOf w).map Opcode.queue).getD .sched) (coreOf s l).base 3 (coreOf s l).base
      eTIMEOUT 0x10
    exact ⟨hcore, (congrArg CoreState.halted hcore).trans rfl, (congrArg CoreState.tokens hcore).trans rfl, hothers, hmem,
      opFault_violLog _ _ _ _ _ _ _ (by decide)⟩
  · have hset := setToken_tokensSet (lateAccept s 0) l k.val
    refine ⟨_, execTokenTimeout_of_due hw hrun hheld hhalt hwait ht (some k), fun i => ?_, ?_, ?_, hset.rest⟩
    · refine (hset.tokens i).trans ?_
      simp [Fin.ext_iff]
    · refine (congrArg CoreState.halted hset.core).trans ?_
      exact hhalt
    · refine (hset.reg Obj.lateAccept (by simp only [Obj.lateAccept, Obj.tokenDoubleSet]; omega)).trans ?_
      exact reg_lateAccept s (by decide)

end Sys2Proof.Slice0

/-! ### Transactions and pauses (R314, R463 to R466, R469, R472, R476, R477, R483) -/

namespace Sys2Proof.Machine

/-! #### A request that Dunrel takes up, and its answer (R463 to R466) -/

section
variable {s : State} {m : DReq} {x : Session}

/-- A live request is served in the state that has heard its session. -/
theorem receive_of_live (h : Slice0.Live s m x) (f : State → Session → State) :
    receive s m f = f (Slice0.heard s m) { x with last := s.clk } := by
  obtain ⟨hx, hver, hlen, hseg, hkept⟩ := h
  have hold : x.kept.filter (fun k => k.1 == m.reqId) = [] := List.filter_eq_nil_iff.mpr (by simpa using hkept)
  have hfits : ¬ segMax (modSess s m.sess fun y => { y with last := s.clk }) < m.payload.length := Nat.not_lt.mpr hseg
  simp only [receive, hx, hver, hlen, hold, hfits, ne_eq, not_true_eq_false, Bool.not_true, Bool.false_eq_true,
    or_self, if_false, List.reverse_nil, List.isEmpty_nil, true_or, if_true]
  rfl

theorem heard_session (hx : s.dunrel.sessions[m.sess] = some x) :
    (Slice0.heard s m).dunrel.sessions[m.sess] = some { x with last := s.clk } := by
  simp [Slice0.heard, modSess, hx]

/-- One response handed to the port and kept (R464, R466). -/
def answered (s : State) (m : DReq) (d : DMsg) : State :=
  modSess (send s (.dunrel m.sess true d)) m.sess fun y => { y with kept := keepAnswers ((m.reqId, d) :: y.kept) }

/-- The response to a request that is no READ and no WRITE, other than E_ACCESS, is no violation (R479). -/
theorem respond_single {d : DMsg} (hx : s.dunrel.sessions[m.sess] = some x) (hread : m.type ≠ 1) (hwrite : m.type ≠ 2)
    (hd : d.code ≠ eACCESS) : respond s m [d] = answered s m d := by
  have hmem : (m.type == 1 || m.type == 2) = false := by simp [hread, hwrite]
  have hdenied : (d.code == eACCESS) = false := by simpa using hd
  simp only [respond, hx, hmem, hdenied, List.any_cons, List.any_nil, Bool.or_false, Bool.false_and, Bool.false_eq_true, if_false,
    List.foldl_cons, List.foldl_nil, List.reverse_singleton, List.map_cons, List.map_nil, List.singleton_append]
  rfl

@[simp] theorem answered_regs (s : State) (m : DReq) (d : DMsg) : (answered s m d).regs = s.regs := rfl
@[simp] theorem answered_mem (s : State) (m : DReq) (d : DMsg) : (answered s m d).mem = s.mem := rfl
@[simp] theorem answered_cores (s : State) (m : DReq) (d : DMsg) : (answered s m d).cores = s.cores := rfl
@[simp] theorem answered_reg (s : State) (m : DReq) (d : DMsg) (k : Nat) : reg (answered s m d) k = reg s k := rfl

end

/-! #### Handles (R469) -/

theorem findSome?_successor (p : Nat → Bool) (xs : List Nat) :
    xs.findSome? (fun i => if p i then none else some (i + 1)) = (xs.find? fun i => !p i).map (· + 1) := by
  induction xs with
  | nil => rfl
  | cons i r ih =>
    rw [List.findSome?_cons, List.find?_cons, ih]
    cases p i <;> rfl

theorem freeHandle_of_full {s : State} (h : 4 ≤ s.dunrel.txns.length) : freeHandle s = none := if_pos h

/-- The lowest free handle is a handle that no transaction has, and each one below it is taken (R469). -/
theorem freeHandle_spec {s : State} {h : Nat} (hh : freeHandle s = some h) : 1 ≤ h ∧ h ≤ 255 ∧ s.dunrel.txns.length < 4 ∧
    (∀ y ∈ s.dunrel.txns, y.handle ≠ h) ∧ ∀ k, 1 ≤ k → k < h → ∃ y ∈ s.dunrel.txns, y.handle = k := by
  have hroom : s.dunrel.txns.length < 4 := Nat.lt_of_not_le fun hfull => by
    rw [freeHandle_of_full hfull] at hh
    cases hh
  rw [freeHandle, if_neg (by omega), findSome?_successor, Option.map_eq_some_iff] at hh
  obtain ⟨i, hi, rfl⟩ := hh
  obtain ⟨hfree, hrange, hbelow⟩ := List.find?_range_eq_some.mp hi
  refine ⟨by omega, by have := List.mem_range.mp hrange; omega, hroom, by simpa using hfree, fun k hk1 hk => ?_⟩
  have htaken := hbelow (k - 1) (by omega)
  rw [Nat.sub_add_cancel hk1] at htaken
  simpa using htaken

/-! #### The transaction that a request names (R469) -/

section
variable {s : State} {m : DReq} {t : Txn}

theorem touchTxn_of_none (h : ownTxn s m = none) : touchTxn s m = s := by
  unfold touchTxn
  rw [h]

theorem touchTxn_of_own (h : ownTxn s m = some t) : touchTxn s m = putTxn s { t with last := s.clk } := by
  unfold touchTxn
  rw [h]

/-- A transaction that a message names is found again, with its idle time begun anew. -/
theorem ownTxn_touchTxn (h : ownTxn s m = some t) : ownTxn (touchTxn s m) m = some { t with last := s.clk } := by
  rw [touchTxn_of_own h]
  have hfind : s.dunrel.txns.find? (fun t => t.handle == m.txn && t.sess == m.sess) = some t := h
  have ht := List.find?_some hfind
  have hmem : { t with last := s.clk } ∈ (putTxn s { t with last := s.clk }).dunrel.txns :=
    List.mem_map.mpr ⟨t, List.mem_of_find?_eq_some hfind, if_pos rfl⟩
  obtain ⟨w, hw⟩ := Option.isSome_iff_exists.mp (List.find?_isSome (p := fun t => t.handle == m.txn && t.sess == m.sess)
    |>.mpr ⟨_, hmem, ht⟩)
  obtain ⟨u, -, hu⟩ := List.mem_map.mp (List.mem_of_find?_eq_some hw)
  have hnamed := List.find?_some hw
  refine hw.trans (congrArg some ?_)
  split at hu
  case isTrue => exact hu.symm
  case isFalse hne =>
    subst hu
    simp only [Bool.and_eq_true, beq_iff_eq] at ht hnamed
    exact absurd (hnamed.1.trans ht.1.symm) hne

theorem mem_txns_touchTxn (h : ownTxn s m = some t) : { t with last := s.clk } ∈ (touchTxn s m).dunrel.txns :=
  List.mem_of_find?_eq_some (ownTxn_touchTxn h)

end

/-! #### Transactions that end (R469, R472) -/

/-- An OPEN transaction that is aborted is gone, and counts (R469). -/
theorem abortTxn_of_open (s : State) {t : Txn} (h : t.state = .open) : abortTxn s t = bump (dropTxn s t.handle) Obj.txnAborted 1 := by
  have hidle : imageIdle (dropTxn s t.handle) t = dropTxn s t.handle := by
    rw [imageIdle, h]
    rfl
  rw [abortTxn, hidle]

theorem reg_bump_txnAborted (s : State) : reg (bump s Obj.txnAborted 1) Obj.txnAborted = (reg s Obj.txnAborted + 1) % 2 ^ 32 := by
  have hsize : keySize Obj.txnAborted = 4 := by decide
  rw [reg_bump_self, hsize]

theorem reg_abortTxn (s : State) (t : Txn) : reg (abortTxn s t) Obj.txnAborted = (reg s Obj.txnAborted + 1) % 2 ^ 32 := by
  have hidle : reg (imageIdle (dropTxn s t.handle) t) Obj.txnAborted = reg s Obj.txnAborted := by
    unfold imageIdle
    split
    · exact reg_setReg_other _ _ (by decide)
    · rfl
  rw [abortTxn, reg_bump_txnAborted, hidle]

/-- What an abort leaves beside registers: everything but the transaction itself. -/
theorem abortTxn_eq (s : State) (t : Txn) : abortTxn s t = { s with
    regs := (abortTxn s t).regs, dunrel := { s.dunrel with txns := s.dunrel.txns.filter fun y => y.handle != t.handle } } := by
  unfold abortTxn imageIdle
  split <;> rfl

/-- A waiting transaction that ends with a code other than OK is aborted, and its session is told (R469). -/
theorem endTxn_told (s : State) (t : Txn) {code : Nat} (h : code ≠ eOK) : Told (abortTxn s t) (endTxn s t code) := by
  simp only [endTxn, if_neg h]
  exact deliver_told _ _ _ _

/-- What the end of a waiting transaction leaves and counts (R469). -/
theorem endTxn_frame (s : State) (t : Txn) {code : Nat} (h : code ≠ eOK) :
    (endTxn s t code).mem = s.mem ∧ (endTxn s t code).cores = s.cores ∧ (endTxn s t code).dev = s.dev ∧
    (endTxn s t code).dunrel.txns = s.dunrel.txns.filter (fun y => y.handle != t.handle) ∧
    reg (endTxn s t code) Obj.txnAborted = (reg s Obj.txnAborted + 1) % 2 ^ 32 := by
  have htold := endTxn_told s t h
  refine ⟨?_, ?_, ?_, ?_, (htold.reg _ (ne_eventDropped (by decide))).trans (reg_abortTxn s t)⟩ <;>
    rw [htold.rest, abortTxn_eq]

theorem find?_and_of_find? {α : Type} {p q : α → Bool} {xs : List α} {a : α} (h : xs.find? p = some a) (hq : q a = true) :
    xs.find? (fun x => p x && q x) = some a := by
  obtain ⟨hp, as, bs, hxs, hbefore⟩ := List.find?_eq_some_iff_append.mp h
  exact List.find?_eq_some_iff_append.mpr ⟨by simp [hp, hq], as, bs, hxs, fun x hx => by
    have hpx : p x = false := by simpa using hbefore x hx
    simp [hpx]⟩

section
variable {s : State} {m : DReq} {x : Session}

/-- A transaction as TXN_OPEN makes it (R469, R483). -/
def opened (s : State) (m : DReq) (h : Nat) : Txn :=
  { handle := h, sess := m.sess, last := s.clk, reqId := m.reqId, snapRegs := snapshot (Slice0.heard s m), snapMem := s.mem }

theorem opened_snapRegs (s : State) (m : DReq) (h : Nat) : (opened s m h).snapRegs = snapshot (Slice0.heard s m) := by
  simp only [opened]

/-- The state with that transaction among the others. -/
def withOpened (s : State) (m : DReq) (h : Nat) : State :=
  modDun (Slice0.heard s m) fun d => { d with txns := d.txns ++ [opened s m h] }

/-- The meaning of TXN_OPEN while a handle is free. -/
theorem execTxnOpen_of_free {h : Nat} (hlive : Slice0.Live s m x) (hm : m.type = 3) (hpay : m.payload = [])
    (hh : freeHandle s = some h) :
    execTxnOpen m s = .next (answered (withOpened s m h) m { answer m eOK with txn := h }) := by
  have hfree : freeHandle (Slice0.heard s m) = some h := hh
  have hsess : (withOpened s m h).dunrel.sessions[m.sess] = _ := heard_session hlive.1
  rw [execTxnOpen, if_neg (by simp [hm]), receive_of_live hlive]
  simp only [openReq, hpay, hfree, ne_eq, not_true_eq_false, if_false]
  exact congrArg _ (respond_single hsess (by simp [hm]) (by simp [hm]) (show eOK ≠ eACCESS by decide))

theorem execTxnOpen_of_full (hlive : Slice0.Live s m x) (hm : m.type = 3) (hpay : m.payload = [])
    (hfull : 4 ≤ s.dunrel.txns.length) : execTxnOpen m s = .next (reply (Slice0.heard s m) m eRANGE) := by
  have hnone : freeHandle (Slice0.heard s m) = none := freeHandle_of_full hfull
  rw [execTxnOpen, if_neg (by simp [hm]), receive_of_live hlive]
  simp only [openReq, hpay, hnone, ne_eq, not_true_eq_false, if_false]

/-- The state in which a request is served that names a transaction: its session and the transaction were heard. -/
def named (s : State) (m : DReq) : State := touchTxn (Slice0.heard s m) m

theorem named_eq (s : State) (m : DReq) : named s m =
    { Slice0.heard s m with dunrel := { (Slice0.heard s m).dunrel with txns := (named s m).dunrel.txns } } := by
  unfold named touchTxn
  split <;> rfl

theorem named_regs (s : State) (m : DReq) : (named s m).regs = s.regs := by
  rw [named_eq]
  rfl

theorem named_mem (s : State) (m : DReq) : (named s m).mem = s.mem := by
  rw [named_eq]
  rfl

theorem named_cores (s : State) (m : DReq) : (named s m).cores = s.cores := by
  rw [named_eq]
  rfl

theorem named_reg (s : State) (m : DReq) (k : Nat) : reg (named s m) k = reg s k := by
  rw [reg, named_regs, reg]

theorem named_session (hx : s.dunrel.sessions[m.sess] = some x) :
    (named s m).dunrel.sessions[m.sess] = some { x with last := s.clk } := by
  rw [named_eq]
  exact heard_session hx

theorem ownTxn_named {t : Txn} (ht : ownTxn s m = some t) : ownTxn (named s m) m = some { t with last := s.clk } :=
  ownTxn_touchTxn (s := Slice0.heard s m) ht

/-- The meaning of TXN_ABORT for the session's own OPEN transaction. -/
theorem execTxnAbort_of_open {t : Txn} (hlive : Slice0.Live s m x) (hm : m.type = 5) (hpay : m.payload = [])
    (ht : ownTxn (named s m) m = some t) (hopen : t.state = .open) : execTxnAbort m s =
      .next (answered (bump (dropTxn (named s m) t.handle) Obj.txnAborted 1) m (answer m eOK)) := by
  have hreply : reply (bump (dropTxn (named s m) t.handle) Obj.txnAborted 1) m eOK = _ :=
    respond_single (named_session hlive.1) (by simp [hm]) (by simp [hm]) (show eOK ≠ eACCESS by decide)
  rw [execTxnAbort, if_neg (by simp [hm]), receive_of_live hlive, abortReq, ← named]
  simp [hpay, ht, hopen, abortTxn_of_open _ hopen, hreply]

/-- The meaning of TXN_ABORT for a transaction that waits. -/
theorem execTxnAbort_of_waiting {t : Txn} (hlive : Slice0.Live s m x) (hm : m.type = 5) (hpay : m.payload = [])
    (ht : ownTxn (named s m) m = some t) (hwait : t.state ≠ .open) :
    execTxnAbort m s = .next (answered (named s m) m (answer m eSTATE)) := by
  have hreply : reply (named s m) m eSTATE = _ :=
    respond_single (named_session hlive.1) (by simp [hm]) (by simp [hm]) (show eSTATE ≠ eACCESS by decide)
  rw [execTxnAbort, if_neg (by simp [hm]), receive_of_live hlive, abortReq, ← named]
  simp [hpay, ht, hwait, hreply]

/-- The meaning of TXN_ABORT for a handle that is not the session's own. -/
theorem execTxnAbort_of_none (hlive : Slice0.Live s m x) (hm : m.type = 5) (hpay : m.payload = []) (ht : ownTxn s m = none) :
    execTxnAbort m s = .next (answered (Slice0.heard s m) m (answer m eSTATE)) := by
  have hown : ownTxn (Slice0.heard s m) m = none := ht
  have hreply : reply (Slice0.heard s m) m eSTATE = _ :=
    respond_single (heard_session hlive.1) (by simp [hm]) (by simp [hm]) (show eSTATE ≠ eACCESS by decide)
  rw [execTxnAbort, if_neg (by simp [hm]), receive_of_live hlive]
  simp [abortReq, hpay, touchTxn_of_none hown, hown, hreply]

/-- The meaning of TXN_DEFER_LIMIT_EXPIRY for a transaction that is DEFERRED. -/
theorem execTxnDeferLimitExpiry_of_deferred {h since : Nat} {t : Txn} (ht : s.dunrel.txns.find? (fun t => t.handle == h) = some t)
    (hstate : t.state = .deferred since) (late : Bool) : execTxnDeferLimitExpiry h late s =
      if elapsed s since (reg s Obj.txnDeferLimit) then
        .next (if late then lateAccept s 3 else settle (endTxn s t eCONFLICT))
      else .next s := by
  simp only [execTxnDeferLimitExpiry, ht, hstate]
  cases elapsed s since (reg s Obj.txnDeferLimit) <;> cases late <;> rfl

/-- The meaning of TXN_IDLE_EXPIRY for a transaction that is OPEN. -/
theorem execTxnIdleExpiry_of_open {h : Nat} {t : Txn} (ht : s.dunrel.txns.find? (fun t => t.handle == h) = some t)
    (hopen : t.state = .open) : execTxnIdleExpiry h s =
      .next (if elapsed s t.last (reg s Obj.txnIdle) then abortTxn s t else s) := by
  have hfind : s.dunrel.txns.find? (fun t => t.handle == h && t.state == .open) = some t :=
    find?_and_of_find? ht (by simp [hopen])
  simp only [execTxnIdleExpiry, hfind]

end

/-! #### Pauses (R476, R477) -/

/-- A boundary that a pause holds stays where it is (R476). -/
theorem advanceBoundary_of_held {s : State} (h : boundaryHeld s = true) : advanceBoundary s = s := by
  simp [advanceBoundary, h]

/-- The timeout action of a function of the boundary is what the boundary does without a decision (R476). -/
theorem timeoutAction_of_atBoundary {s : State} {p : Pause} (h : atBoundary p.selector = true) :
    timeoutAction s p = advanceBoundary s := by
  unfold timeoutAction
  split
  case h_5 => rfl
  all_goals
    rename_i hsel
    rw [hsel] at h
    exact absurd h (by decide)

theorem joinSegs_single (b : List Byte) : joinSegs [(0, b)] b.length = b := by
  refine List.ext_getElem (by simp [joinSegs]) fun i hi hb => ?_
  simp [joinSegs, hb]

/-- A decision that comes in one segment is whole, and is that segment (R477). -/
theorem decideValue_of_one_segment {p : Pause} {m : DReq} (hoff : m.offset = 0) (htotal : m.total = m.payload.length) :
    (decideValue p m).total = m.payload.length ∧ (decideValue p m).whole = true ∧ (decideValue p m).bytes = m.payload := by
  have htot : (decideValue p m).total = m.payload.length := by
    simp only [decideValue, hoff, htotal, Nat.zero_add, ite_self]
  have hsegs : (decideValue p m).segs = if m.payload.isEmpty then [] else [(0, m.payload)] := by
    simp only [decideValue, hoff, if_true, putSeg, List.flatMap_nil]
  refine ⟨htot, ?_, ?_⟩
  · rw [StagedVal.whole, htot, hsegs]
    cases m.payload <;> simp
  · rw [StagedVal.bytes, htot, hsegs]
    split
    case isTrue hnil => rw [List.isEmpty_iff.mp hnil]; rfl
    case isFalse => exact joinSegs_single m.payload

/-- The bytes of a segment are fewer than those of a report (R463, R476). -/
theorem segMax_lt_reportMax (s : State) : segMax s < reportMax := by
  unfold segMax
  split <;> decide

/-- The meaning of PAUSE_TIMEOUT for a pause that does not wait, or whose deadline has not come. -/
theorem execPauseTimeout_of_early {s : State} {id : Nat} {p : Pause} (hp : pauseNamed s id = some p)
    (h : p.state ≠ .waiting ∨ ptpNow s < p.deadline) : execPauseTimeout id s = .next s := by
  have hno : ¬ (p.state = .waiting ∧ p.deadline ≤ ptpNow s) := fun ⟨hwait, hdue⟩ => h.elim (· hwait) (Nat.not_lt.mpr hdue)
  simp only [execPauseTimeout, hp, if_neg hno]

theorem execPauseTimeout_of_due {s : State} {id : Nat} {p : Pause} (hp : pauseNamed s id = some p)
    (hwait : p.state = .waiting) (hdue : p.deadline ≤ ptpNow s) : execPauseTimeout id s = .next (endPause s p) := by
  simp only [execPauseTimeout, hp, if_pos (And.intro hwait hdue)]

section
variable {s : State} {m : DReq} {x : Session} {p : Pause}

theorem execDecide_of_live (h : Slice0.Live s m x) (hm : m.type = 9) :
    execDecide m s = .next (decideReq m (Slice0.heard s m) { x with last := s.clk }) := by
  rw [execDecide, if_pos hm, receive_of_live h]

/-- A decision within its function's limits ends its pause as decided (R477). -/
theorem judge_of_accepted {b : List Byte} (h : checkDecision s p.selector b = eOK) : judge s p b =
    (applyDecision (modPause s p.id fun q => { q with state := .decided, decision := [(0, b)] }) p b, eOK) := if_pos h

/-- A decision outside them ends it as a timeout does (R477). -/
theorem judge_of_refused {b : List Byte} (h : checkDecision s p.selector b ≠ eOK) :
    judge s p b = (endPause s p, checkDecision s p.selector b) := if_neg h

/-- A decision of one segment for a pause that waits is judged (R314, R477). -/
theorem decideReq_of_waiting (hlevel : 3 ≤ x.level) (hp : pauseNamed s m.element = some p) (hwait : p.state = .waiting)
    (hsel : p.selector = m.index) (hdue : ptpNow s ≤ p.deadline) (hoff : m.offset = 0) (hmore : m.more = false)
    (htotal : m.total = m.payload.length) (hseg : m.payload.length ≤ segMax s) :
    decideReq m s x =
      let r := judge (if p.deadline = ptpNow s then lateAccept s 2 else s) p m.payload
      reply r.1 m r.2 := by
  obtain ⟨htot, hwhole, hbytes⟩ := decideValue_of_one_segment (p := p) hoff htotal
  have hshort : ¬ (m.payload.length > reportMax ∨ m.offset + m.payload.length > m.payload.length) := by
    have := segMax_lt_reportMax s
    omega
  simp only [decideReq, hp, hwait, hsel, htot, hwhole, hbytes, hmore, if_neg hshort, Nat.not_lt.mpr hlevel, Nat.not_lt.mpr hdue,
    if_false, reduceCtorEq, and_false, or_self, ne_eq, not_true_eq_false, Bool.not_true, Bool.false_eq_true]

/-- A decision for a pause that has timed out, or whose deadline has passed (R314). -/
theorem decideReq_of_late (hlevel : 3 ≤ x.level) (hp : pauseNamed s m.element = some p)
    (hlate : p.state = .timedOut ∨ (p.state = .waiting ∧ p.deadline < ptpNow s)) : decideReq m s x = reply s m eTIMEOUT := by
  simp only [decideReq, hp, if_pos hlate, Nat.not_lt.mpr hlevel, if_false]

/-- A decision for a pause that has its decision, or of another selector (R477). -/
theorem decideReq_of_other (hlevel : 3 ≤ x.level) (hp : pauseNamed s m.element = some p)
    (hother : p.state = .decided ∨ (p.state = .waiting ∧ ptpNow s ≤ p.deadline ∧ p.selector ≠ m.index)) :
    decideReq m s x = reply s m eSTATE := by
  have hontime : ¬ (p.state = .timedOut ∨ (p.state = .waiting ∧ p.deadline < ptpNow s)) := by
    obtain hdone | ⟨hwait, hdue, -⟩ := hother
    · simp [hdone]
    · simp [hwait, hdue]
  have hnot : p.state ≠ .waiting ∨ p.selector ≠ m.index := by
    obtain hdone | ⟨-, -, hsel⟩ := hother
    · exact .inl (by simp [hdone])
    · exact .inr hsel
  simp only [decideReq, hp, if_neg hontime, if_pos hnot, Nat.not_lt.mpr hlevel, if_false]

end

end Sys2Proof.Machine

namespace Sys2Proof.Slice0
open Sys2Proof.Machine

theorem pauseTimeoutsApplyTheirAction : PauseTimeoutsApplyTheirAction := by
  intro s id p hp
  refine ⟨fun h => execPauseTimeout_of_early hp h, fun hwait hdue => ⟨execPauseTimeout_of_due hp hwait hdue, fun hsel => ?_,
    fun hb hheld => (timeoutAction_of_atBoundary hb).trans (advanceBoundary_of_held hheld)⟩⟩
  unfold timeoutAction
  rw [hsel]
  rfl

theorem decisionsEndTheirPauses : DecisionsEndTheirPauses := by
  intro s m x p hm hx hlevel hver hlen hseg hkept hp
  have hexec := execDecide_of_live ⟨hx, hver, hlen, hseg, hkept⟩ hm
  have hpause : pauseNamed (heard s m) m.element = some p := hp
  refine ⟨fun hwait hsel hdue hoff hmore htotal => ?_, fun hlate => ?_, fun hother => ?_⟩
  · have hjudged := hexec.trans (congrArg _ (decideReq_of_waiting (x := { x with last := s.clk }) hlevel hpause hwait hsel hdue
      hoff hmore htotal hseg))
    refine ⟨fun hok => hjudged.trans ?_, fun hbad => hjudged.trans ?_⟩
    · exact congrArg (fun r : State × Nat => Host.Outcome.next (reply r.1 m r.2)) (judge_of_accepted hok)
    · exact congrArg (fun r : State × Nat => Host.Outcome.next (reply r.1 m r.2)) (judge_of_refused hbad)
  · exact hexec.trans (congrArg _ (decideReq_of_late hlevel hpause hlate))
  · exact hexec.trans (congrArg _ (decideReq_of_other hlevel hpause hother))

/-- Settles O29: both ends of a pause are its function's action on the pause marked as ended. -/
theorem pausesEndByDecisionOrTimeout : Obligations.PausesEndByDecisionOrTimeout :=
  ⟨pauseTimeoutsApplyTheirAction, decisionsEndTheirPauses⟩

/-- Settles O47: each command is its answer on a state whose transactions are one more, one fewer or as they were. -/
theorem transactionsOpenAbortAndExpire : Obligations.TransactionsOpenAbortAndExpire := by
  refine ⟨fun s m x hlive hpay => ⟨fun hm => ⟨fun h hh => ?opens, fun h => freeHandle_spec,
    execTxnOpen_of_full hlive hm hpay⟩, fun hm t ht => ⟨fun hopen => ?aborts, fun hwait => ?waits⟩, fun hm ht => ?none⟩,
    fun s h t ht => ⟨?idle, ?early, ?defers⟩⟩
  case opens =>
    exact ⟨_, opened s m h, execTxnOpen_of_free hlive hm hpay hh, rfl, rfl, rfl, rfl, rfl, rfl, rfl, opened_snapRegs s m h, rfl, rfl⟩
  case aborts =>
    refine ⟨_, execTxnAbort_of_open hlive hm hpay (ownTxn_named ht) hopen, fun y hy => ?_, ?_, fun k hk => ?_, ?_, ?_, rfl⟩
    · simpa using (List.mem_filter.mp hy).2
    · rw [answered_reg, reg_bump_txnAborted, dropTxn_reg, named_reg]
    · rw [answered_reg, reg_bump_other _ 1 (by simpa using hk), dropTxn_reg, named_reg]
    · rw [answered_mem, bump_mem, dropTxn_mem, named_mem]
    · rw [answered_cores, bump_cores, dropTxn_cores, named_cores]
  case waits =>
    refine ⟨_, execTxnAbort_of_waiting hlive hm hpay (ownTxn_named ht) hwait, rfl, ?_, _,
      mem_txns_touchTxn (s := heard s m) ht, rfl, rfl, rfl⟩
    rw [answered_regs, named_regs]
  case none => exact ⟨_, execTxnAbort_of_none hlive hm hpay ht, rfl, rfl, rfl⟩
  case idle =>
    intro hopen hlast
    obtain rfl : t.handle = h := by simpa using List.find?_some ht
    have hexec := execTxnIdleExpiry_of_open ht hopen
    rw [hlast, if_pos rfl, abortTxn_of_open s hopen] at hexec
    exact ⟨_, hexec, rfl, reg_bump_txnAborted _, fun k hk => reg_bump_other _ 1 (by simpa using hk)⟩
  case early =>
    intro hopen hlast
    exact (execTxnIdleExpiry_of_open ht hopen).trans (by rw [hlast]; rfl)
  case defers =>
    intro since hstate
    have hexec := execTxnDeferLimitExpiry_of_deferred ht hstate
    refine ⟨fun hearly late => (hexec late).trans (by rw [hearly]; rfl), fun hdue => ?_⟩
    have hended : execTxnDeferLimitExpiry h false s = .next (settle (endTxn s t eCONFLICT)) :=
      (hexec false).trans (by rw [hdue]; rfl)
    refine ⟨(hexec true).trans (by rw [hdue]; rfl), hended, fun hlone => ?_⟩
    obtain ⟨hmem, hcores, hdev, htxns, hcount⟩ := endTxn_frame s t (code := eCONFLICT) (by decide)
    have hnone : (endTxn s t eCONFLICT).dunrel.txns = [] := by
      rw [htxns, hlone]
      simp
    rw [settle_of_none_waiting (by rw [hnone]; exact List.forall_mem_nil _)] at hended
    exact ⟨_, hended, hnone, hmem, hcores, hdev, hcount⟩

end Sys2Proof.Slice0

/-! ### Scrubbing and retired channels (R336, R339, R341, R347 to R351) -/

namespace Sys2Proof.Machine

/-! #### What a scrub read of an unmirrored granule leaves (R334, R336, R337, R339) -/

/-- What the reads of an unmirrored granule and the R341 check change: reports and the counters and logs of memory errors, the store
that a marked DQ makes due, and of memory's condition what the reads note of errors, failing channels and channels to retire. -/
structure Scrubbed (s t : State) : Prop where
  rest : t = { s with
    regs := t.regs, dunrel := t.dunrel, net := t.net, recov := t.recov, sent := t.sent, egress := t.egress
    ras := { s.ras with bad := t.ras.bad, passCe := t.ras.passCe, dqHits := t.ras.dqHits, ues := t.ras.ues
                        failing := t.ras.failing, retireNext := t.ras.retireNext } }

theorem Scrubbed.refl (s : State) : Scrubbed s s := ⟨rfl⟩

theorem Scrubbed.trans {s t u : State} (h : Scrubbed s t) (k : Scrubbed t u) : Scrubbed s u where
  rest := k.rest.trans (congrArg (fun x : State => { x with
    regs := u.regs, dunrel := u.dunrel, net := u.net, recov := u.recov, sent := u.sent, egress := u.egress
    ras := { x.ras with bad := u.ras.bad, passCe := u.ras.passCe, dqHits := u.ras.dqHits, ues := u.ras.ues
                        failing := u.ras.failing, retireNext := u.ras.retireNext } }) h.rest)

theorem Reported.scrubbed {s t : State} (h : Reported s t) : Scrubbed s t where
  rest := by
    have hrecov : t.recov = s.recov := by rw [h.rest]
    rw [h.ras, hrecov]
    exact h.rest

theorem Reported.cores {s t : State} (h : Reported s t) : t.cores = s.cores := by rw [h.rest]

/-- What a scrub read keeps of the state (R339). -/
theorem Scrubbed.frame {s t : State} (h : Scrubbed s t) : t.ras.scrubAt = s.ras.scrubAt ∧ t.ras.lost = s.ras.lost ∧
    t.mem = s.mem ∧ t.cores = s.cores ∧ t.job = s.job ∧ t.dev = s.dev := by
  refine ⟨?_, ?_, ?_, ?_, ?_, ?_⟩ <;> rw [h.rest]

theorem memLog_scrubbed (s : State) (a : Nat) (h : Nat × Nat) (outcome sym0 sym1 req : Nat) :
    Scrubbed s (memLog s a h outcome sym0 sym1 req) := ⟨rfl⟩

theorem bump_scrubbed (s : State) (k n : Nat) : Scrubbed s (bump s k n) := ⟨rfl⟩

theorem declareFailed_scrubbed (s : State) (c : Nat) : Scrubbed s (declareFailed s c) := by
  unfold declareFailed
  split <;> exact ⟨rfl⟩

theorem markDq_scrubbed (s : State) (c dq : Nat) : Scrubbed s (markDq s c dq) := by
  unfold markDq
  dsimp only
  split
  case h_1 => exact ⟨rfl⟩
  case h_2 =>
    split
    case isTrue => exact .refl _
    case isFalse => exact declareFailed_scrubbed s c
  case h_3 => exact .refl _

theorem countCorrected_scrubbed (s : State) (c : Nat) (syms : List Nat) : Scrubbed s (countCorrected s c syms) := by
  unfold countCorrected
  dsimp only
  split
  case h_1 => exact ⟨rfl⟩
  case h_2 =>
    split
    case isTrue => exact .trans ⟨rfl⟩ (markDq_scrubbed _ _ _)
    case isFalse => exact ⟨rfl⟩

theorem noteUncorrectable_scrubbed (s : State) (c g : Nat) : Scrubbed s (noteUncorrectable s c g) := by
  unfold noteUncorrectable
  dsimp only
  split
  case isTrue => exact .trans ⟨rfl⟩ (declareFailed_scrubbed _ _)
  case isFalse => exact ⟨rfl⟩

theorem keepError_scrubbed (s : State) (a : Nat) (errs : List (Nat × Byte)) : Scrubbed s (keepError s a errs) := by
  unfold keepError
  dsimp only
  split <;> exact ⟨rfl⟩

/-- Each decoder outcome of a codeword counts and logs (R334, R335, R337). -/
theorem readCodeword_scrubbed (s : State) (g k : Nat) (errs : List SymErr) (req : Nat) :
    Scrubbed s (readCodeword s g k errs req).1 := by
  unfold readCodeword
  dsimp only
  split
  case h_1 => exact .refl _
  case h_2 =>
    have hcounted (p : Prop) [Decidable p] (c : Nat) (syms : List Nat) : Scrubbed s (if p then s else countCorrected s c syms) := by
      split
      case isTrue => exact .refl _
      case isFalse => exact countCorrected_scrubbed s c syms
    dsimp only
    exact (hcounted _ _ _).trans <| (memLog_scrubbed _ _ _ _ _ _ _).trans
      (reportFault_reported _ _ _ _ _ _ (by decide)).scrubbed
  case h_3 => exact ⟨rfl⟩
  case h_4 =>
    exact (keepError_scrubbed s _ _).trans <| (bump_scrubbed _ _ _).trans <| (memLog_scrubbed _ _ _ _ _ _ _).trans
      (noteUncorrectable_scrubbed _ _ _)

theorem readCopy_scrubbed (s : State) (g : Nat) (errs : List SymErr) (req : Nat) : Scrubbed s (readCopy s g errs req).1 := by
  unfold readCopy
  split
  case isTrue => exact memLog_scrubbed s _ _ _ _ _ _
  case isFalse =>
    split
    case isTrue => exact .refl s
    case isFalse =>
      exact List.foldlRecOn _ _ (motive := fun x : State × List Byte × Bool => Scrubbed s x.1) (.refl s) fun x hx k _ =>
        hx.trans (readCodeword_scrubbed x.1 g k errs req)

theorem writeBack_scrubbed (s : State) (g : Nat) (errs : List SymErr) : Scrubbed s (writeBack s g errs) := ⟨rfl⟩

/-- An unmirrored granule is read once, and its corrections are written back (R339). -/
theorem scrubGranule_scrubbed {s : State} {g : Nat} (h : isMirrored s g = false) (errs mErrs : List SymErr) (wrote : Bool) :
    Scrubbed s (scrubGranule s g errs mErrs wrote) := by
  have hread := readCopy_scrubbed s g errs 0x0100
  simp only [scrubGranule, h, Bool.not_false, Bool.true_or, if_true]
  split
  case isTrue => exact hread
  case isFalse => exact hread.trans (writeBack_scrubbed _ g errs)

/-! #### The corrections of a pass (R341) -/

theorem decideRetire_eq (s : State) (c : Nat) : ∃ l, decideRetire s c = modRas s fun r => { r with retireNext := l } := by
  unfold decideRetire
  split
  case isTrue => exact ⟨s.ras.retireNext, rfl⟩
  case isFalse => exact ⟨_, rfl⟩

theorem beginPause_reported (s : State) (selector : Nat) (report : List Byte) : Reported s (beginPause s selector report).1 := by
  unfold beginPause
  split
  case h_1 => exact .refl s
  case h_2 =>
    split
    case isTrue => exact .refl s
    case isFalse =>
      dsimp only
      refine .trans ?_ (raiseEvent_reported _ _ _)
      exact ⟨rfl, fun _ _ => rfl⟩

/-- A channel beyond CE_RETIRE_LIMIT is at most put among those to retire, or asked about (R341). -/
theorem checkLimit_reported (s : State) (c : Nat) :
    ∃ l, Reported (modRas s fun r => { r with retireNext := l }) (checkLimit s c) := by
  have hstands {t : State} (h : Reported s t) : ∃ l, Reported (modRas s fun r => { r with retireNext := l }) t :=
    ⟨s.ras.retireNext, h⟩
  have hretires : ∃ l, Reported (modRas s fun r => { r with retireNext := l }) (decideRetire s c) := by
    obtain ⟨l, hl⟩ := decideRetire_eq s c
    exact ⟨l, hl ▸ .refl _⟩
  unfold checkLimit
  dsimp only
  split
  case isTrue => exact hstands (.refl s)
  case isFalse =>
    split
    case isTrue =>
      split
      case isTrue => exact hstands (beginPause_reported s _ _)
      case isFalse => exact hretires
    case isFalse => exact hretires

theorem checkLimit_scrubbed (s : State) (c : Nat) : Scrubbed s (checkLimit s c) := by
  obtain ⟨l, hl⟩ := checkLimit_reported s c
  exact .trans (t := modRas s fun r => { r with retireNext := l }) ⟨rfl⟩ hl.scrubbed

/-! #### The scrubbers (R339, R341) -/

section
variable {s : State} {c : Fin 128}

theorem execScrubRead_of_resting
    (h : s.dev = .off ∨ s.dev = .asleep ∨ chanState s c.val = 2 ∨ scrubPos s c.val ≥ channelGranules)
    (errs mErrs : List SymErr) (wrote : Bool) : execScrubRead c errs mErrs wrote s = .next s := if_pos h

/-- The scrubber of a channel past a granule that it has read. -/
def movedOn (t : State) (c i : Nat) : State := modRas t fun r => { r with scrubAt := r.scrubAt.set c i }

theorem execScrubRead_of_reading (hoff : s.dev ≠ .off) (hasleep : s.dev ≠ .asleep) (hstate : chanState s c.val ≠ 2)
    (hpos : scrubPos s c.val < channelGranules) (errs mErrs : List SymErr) (wrote : Bool) :
    execScrubRead c errs mErrs wrote s = .next (checkLimit (movedOn
      (scrubGranule s (granuleOf s c.val (scrubPos s c.val)) errs mErrs wrote) c.val (scrubPos s c.val + 1)) c.val) :=
  if_neg (by simp only [hoff, hasleep, hstate, false_or]; omega)

theorem scrubPos_of_scrubAt {t : State} (h : t.ras.scrubAt = s.ras.scrubAt) (d : Nat) : scrubPos t d = scrubPos s d :=
  congrArg (fun l : List Nat => l.getD d 0) h

theorem scrubPos_movedOn_self {i : Nat} (h : c.val < s.ras.scrubAt.length) : scrubPos (movedOn s c.val i) c.val = i := by
  simp [scrubPos, movedOn, h]

theorem scrubPos_movedOn_other {d : Fin 128} (h : d ≠ c) (i : Nat) : scrubPos (movedOn s c.val i) d.val = scrubPos s d.val := by
  have hne : c.val ≠ d.val := fun e => h (Fin.ext e.symm)
  simp [scrubPos, movedOn, List.getElem?_set_ne hne]

theorem execScrubPassEnd_of_running (h : scrubPos s c.val < channelGranules) : execScrubPassEnd c s = .next s := if_pos h

/-- The next pass of a channel begun: at its first granule, with no corrections (R341). -/
def nextPass (t : State) (c : Nat) : State := modRas t fun r => { r with
  scrubAt := r.scrubAt.set c 0, passCe := r.passCe.filter fun x => x.1 != c
  dqHits := r.dqHits.filter fun x => x.1 != c, kept := r.kept.erase c }

theorem execScrubPassEnd_of_ended (h : channelGranules ≤ scrubPos s c.val) :
    execScrubPassEnd c s = .next (nextPass (bump (checkLimit s c.val) (Obj.scrubPasses + c.val) 1) c.val) :=
  if_neg (Nat.not_lt.mpr h)

theorem scrubPos_nextPass_self : scrubPos (nextPass s c.val) c.val = 0 := by
  simp only [scrubPos, nextPass, modRas_ras, List.getD_eq_getElem?_getD, List.getElem?_set_self']
  cases s.ras.scrubAt[c.val]? <;> rfl

theorem scrubPos_nextPass_other {d : Fin 128} (h : d ≠ c) : scrubPos (nextPass s c.val) d.val = scrubPos s d.val :=
  scrubPos_movedOn_other h 0

theorem passCorrected_nextPass_self : passCorrected (nextPass s c.val) c.val = 0 := by
  have hnone : (s.ras.passCe.filter fun x => x.1 != c.val).find? (fun x => x.1 == c.val) = none :=
    List.find?_eq_none.mpr fun x hx => by simpa using (List.mem_filter.mp hx).2
  simp only [passCorrected, nextPass, modRas_ras, hnone, Option.map_none, Option.getD_none]

theorem passCorrected_nextPass_other {d : Fin 128} (h : d ≠ c) :
    passCorrected (nextPass s c.val) d.val = passCorrected s d.val := by
  have hne : d.val ≠ c.val := fun e => h (Fin.ext e)
  have hfind : (s.ras.passCe.filter fun x => x.1 != c.val).find? (fun x => x.1 == d.val) =
      s.ras.passCe.find? fun x => x.1 == d.val := by
    rw [List.find?_filter]
    congr 1
    funext x
    by_cases hx : x.1 = d.val <;> simp [hx, hne]
  simp only [passCorrected, nextPass, modRas_ras, hfind]

end

/-! #### A retired channel (R348, R350) -/

/-- The indices of the objects that a retirement writes: MEM_CHAN_STATE, MEM_ERR_LOG and MEM_ERR_HEAD (R338, R348). -/
def retireIdx : List Nat := [0x3020, 0x3100, 0x3101]

theorem reg_memLog_other (s : State) (a : Nat) (h : Nat × Nat) (outcome sym0 sym1 req : Nat) {k : Nat}
    (hlog : keyIdx k ≠ 0x3100) (hhead : keyIdx k ≠ 0x3101) : reg (memLog s a h outcome sym0 sym1 req) k = reg s k := by
  have hentry (n : Nat) : keyIdx (Obj.memErrLog + n % 64) = 0x3100 := by
    rw [keyIdx_add_elem (by simp only [Obj.memErrLog]; omega)]
    decide
  exact (reg_setReg_other _ _ (ne_of_keyIdx_ne hhead)).trans
    (reg_setReg_other _ _ (ne_of_keyIdx_ne fun e => hlog (e.trans (hentry _))))

theorem keyIdx_memChanState (c : Fin 128) : keyIdx (Obj.memChanState + c.val) = 0x3020 := keyIdx_add_core c (by decide)

theorem reg_retireChannel_state (s : State) (c : Fin 128) : reg (retireChannel s c.val) (Obj.memChanState + c.val) =
    2 ^ 15 + (retirements s).length % 8 * 2 ^ 11 := by
  have hidx := keyIdx_memChanState c
  exact (reg_memLog_other _ _ _ _ _ _ _ (by rw [hidx]; decide) (by rw [hidx]; decide)).trans (reg_setReg_self s _ _)

theorem reg_retireChannel_other (s : State) (c : Fin 128) {k : Nat} (hk : keyIdx k ∉ retireIdx) :
    reg (retireChannel s c.val) k = reg s k := by
  simp only [retireIdx, List.mem_cons, List.not_mem_nil, or_false, not_or] at hk
  obtain ⟨hstate, hlog, hhead⟩ := hk
  exact (reg_memLog_other _ _ _ _ _ _ _ hlog hhead).trans
    (reg_setReg_other s _ (ne_of_keyIdx_ne fun e => hstate (e.trans (keyIdx_memChanState c))))

/-- What a retirement changes beside registers. -/
theorem retireChannel_rest (s : State) (c : Nat) : retireChannel s c = { s with
    regs := (retireChannel s c).regs, recov := { s.recov with storeDue := true }
    ras := { s.ras with
      copying := s.ras.copying.filter (· != c), retireNext := s.ras.retireNext.filter (· != c)
      failing := s.ras.failing.filter (· != c), kept := s.ras.kept.filter (· != c) } } := rfl

theorem execRetireCopyDone_of_idle {s : State} {c : Fin 128} (h : c.val ∉ s.ras.copying) : execRetireCopyDone c s = .next s := by
  simp only [execRetireCopyDone, List.contains_eq_mem, h, decide_false, Bool.false_eq_true, if_false]

theorem execRetireCopyDone_of_copying {s : State} {c : Fin 128} (h : c.val ∈ s.ras.copying) :
    execRetireCopyDone c s = .next (retireChannel s c.val) := by
  simp only [execRetireCopyDone, List.contains_eq_mem, h, decide_true, if_true]

/-! #### What a change of the device state leaves (R10, R467) -/

/-- The indices of the objects that a change of the device state writes: EVENT_DROPPED, TXN_ABORTED and IMAGE_STATE (R10, R467). -/
def devIdx : List Nat := [0x1024, 0x1045, 0x2002]

/-- What a change of the device state and the transactions it ends change (R10, R467). -/
structure DevChanged (s t : State) : Prop where
  rest : t = { s with dev := t.dev, regs := t.regs, dunrel := t.dunrel, net := t.net, sent := t.sent, egress := t.egress }
  reg : ∀ k, keyIdx k ∉ devIdx → reg t k = reg s k

theorem DevChanged.refl (s : State) : DevChanged s s := ⟨rfl, fun _ _ => rfl⟩

theorem DevChanged.trans {s t u : State} (h : DevChanged s t) (k : DevChanged t u) : DevChanged s u where
  rest := k.rest.trans (congrArg (fun x : State => { x with
    dev := u.dev, regs := u.regs, dunrel := u.dunrel, net := u.net, sent := u.sent, egress := u.egress }) h.rest)
  reg x hx := (k.reg x hx).trans (h.reg x hx)

theorem Told.devChanged {s t : State} (h : Told s t) : DevChanged s t where
  rest := by
    have hdev : t.dev = s.dev := by rw [h.rest]
    have hdunrel : t.dunrel = { s.dunrel with sessions := t.dunrel.sessions } := by rw [h.rest]
    have hnet : t.net = { s.net with inbox := t.net.inbox } := by rw [h.rest]
    rw [hdev, hdunrel, hnet]
    exact h.rest
  reg k hk := h.reg k fun i => ne_of_keyIdx_ne fun e => hk <| by
    have hi := i.isLt
    rw [e, keyIdx_add_elem (by simp only [Obj.eventDropped]; omega)]
    decide

theorem setReg_devChanged (s : State) {k : Nat} (v : Nat) (h : keyIdx k ∈ devIdx) : DevChanged s (setReg s k v) where
  rest := rfl
  reg _ hx := reg_setReg_other s v (ne_of_keyIdx_ne fun he => hx (he ▸ h))

theorem dropTxn_devChanged (s : State) (h : Nat) : DevChanged s (dropTxn s h) := ⟨rfl, fun _ _ => rfl⟩

theorem imageIdle_devChanged (s : State) (t : Txn) : DevChanged s (imageIdle s t) := by
  unfold imageIdle
  split
  case isTrue => exact setReg_devChanged s _ (by decide)
  case isFalse => exact .refl s

theorem abortTxn_devChanged (s : State) (t : Txn) : DevChanged s (abortTxn s t) :=
  (dropTxn_devChanged s t.handle).trans ((imageIdle_devChanged _ t).trans (setReg_devChanged _ _ (by decide)))

theorem abortWaiting_devChanged (s : State) : DevChanged s (abortWaiting s) :=
  List.foldlRecOn _ _ (motive := DevChanged s)
    (List.foldlRecOn _ _ (motive := DevChanged s) (.refl s) fun t ht x _ =>
      ht.trans ((abortTxn_devChanged t x).trans (endTxn_told t x (by decide)).devChanged))
    fun t ht x _ => ht.trans ((dropTxn_devChanged t x.handle).trans (setReg_devChanged _ _ (by decide)))

theorem setDev_devChanged (s : State) (d : DeviceState) : DevChanged s (setDev s d) := by
  unfold setDev
  split
  case isTrue => exact .refl s
  case isFalse =>
    have hdev : DevChanged s { s with dev := d } := ⟨rfl, fun _ _ => rfl⟩
    dsimp only
    split
    case isTrue => exact hdev.trans ((abortWaiting_devChanged _).trans (raiseEvent_told _ _ _).devChanged)
    case isFalse => exact hdev.trans (raiseEvent_told _ _ _).devChanged

/-! #### A failed channel (R347 to R351) -/

/-- A fault report counts its fault (R432). -/
theorem reportFault_counted (s : State) {code : Nat} (outcome addr err die unit : Nat) (hcode : code < 0x20) :
    Slice0.FaultCounted s (reportFault s code outcome addr err die unit) code := by
  have hsize : keySize (Obj.faultCount + code) = 4 := by
    rw [keySize_add_elem (by simp only [Obj.faultCount]; omega)]
    decide
  have htold := (reportFault_told s code outcome addr err die unit).reg (Obj.faultCount + code)
    (ne_eventDropped (Nat.le_add_right_of_le (by decide)))
  rw [Slice0.FaultCounted, htold, logFault, reg_bump_self,
    reg_setReg_other _ _ (by simp only [Obj.faultLogHead, Obj.faultCount]; omega),
    reg_setReg_other _ _ (by simp only [Obj.faultLog, Obj.faultCount]; omega), hsize]

section
variable {s : State} {c : Fin 128} {phy : Bool}

theorem execChannelFailed_of_idle (h : (phy = false ∧ c.val ∉ s.ras.failing) ∨ chanState s c.val = 2 ∨ s.dev = .off) :
    execChannelFailed c phy s = .next s :=
  if_pos (by
    rcases h with ⟨hphy, hfailing⟩ | hretired | hoff
    · simp [hphy, hfailing]
    · simp [hretired]
    · simp [hoff])

/-- A channel no longer among those declared failed. -/
def notFailing (s : State) (c : Nat) : State := modRas s fun r => { r with failing := r.failing.filter (· != c) }

/-- Granules lost with a channel, which is to be rebuilt (R349). -/
def withLost (s : State) (gone : List Nat) (c : Nat) : State :=
  let t := modRas s fun r => { r with
    lost := gone ++ r.lost.filter fun g => !gone.contains g
    bad := r.bad.filter fun x => !gone.contains (x.1 / 256 * 256), rebuilding := c :: r.rebuilding }
  setReg t Obj.memLost t.ras.lost.length

theorem execChannelFailed_of_failing (hfails : phy = true ∨ c.val ∈ s.ras.failing) (hstate : chanState s c.val ≠ 2)
    (hoff : s.dev ≠ .off) : execChannelFailed c phy s = .next
      (if (reg s Obj.retireReserve + 1) / 2 ≤ (retirements s).length then
        setDev (reportFault (notFailing s c.val) 0x0C 1 0 0 (c.val / 32) c.val) .faulted
      else reportFault (withLost (retireChannel s c.val) (lostWith s c.val) c.val) 0x0C
        (if (lostWith s c.val).any (inJobWindow s) then 1 else 0) 0 0 (c.val / 32) c.val) := by
  have hgo : ¬ (!(phy || s.ras.failing.contains c.val) || chanState s c.val == 2 || s.dev == .off) = true := by
    rcases hfails with hphy | hfailing
    · simp [hphy, hstate, hoff]
    · simp [hfailing, hstate, hoff]
  rw [execChannelFailed, if_neg hgo]
  exact (apply_ite Host.Outcome.next _ _ _).symm

theorem mem_lost_withLost (gone : List Nat) (n g : Nat) : g ∈ (withLost s gone n).ras.lost ↔ g ∈ gone ∨ g ∈ s.ras.lost := by
  simp only [withLost, setReg_ras, modRas_ras, List.mem_append, List.mem_filter, List.contains_eq_mem, Bool.not_eq_true',
    decide_eq_false_iff_not]
  refine ⟨Or.imp_right And.left, fun h => ?_⟩
  by_cases hg : g ∈ gone
  · exact .inl hg
  · exact .inr ⟨h.resolve_left hg, hg⟩

theorem reg_withLost_memLost (gone : List Nat) (n : Nat) : reg (withLost s gone n) Obj.memLost = (withLost s gone n).ras.lost.length :=
  reg_setReg_self _ _ _

theorem reg_withLost_other (gone : List Nat) (n : Nat) {k : Nat} (h : k ≠ Obj.memLost) : reg (withLost s gone n) k = reg s k :=
  reg_setReg_other _ _ h

end

end Sys2Proof.Machine

namespace Sys2Proof.Slice0
open Sys2Proof.Machine

theorem scrubRead_moves_on {s : State} {c : Fin 128} (hoff : s.dev ≠ .off) (hasleep : s.dev ≠ .asleep)
    (hstate : chanState s c.val ≠ 2) (hpos : scrubPos s c.val < channelGranules) (hlen : s.ras.scrubAt.length = 128)
    (hmirror : isMirrored s (granuleOf s c.val (scrubPos s c.val)) = false) (e m : List SymErr) (w : Bool) :
    ∃ t, exec (.scrubRead c e m w) s = .next t ∧ scrubPos t c.val = scrubPos s c.val + 1 ∧
      (∀ d : Fin 128, d ≠ c → scrubPos t d.val = scrubPos s d.val) ∧ t.mem = s.mem ∧ t.cores = s.cores ∧ t.job = s.job ∧
      t.dev = s.dev ∧ t.ras.lost = s.ras.lost := by
  refine ⟨_, execScrubRead_of_reading hoff hasleep hstate hpos e m w, ?_⟩
  have hread := scrubGranule_scrubbed hmirror e m w
  generalize scrubGranule s _ e m w = u at hread ⊢
  obtain ⟨hat, hlost, hmem, hcores, hjob, hdev⟩ := hread.frame
  obtain ⟨hat', hlost', hmem', hcores', hjob', hdev'⟩ := (checkLimit_scrubbed (movedOn u c.val (scrubPos s c.val + 1)) c.val).frame
  refine ⟨?_, fun d hd => ?_, hmem'.trans hmem, hcores'.trans hcores, hjob'.trans hjob, hdev'.trans hdev, hlost'.trans hlost⟩
  · exact (scrubPos_of_scrubAt hat' _).trans (scrubPos_movedOn_self (by rw [hat, hlen]; exact c.isLt))
  · exact (scrubPos_of_scrubAt hat' _).trans ((scrubPos_movedOn_other hd _).trans (scrubPos_of_scrubAt hat _))

theorem scrubPassEnd_starts_next_pass {s : State} {c : Fin 128} (h : channelGranules ≤ scrubPos s c.val) :
    ∃ t, exec (.scrubPassEnd c) s = .next t ∧ scrubPos t c.val = 0 ∧ passCorrected t c.val = 0 ∧
      reg t (Obj.scrubPasses + c.val) = (reg s (Obj.scrubPasses + c.val) + 1) % 2 ^ 32 ∧
      t.mem = s.mem ∧ t.cores = s.cores ∧ t.job = s.job ∧ t.dev = s.dev ∧
      (∀ d : Fin 128, d ≠ c → scrubPos t d.val = scrubPos s d.val ∧ passCorrected t d.val = passCorrected s d.val) := by
  have hsize : keySize (Obj.scrubPasses + c.val) = 4 := by
    have hc := c.isLt
    rw [keySize_add_elem (by simp only [Obj.scrubPasses]; omega)]
    decide
  have hidx : keyIdx (Obj.scrubPasses + c.val) ∉ reportIdx := by
    rw [keyIdx_add_core c (by decide)]
    decide
  refine ⟨_, execScrubPassEnd_of_ended h, scrubPos_nextPass_self, passCorrected_nextPass_self, ?_⟩
  obtain ⟨l, hl⟩ := checkLimit_reported s c.val
  obtain ⟨-, -, hmem, hcores, hjob, hdev⟩ := (checkLimit_scrubbed s c.val).frame
  generalize checkLimit s c.val = u at hl hmem hcores hjob hdev ⊢
  have hat : u.ras.scrubAt = s.ras.scrubAt := by rw [hl.ras]; rfl
  have hpass : u.ras.passCe = s.ras.passCe := by rw [hl.ras]; rfl
  refine ⟨?_, hmem, hcores, hjob, hdev, fun d hd => ⟨?_, ?_⟩⟩
  · exact (reg_bump_self u _ 1).trans (by rw [hsize, hl.reg _ hidx]; rfl)
  · exact (scrubPos_nextPass_other hd).trans (scrubPos_of_scrubAt hat _)
  · refine (passCorrected_nextPass_other hd).trans ?_
    simp only [passCorrected, bump_ras, hpass]

theorem retireCopyDone_retires {s : State} {c : Fin 128} (h : c.val ∈ s.ras.copying) :
    ∃ t, exec (.retireCopyDone c) s = .next t ∧
      reg t (Obj.memChanState + c.val) = 2 ^ 15 + (retirements s).length % 8 * 2 ^ 11 ∧ c.val ∉ t.ras.copying ∧
      t.ras.lost = s.ras.lost ∧ t.mem = s.mem ∧ t.cores = s.cores ∧ t.dev = s.dev ∧
      t.recov = { s.recov with storeDue := true } := by
  refine ⟨_, execRetireCopyDone_of_copying h, reg_retireChannel_state s c, ?_⟩
  rw [retireChannel_rest]
  exact ⟨not_mem_filter_bne _, rfl, rfl, rfl, rfl, rfl⟩

theorem scrubbersReadInOrder : ScrubbersReadInOrder := fun _ _ =>
  ⟨execScrubRead_of_resting, scrubRead_moves_on, execScrubPassEnd_of_running, scrubPassEnd_starts_next_pass,
    execRetireCopyDone_of_idle, retireCopyDone_retires⟩

/-- A channel that fails when the reserve is used up (R351). -/
theorem failedChannel_faults_module (s : State) (c : Fin 128) :
    let t := setDev (reportFault (notFailing s c.val) 0x0C 1 0 0 (c.val / 32) c.val) .faulted
    FaultCounted s t 0x0C ∧ t.mem = s.mem ∧ t.cores = s.cores ∧ c.val ∉ t.ras.failing ∧ t.dev = .faulted ∧
      reg t (Obj.memChanState + c.val) = reg s (Obj.memChanState + c.val) ∧ t.ras.lost = s.ras.lost := by
  have hreported := reportFault_reported (notFailing s c.val) 1 0 0 (c.val / 32) c.val (code := 0x0C) (by decide)
  have hcounted := reportFault_counted (notFailing s c.val) 1 0 0 (c.val / 32) c.val (code := 0x0C) (by decide)
  generalize reportFault (notFailing s c.val) 0x0C 1 0 0 (c.val / 32) c.val = u at hreported hcounted ⊢
  have hchanged := setDev_devChanged u .faulted
  have hidx := keyIdx_memChanState c
  have hstate : reg u (Obj.memChanState + c.val) = reg s (Obj.memChanState + c.val) :=
    hreported.reg _ (by rw [hidx]; decide)
  have hras : (setDev u .faulted).ras = (notFailing s c.val).ras := by rw [hchanged.rest]; exact hreported.ras
  refine ⟨(hchanged.reg _ (by decide)).trans hcounted, ?_, ?_, ?_, setDev_dev u _,
    (hchanged.reg _ (by rw [hidx]; decide)).trans hstate, ?_⟩
  · rw [hchanged.rest]
    exact hreported.mem
  · rw [hchanged.rest]
    exact hreported.cores
  · rw [hras]
    exact not_mem_filter_bne _
  · rw [hras]
    rfl

/-- A channel that fails and takes the next reserve part (R347 to R349): `gone` are the granules lost with it. -/
theorem failedChannel_is_retired (s : State) (c : Fin 128) (gone : List Nat) (outcome : Nat) :
    let t := reportFault (withLost (retireChannel s c.val) gone c.val) 0x0C outcome 0 0 (c.val / 32) c.val
    FaultCounted s t 0x0C ∧ t.mem = s.mem ∧ t.cores = s.cores ∧ c.val ∉ t.ras.failing ∧ t.dev = s.dev ∧
      reg t (Obj.memChanState + c.val) = 2 ^ 15 + (retirements s).length % 8 * 2 ^ 11 ∧
      (∀ g, g ∈ t.ras.lost ↔ g ∈ gone ∨ g ∈ s.ras.lost) ∧ reg t Obj.memLost = t.ras.lost.length ∧
      c.val ∈ t.ras.rebuilding := by
  have hidx := keyIdx_memChanState c
  have hrest := retireChannel_rest s c.val
  have hcount : reg (retireChannel s c.val) (Obj.faultCount + 0x0C) = reg s (Obj.faultCount + 0x0C) :=
    reg_retireChannel_other s c (by decide)
  have hstate := reg_retireChannel_state s c
  generalize retireChannel s c.val = r at hrest hcount hstate ⊢
  have hreported := reportFault_reported (withLost r gone c.val) outcome 0 0 (c.val / 32) c.val (code := 0x0C) (by decide)
  have hcounted := reportFault_counted (withLost r gone c.val) outcome 0 0 (c.val / 32) c.val (code := 0x0C) (by decide)
  generalize reportFault (withLost r gone c.val) 0x0C outcome 0 0 (c.val / 32) c.val = t at hreported hcounted ⊢
  have hlost : r.ras.lost = s.ras.lost := by rw [hrest]
  have hfailing : r.ras.failing = s.ras.failing.filter (· != c.val) := by rw [hrest]
  have hmem : r.mem = s.mem := by rw [hrest]
  have hcores : r.cores = s.cores := by rw [hrest]
  have hdev : r.dev = s.dev := by rw [hrest]
  refine ⟨?_, hreported.mem.trans hmem, hreported.cores.trans hcores, ?_, hreported.dev.trans hdev, ?_, fun g => ?_, ?_, ?_⟩
  · rw [FaultCounted, hcounted, reg_withLost_other _ _ (by decide), hcount]
  · rw [hreported.ras]
    exact hfailing ▸ not_mem_filter_bne _
  · rw [hreported.reg _ (by rw [hidx]; decide), reg_withLost_other _ _ (ne_of_keyIdx_ne (by rw [hidx]; decide)), hstate]
  · rw [hreported.ras, mem_lost_withLost, hlost]
  · rw [hreported.reg _ (by decide), reg_withLost_memLost, hreported.ras]
  · rw [hreported.ras]
    exact List.mem_cons_self

theorem failedChannelsAreRetired : FailedChannelsAreRetired := by
  refine fun s c => ⟨fun phy => execChannelFailed_of_idle, fun phy hfails hstate hoff => ?_, ?_⟩
  · refine ⟨_, execChannelFailed_of_failing hfails hstate hoff, ?_⟩
    split
    case isTrue =>
      obtain ⟨hcounted, hmem, hcores, hfailing, hrest⟩ := failedChannel_faults_module s c
      exact ⟨hcounted, hmem, hcores, hfailing, hrest⟩
    case isFalse =>
      obtain ⟨hcounted, hmem, hcores, hfailing, hrest⟩ := failedChannel_is_retired s c (lostWith s c.val) _
      exact ⟨hcounted, hmem, hcores, hfailing, hrest⟩
  · refine ⟨_, rfl, not_mem_filter_bne _, fun d hd => ?_, rfl⟩
    simp [hd]

/-- Settles O54: scrub reads and pass ends leave all but memory's condition, and a failed channel faults the module or is retired. -/
theorem scrubbingAndRetirement : Obligations.ScrubbingAndRetirement := ⟨scrubbersReadInOrder, failedChannelsAreRetired⟩

end Sys2Proof.Slice0
